-- ==== Sys2Proof/Word.lean ====
section
/-!
DEFINITION. The words of the Vrelyon V1 and the names of their parts (R2): bytes of 8 bits, words of 32, dwords of 64,
and a row of a tile, 64 bytes. Memory is little-endian.
-/
namespace Sys2Proof

/-- A byte of memory (R2). -/
abbrev Byte := BitVec 8

/-- A dword of 64 bits: a scalar register, a status register, a program counter (R2, R88). -/
abbrev Word := BitVec 64

/-- One row of a tile: 64 bytes, byte k at bits [8k + 7 : 8k] (R2, R91). -/
abbrev Row := BitVec 512

/-- Field of a scalar register number, s0 to s63 (R31). -/
abbrev Reg := BitVec 6

/-- Field of a tile name, t0 to t15 (R31). -/
abbrev Tile := BitVec 4

/-- Field of a predicate name, p0 to p7 (R31). -/
abbrev Pred := BitVec 3

/-- An immediate, sign-extended to 64 bits from the field or literal that held it (R31, R36, R37). -/
abbrev Imm := BitVec 64

end Sys2Proof
end

