-- ==== Sys2Proof/Syntax.lean ====
section
/-!
DEFINITION. The abstract syntax: one constructor of `Instr` for every row of spec/opcode_table.json, in the table's order.
An instruction carries its operands as the fields of R30-R37 give them; a step of an engine, of system software, of a
link or of time carries the arguments that say which object it concerns (spec/95_what_each_step_holds.md).
-/
namespace Sys2Proof

/-- The element type codes of field ty (R38). Code 0x0 is i64 or the entry's default. -/
inductive Ty where
  | i64 | i32 | i16 | i8 | n64 | n32 | n16 | n8 | f32 | bf16 | f16 | e4m3 | e5m2 | lut4 | bpn | e8m0
  deriving DecidableEq, Repr

/-- The code of a type (R38). -/
def Ty.code : Ty → BitVec 4
  | .i64 => 0x0 | .i32 => 0x1 | .i16 => 0x2 | .i8 => 0x3 | .n64 => 0x4 | .n32 => 0x5 | .n16 => 0x6 | .n8 => 0x7
  | .f32 => 0x8 | .bf16 => 0x9 | .f16 => 0xA | .e4m3 => 0xB | .e5m2 => 0xC | .lut4 => 0xD | .bpn => 0xE | .e8m0 => 0xF

/-- The type of a code (R38). -/
def Ty.ofCode (c : BitVec 4) : Ty :=
  match c.toNat with
  | 0x0 => .i64 | 0x1 => .i32 | 0x2 => .i16 | 0x3 => .i8 | 0x4 => .n64 | 0x5 => .n32 | 0x6 => .n16 | 0x7 => .n8
  | 0x8 => .f32 | 0x9 => .bf16 | 0xA => .f16 | 0xB => .e4m3 | 0xC => .e5m2 | 0xD => .lut4 | 0xE => .bpn | _ => .e8m0

/-- Length and guard of an instruction: bits [1:0] of its first word (R26), and pg and pn (R35). A 32-bit instruction
has pg = 0 and pn = 0. -/
structure Form where
  len : BitVec 2
  pg  : BitVec 3
  pn  : Bool
  deriving DecidableEq, Repr

/-- A scalar source: a register, or the literal that replaces it in the 96-bit and 128-bit forms (R37). -/
inductive Src where
  | reg (r : Reg)
  | lit32 (v : BitVec 32)
  | lit64 (v : BitVec 64)
  deriving DecidableEq, Repr

/-- The shift count of tshl and tshr: a tile, or imm8 with .imm (R178). -/
inductive TShift where
  | tile (b : Tile)
  | imm (n : BitVec 8)
  deriving DecidableEq, Repr

/-- The forms of tcvt (R184, R185): plain with part p, the .mx encode with its second source and its scale tile, and
the .mx decode with its scale tile and its second destination. -/
inductive TcvtForm where
  | plain (p : BitVec 2)
  | enc (b s : Tile)
  | dec (s e : Tile)
  deriving DecidableEq, Repr

/-- The ordering suffix of an atomic (R44, R163). -/
inductive Ord where
  | rlx | acq | rel | ar
  deriving DecidableEq, Repr

/-- The three privileges (R132). -/
inductive Priv where
  | user | sv | hv
  deriving DecidableEq, Repr

/-- Why the control cores pin a fault to a kernel (R259): an error held for one of its exited strands, as entry n of a core;
an error in memory; a core that failed a scan; a held operation, or an xfer, whose service failed. -/
inductive FaultWhy where
  | held (core n : Nat)
  | memory (flat : Nat)
  | scan (core : Nat)
  | service (pkt : Nat)
  | xfer (core slot : Nat)
  deriving DecidableEq, Repr

/-- What a machine check affects (R410): a failed mesh link, a core, a cluster, the scheduler of a die; or memory, with the
kernels known to have written it, or the context that owns it where no writer is known. -/
inductive CheckWhy where
  | link (key : Nat)
  | core (c : Nat)
  | cluster (cl : Nat)
  | die (d : Nat)
  | writers (ks : List Nat)
  | owner (ctx : Nat)
  deriving DecidableEq, Repr

/-- A row of Roloskar's partition table (R423): a partition, the rectangles of its cores in the format of R41, its memory as physical
ranges (base and length), and the physical addresses of its queues' descriptors. -/
structure PartRow where
  part   : BitVec 4
  rects  : List (BitVec 32)
  mem    : List (BitVec 64 × BitVec 64)
  queues : List (BitVec 64)
  deriving DecidableEq, Repr

/-- The instructions and steps of spec/opcode_table.json. -/
inductive Instr where
  /-- `add`: integer operation of R114, second operand a register or a literal. -/
  | iAdd (f : Form) (ty : Ty) (d : Reg) (a : Reg) (b : Src)
  /-- `sub`: integer operation of R114, second operand a register or a literal. -/
  | iSub (f : Form) (ty : Ty) (d : Reg) (a : Reg) (b : Src)
  /-- `mul`: integer operation of R114, second operand a register or a literal. -/
  | iMul (f : Form) (ty : Ty) (d : Reg) (a : Reg) (b : Src)
  /-- `mulh`: integer operation of R114, second operand a register or a literal. -/
  | iMulh (f : Form) (ty : Ty) (d : Reg) (a : Reg) (b : Src)
  /-- `div`: integer operation of R114, second operand a register or a literal. -/
  | iDiv (f : Form) (ty : Ty) (d : Reg) (a : Reg) (b : Src)
  /-- `rem`: integer operation of R114, second operand a register or a literal. -/
  | iRem (f : Form) (ty : Ty) (d : Reg) (a : Reg) (b : Src)
  /-- `and`: integer operation of R114, second operand a register or a literal. -/
  | iAnd (f : Form) (ty : Ty) (d : Reg) (a : Reg) (b : Src)
  /-- `or`: integer operation of R114, second operand a register or a literal. -/
  | iOr (f : Form) (ty : Ty) (d : Reg) (a : Reg) (b : Src)
  /-- `xor`: integer operation of R114, second operand a register or a literal. -/
  | iXor (f : Form) (ty : Ty) (d : Reg) (a : Reg) (b : Src)
  /-- `andn`: integer operation of R114, second operand a register or a literal. -/
  | iAndn (f : Form) (ty : Ty) (d : Reg) (a : Reg) (b : Src)
  /-- `shl`: integer operation of R114, second operand a register or a literal. -/
  | iShl (f : Form) (ty : Ty) (d : Reg) (a : Reg) (b : Src)
  /-- `shr`: integer operation of R114, second operand a register or a literal. -/
  | iShr (f : Form) (ty : Ty) (d : Reg) (a : Reg) (b : Src)
  /-- `sra`: integer operation of R114, second operand a register or a literal. -/
  | iSra (f : Form) (ty : Ty) (d : Reg) (a : Reg) (b : Src)
  /-- `rol`: integer operation of R114, second operand a register or a literal. -/
  | iRol (f : Form) (ty : Ty) (d : Reg) (a : Reg) (b : Src)
  /-- `min`: integer operation of R114, second operand a register or a literal. -/
  | iMin (f : Form) (ty : Ty) (d : Reg) (a : Reg) (b : Src)
  /-- `max`: integer operation of R114, second operand a register or a literal. -/
  | iMax (f : Form) (ty : Ty) (d : Reg) (a : Reg) (b : Src)
  /-- `mov` (R115). -/
  | mov (f : Form) (ty : Ty) (d : Reg) (a : Reg)
  /-- `clz` (R115). -/
  | clz (f : Form) (ty : Ty) (d : Reg) (a : Reg)
  /-- `ctz` (R115). -/
  | ctz (f : Form) (ty : Ty) (d : Reg) (a : Reg)
  /-- `popc` (R115). -/
  | popc (f : Form) (ty : Ty) (d : Reg) (a : Reg)
  /-- `bext` (R116). -/
  | bext (f : Form) (ty : Ty) (d : Reg) (a : Reg) (b : Src)
  /-- `bins` (R116). -/
  | bins (f : Form) (ty : Ty) (d : Reg) (a : Reg) (b : Src)
  /-- `cvt` (R117): dty in ty, sty in md[3:0]. -/
  | cvt (f : Form) (dty : Ty) (sty : Ty) (d : Reg) (a : Reg)
  /-- `add` with an immediate (R114), imm12 or imm16, held sign-extended. -/
  | addImm (f : Form) (ty : Ty) (d : Reg) (a : Reg) (imm : Imm)
  /-- `and` with an immediate (R114), imm12 or imm16, held sign-extended. -/
  | andImm (f : Form) (ty : Ty) (d : Reg) (a : Reg) (imm : Imm)
  /-- `or` with an immediate (R114), imm12 or imm16, held sign-extended. -/
  | orImm (f : Form) (ty : Ty) (d : Reg) (a : Reg) (imm : Imm)
  /-- `xor` with an immediate (R114), imm12 or imm16, held sign-extended. -/
  | xorImm (f : Form) (ty : Ty) (d : Reg) (a : Reg) (imm : Imm)
  /-- `shl` with an immediate (R114), imm12 or imm16, held sign-extended. -/
  | shlImm (f : Form) (ty : Ty) (d : Reg) (a : Reg) (imm : Imm)
  /-- `shr` with an immediate (R114), imm12 or imm16, held sign-extended. -/
  | shrImm (f : Form) (ty : Ty) (d : Reg) (a : Reg) (imm : Imm)
  /-- `sra` with an immediate (R114), imm12 or imm16, held sign-extended. -/
  | sraImm (f : Form) (ty : Ty) (d : Reg) (a : Reg) (imm : Imm)
  /-- `rol` with an immediate (R114), imm12 or imm16, held sign-extended. -/
  | rolImm (f : Form) (ty : Ty) (d : Reg) (a : Reg) (imm : Imm)
  /-- `movi` (R118). -/
  | movi (f : Form) (d : Reg) (imm : Imm)
  /-- `lea` (R119); a = 0 takes the instruction's own address as base. -/
  | lea (f : Form) (d : Reg) (a : Reg) (imm : Imm)
  /-- `cmp` (R120). -/
  | cmp (f : Form) (ty : Ty) (cond : BitVec 3) (p : Pred) (a : Reg) (b : Src)
  /-- `sel` (R121). -/
  | sel (f : Form) (p : Pred) (sense : Bool) (d : Reg) (a : Reg) (b : Reg)
  /-- `fadd` (R122). -/
  | fadd (f : Form) (ty : Ty) (d : Reg) (a : Reg) (b : Src)
  /-- `fsub` (R122). -/
  | fsub (f : Form) (ty : Ty) (d : Reg) (a : Reg) (b : Src)
  /-- `fmul` (R122). -/
  | fmul (f : Form) (ty : Ty) (d : Reg) (a : Reg) (b : Src)
  /-- `fdiv` (R122). -/
  | fdiv (f : Form) (ty : Ty) (d : Reg) (a : Reg) (b : Src)
  /-- `fsqrt` (R122); the literal of a 96-bit form is not used (assumption 20). -/
  | fsqrt (f : Form) (ty : Ty) (d : Reg) (a : Reg) (lit : BitVec 32)
  /-- `fmin` (R122). -/
  | fmin (f : Form) (ty : Ty) (d : Reg) (a : Reg) (b : Src)
  /-- `fmax` (R122). -/
  | fmax (f : Form) (ty : Ty) (d : Reg) (a : Reg) (b : Src)
  /-- `fclass` (R122); the literal of a 96-bit form is not used (assumption 20). -/
  | fclass (f : Form) (ty : Ty) (d : Reg) (a : Reg) (lit : BitVec 32)
  /-- `frnd` (R122); the literal of a 96-bit form is not used (assumption 20). -/
  | frnd (f : Form) (ty : Ty) (d : Reg) (a : Reg) (lit : BitVec 32)
  /-- `fma` (R123); e is the addend. -/
  | fma (f : Form) (ty : Ty) (d : Reg) (a : Reg) (b : Reg) (e : Reg)
  /-- `fcmp` (R124). -/
  | fcmp (f : Form) (ty : Ty) (cond : BitVec 3) (p : Pred) (a : Reg) (b : Src)
  /-- `fcvt` (R125): dty in ty, sty in md[3:0]. -/
  | fcvt (f : Form) (dty : Ty) (sty : Ty) (d : Reg) (a : Reg)
  /-- `br` (R126), 32-bit format B: pd, ps and off18. -/
  | br (p : Pred) (ps : Bool) (off : BitVec 18)
  /-- `jmp` with a label (R127), format J. -/
  | jmp (f : Form) (off : BitVec 24)
  /-- `call` with a label (R127), format J. -/
  | call (f : Form) (off : BitVec 24)
  /-- `jmp` through a register (R127). -/
  | jmpReg (f : Form) (a : Reg)
  /-- `call` through a register (R127). -/
  | callReg (f : Form) (a : Reg)
  /-- `ret` (R127); a = 0 names s15. -/
  | ret (f : Form) (a : Reg)
  /-- `loop` with the count in a register (R128). -/
  | loop (f : Form) (lvl : BitVec 2) (a : Reg) (end16 : BitVec 16)
  /-- `loop` with an immediate count 64b + a (R128). -/
  | loopImm (f : Form) (lvl : BitVec 2) (n : BitVec 12) (end16 : BitVec 16)
  /-- `nop` (R129). -/
  | nop (f : Form)
  /-- `pause` (R129). -/
  | pause (f : Form)
  /-- Step `PAUSE_END` of the table (R129): The 16-cycle span of pause expires and pause retires. -/
  | pauseEnd (core : Nat) (strand : Nat)
  /-- `trap` (R130). -/
  | trap (f : Form)
  /-- `sys` (R131); code = 64b + a. -/
  | sys (f : Form) (code : BitVec 12)
  /-- `eret` (R132); rc is the return code of field b. -/
  | eret (f : Form) (rc : BitVec 2) (a : Reg)
  /-- `exit` (R133). -/
  | exit (f : Form)
  /-- `sleepns` (R137). -/
  | sleepns (f : Form) (a : Reg)
  /-- `waitns` (R137). -/
  | waitns (f : Form) (a : Reg)
  /-- `waitns.v` (R137). -/
  | waitnsV (f : Form) (a : Reg)
  /-- Step `TIMED_WAIT_DEADLINE` of the table (R137): A timed wait's deadline is met and the strand becomes ready. -/
  | timedWaitDeadline (core : Nat) (strand : Nat)
  /-- `rdtime` (R136). -/
  | rdtime (f : Form) (d : Reg)
  /-- `mts` (R134); sel is the selector of R47. -/
  | mts (f : Form) (ssel : BitVec 6) (a : Reg)
  /-- `mfs` (R134); sel is the selector of R47. -/
  | mfs (f : Form) (ssel : BitVec 6) (d : Reg)
  /-- `bsfill` (R139). -/
  | bsfill (f : Form) (a : Reg) (b : Reg)
  /-- `bsget`, count in a register (R140). -/
  | bsget (f : Form) (d : Reg) (b : Reg)
  /-- `bspeek`, count in a register (R140). -/
  | bspeek (f : Form) (d : Reg) (b : Reg)
  /-- `bsskip`, signed step in a register (R140). -/
  | bsskip (f : Form) (b : Reg)
  /-- `bsget #n`, n1 = n - 1 (R140). -/
  | bsgetImm (f : Form) (d : Reg) (n1 : BitVec 6)
  /-- `bspeek #n`, n1 = n - 1 (R140). -/
  | bspeekImm (f : Form) (d : Reg) (n1 : BitVec 6)
  /-- `bsskip #n`, n1 = n - 1 (R140). -/
  | bsskipImm (f : Form) (n1 : BitVec 6)
  /-- `ld` (R152). -/
  | ld (f : Form) (ty : Ty) (d : Reg) (a : Reg) (imm : Imm)
  /-- `st` (R152). -/
  | st (f : Form) (ty : Ty) (d : Reg) (a : Reg) (imm : Imm)
  /-- Step `LOAD_DATA_RETURN` of the table (R147): Data of a retired load returns and is written to its destination registers. -/
  | loadDataReturn (core : Nat) (strand : Nat) (n : Nat)
  /-- Step `DEFERRED_ECC` of the table (R147): Returning load data meets an uncorrectable error and a deferred ECC trap is taken. -/
  | deferredEcc (core : Nat) (strand : Nat) (n : Nat)
  /-- `ldn` (R154); off is the byte offset. -/
  | ldn (f : Form) (ty : Ty) (rank : BitVec 4) (d : Reg) (a : Reg) (off : BitVec 16)
  /-- `stn` (R154); off is the byte offset. -/
  | stn (f : Form) (ty : Ty) (rank : BitVec 4) (d : Reg) (a : Reg) (off : BitVec 16)
  /-- `ldt` (R155), offset form. -/
  | ldt (f : Form) (d : Tile) (a : Reg) (b : Reg) (imm : Imm)
  /-- `stt` (R155), offset form. -/
  | stt (f : Form) (d : Tile) (a : Reg) (b : Reg) (imm : Imm)
  /-- `ldt` (R155), post-increment form. -/
  | ldtPost (f : Form) (d : Tile) (a : Reg) (b : Reg) (imm : Imm)
  /-- `stt` (R155), post-increment form. -/
  | sttPost (f : Form) (d : Tile) (a : Reg) (b : Reg) (imm : Imm)
  /-- `pref` (R157), n1 = n - 1. -/
  | pref (f : Form) (n1 : BitVec 6) (a : Reg) (hc : Bool) (off : BitVec 16)
  /-- `pushm` (R156), registers a to b. -/
  | pushm (f : Form) (a : Reg) (b : Reg)
  /-- `popm` (R156), registers a to b. -/
  | popm (f : Form) (a : Reg) (b : Reg)
  /-- `rst` (R158), n1 + 1 dwords. -/
  | rst (f : Form) (of : Bool) (n1 : BitVec 3) (d : Reg) (a : Reg) (path : Option (BitVec 2))
  /-- `rld` (R158), n1 + 1 dwords. -/
  | rld (f : Form) (n1 : BitVec 3) (d : Reg) (a : Reg) (path : Option (BitVec 2))
  /-- Step `REMOTE_STORE_ARRIVE` of the table (R160): A remote store or stn reaches its target core and lands, is held for .of, or is diverted. -/
  | remoteStoreArrive (pkt : Nat) (refused : Bool)
  /-- Step `SPILL_QUEUE_SPACE_FREE` of the table (R231): A diversion held on a full spill queue is written once space frees or the queue is enlarged. -/
  | spillQueueSpaceFree (pkt : Nat)
  /-- Step `REMOTE_ACK_ARRIVE` of the table (R158): An acknowledgement or reply returns and PACKn.OUT and ACK are updated. -/
  | remoteAckArrive (pkt : Nat)
  /-- Step `REMOTE_LOAD_ARRIVE` of the table (R161): A remote load or atomic reaches its target core and is performed or waits for resumption. -/
  | remoteLoadArrive (pkt : Nat)
  /-- Step `NONRETURNING_SERVICED` of the table (R162): A refused non-returning operation performs once its fault is serviced. -/
  | nonreturningServiced (pkt : Nat)
  /-- `amo.add` (R163, R164). -/
  | amoAdd (f : Form) (ord : Ord) (ty : Ty) (d : Reg) (a : Reg) (b : Reg) (e : Reg)
  /-- `amo.min` (R163, R164). -/
  | amoMin (f : Form) (ord : Ord) (ty : Ty) (d : Reg) (a : Reg) (b : Reg) (e : Reg)
  /-- `amo.max` (R163, R164). -/
  | amoMax (f : Form) (ord : Ord) (ty : Ty) (d : Reg) (a : Reg) (b : Reg) (e : Reg)
  /-- `amo.and` (R163, R164). -/
  | amoAnd (f : Form) (ord : Ord) (ty : Ty) (d : Reg) (a : Reg) (b : Reg) (e : Reg)
  /-- `amo.or` (R163, R164). -/
  | amoOr (f : Form) (ord : Ord) (ty : Ty) (d : Reg) (a : Reg) (b : Reg) (e : Reg)
  /-- `amo.xor` (R163, R164). -/
  | amoXor (f : Form) (ord : Ord) (ty : Ty) (d : Reg) (a : Reg) (b : Reg) (e : Reg)
  /-- `amo.swap` (R163, R164). -/
  | amoSwap (f : Form) (ord : Ord) (ty : Ty) (d : Reg) (a : Reg) (b : Reg) (e : Reg)
  /-- `amo.cas` (R163, R164). -/
  | amoCas (f : Form) (ord : Ord) (ty : Ty) (d : Reg) (a : Reg) (b : Reg) (e : Reg)
  /-- `amo.fadd` (R163, R164). -/
  | amoFadd (f : Form) (ord : Ord) (ty : Ty) (d : Reg) (a : Reg) (b : Reg) (e : Reg)
  /-- `amo.xacc` (R80, R164). -/
  | amoXacc (f : Form) (ord : Ord) (ty : Ty) (a : Reg) (b : Reg) (e : Reg)
  /-- Step `PREDICTOR_DECAY` of the table (R165): Every 4,096 cycles each contention counter is lowered by 1. -/
  | predictorDecay (cluster : Nat)
  /-- `ld.acq` (R167). -/
  | ldAcq (f : Form) (ty : Ty) (d : Reg) (a : Reg) (e : Reg)
  /-- `st.rel` (R167). -/
  | stRel (f : Form) (ty : Ty) (d : Reg) (a : Reg) (e : Reg)
  /-- `fence.acq` (R171). -/
  | fenceAcq (f : Form) (a : Reg)
  /-- `fence.rel` (R171). -/
  | fenceRel (f : Form) (a : Reg)
  /-- `fence.full` (R171). -/
  | fenceFull (f : Form) (a : Reg)
  /-- `fence.ack` (R172). -/
  | fenceAck (f : Form)
  /-- `fence.acq.all` (R171). -/
  | fenceAcqAll (f : Form) (a : Reg)
  /-- `fence.rel.all` (R171). -/
  | fenceRelAll (f : Form) (a : Reg)
  /-- `fence.full.all` (R171). -/
  | fenceFullAll (f : Form) (a : Reg)
  /-- `bind` (R168). -/
  | bind (f : Form) (d : Reg) (a : Reg) (b : Reg)
  /-- `unbind` (R169). -/
  | unbind (f : Form) (a : Reg) (b : Reg)
  /-- `wbr` (R170). -/
  | wbr (f : Form) (a : Reg) (b : Reg)
  /-- `invr` (R170). -/
  | invr (f : Form) (a : Reg) (b : Reg)
  /-- `tadd` (R178). -/
  | tadd (f : Form) (ty : Ty) (sat : Bool) (d : Tile) (a : Tile) (b : Tile)
  /-- `tsub` (R178). -/
  | tsub (f : Form) (ty : Ty) (sat : Bool) (d : Tile) (a : Tile) (b : Tile)
  /-- `tmul` (R178). -/
  | tmul (f : Form) (ty : Ty) (sat : Bool) (d : Tile) (a : Tile) (b : Tile)
  /-- `tmin` (R178). -/
  | tmin (f : Form) (ty : Ty) (d : Tile) (a : Tile) (b : Tile)
  /-- `tmax` (R178). -/
  | tmax (f : Form) (ty : Ty) (d : Tile) (a : Tile) (b : Tile)
  /-- `tand` (R178). -/
  | tand (f : Form) (ty : Ty) (d : Tile) (a : Tile) (b : Tile)
  /-- `tor` (R178). -/
  | tor (f : Form) (ty : Ty) (d : Tile) (a : Tile) (b : Tile)
  /-- `txor` (R178). -/
  | txor (f : Form) (ty : Ty) (d : Tile) (a : Tile) (b : Tile)
  /-- `tshl` (R178); k is a tile or an immediate. -/
  | tshl (f : Form) (ty : Ty) (d : Tile) (a : Tile) (k : TShift)
  /-- `tshr` (R178); k is a tile or an immediate. -/
  | tshr (f : Form) (ty : Ty) (d : Tile) (a : Tile) (k : TShift)
  /-- `tfma` (R179). -/
  | tfma (f : Form) (ty : Ty) (sat : Bool) (d : Tile) (a : Tile) (b : Tile) (c : Tile)
  /-- `tcmp` (R180). -/
  | tcmp (f : Form) (ty : Ty) (cond : BitVec 3) (d : Tile) (a : Tile) (b : Tile)
  /-- `tsel` (R180). -/
  | tsel (f : Form) (ty : Ty) (d : Tile) (a : Tile) (b : Tile) (c : Tile)
  /-- `tcvt` (R184, R185). -/
  | tcvt (f : Form) (dty : Ty) (sty : Ty) (d : Tile) (a : Tile) (k : TcvtForm)
  /-- `tmov` (R181). -/
  | tmov (f : Form) (ty : Ty) (d : Tile) (a : Tile)
  /-- `tzero` (R181). -/
  | tzero (f : Form) (ty : Ty) (d : Tile)
  /-- `tiota` (R181). -/
  | tiota (f : Form) (ty : Ty) (d : Tile) (s8 : BitVec 8)
  /-- `tabs` (R181). -/
  | tabs (f : Form) (ty : Ty) (sat : Bool) (d : Tile) (a : Tile)
  /-- `tneg` (R181). -/
  | tneg (f : Form) (ty : Ty) (sat : Bool) (d : Tile) (a : Tile)
  /-- `texp2` (R182). -/
  | texp2 (f : Form) (ty : Ty) (d : Tile) (a : Tile)
  /-- `tlog2` (R182). -/
  | tlog2 (f : Form) (ty : Ty) (d : Tile) (a : Tile)
  /-- `trcp` (R182). -/
  | trcp (f : Form) (ty : Ty) (d : Tile) (a : Tile)
  /-- `trsqrt` (R182). -/
  | trsqrt (f : Form) (ty : Ty) (d : Tile) (a : Tile)
  /-- `ttanh` (R182). -/
  | ttanh (f : Form) (ty : Ty) (d : Tile) (a : Tile)
  /-- `tbcast` (R183). -/
  | tbcast (f : Form) (ty : Ty) (d : Tile) (v : Src)
  /-- `tset` (R183). -/
  | tset (f : Form) (ty : Ty) (d : Tile) (row : BitVec 4) (col : BitVec 8) (v : Src)
  /-- `trowred` (R186). -/
  | trowred (f : Form) (ty : Ty) (op : BitVec 2) (wide : Bool) (d : Tile) (a : Tile)
  /-- `tcolred` (R186). -/
  | tcolred (f : Form) (ty : Ty) (op : BitVec 2) (wide : Bool) (d : Tile) (a : Tile)
  /-- `ttrans` (R187). -/
  | ttrans (f : Form) (ty : Ty) (d : Tile) (a : Tile) (h : BitVec 8)
  /-- `tperm` (R187). -/
  | tperm (f : Form) (ty : Ty) (d : Tile) (a : Tile) (b : Tile)
  /-- `tlutload` (R188). -/
  | tlutload (f : Form) (a : Tile)
  /-- `tlut` (R189). -/
  | tlut (f : Form) (ty : Ty) (d : Tile) (a : Tile) (p : BitVec 8)
  /-- `tplanes` (R190). -/
  | tplanes (f : Form) (d : Tile) (a : Tile)
  /-- `tunplanes` (R190). -/
  | tunplanes (f : Form) (k : BitVec 4) (d : Tile) (a : Tile)
  /-- `bsget.t` (R191). -/
  | bsgetT (f : Form) (ty : Ty) (d : Tile) (n : BitVec 8)
  /-- `mldw` (R203). -/
  | mldw (f : Form) (ty : Ty) (k : BitVec 4) (slot : Bool) (a : Tile)
  /-- `mstrm` (R204); c is the accumulator, none with .z. -/
  | mstrm (f : Form) (ty : Ty) (slot : Bool) (d : Tile) (a : Tile) (c : Option Tile)
  /-- `mrd` (R205). -/
  | mrd (f : Form) (slot : Bool) (d : Tile)
  /-- `mclr` (R206). -/
  | mclr (f : Form) (slot : Bool)
  /-- `mwait` (R207). -/
  | mwait (f : Form) (cover : BitVec 2)
  /-- Step `MXA_OP_START` of the table (R196): A queued matrix operation starts once its unit and slot allow. -/
  | mxaOpStart (core : Nat) (n : Nat)
  /-- Step `MXA_OP_FINISH` of the table (R199): A matrix operation finishes and its lock bits clear. -/
  | mxaOpFinish (core : Nat) (n : Nat)
  /-- Step `MWAIT_END` of the table (R207): The last covered matrix operation finishes and a waiting mwait retires. -/
  | mwaitEnd (core : Nat) (strand : Nat)
  /-- `ctxinfo` (R239). -/
  | ctxinfo (f : Form) (d : Reg) (q : BitVec 6)
  /-- `enrd` (R240). -/
  | enrd (f : Form) (d : Reg) (a : Reg) (q : BitVec 6)
  /-- `qpost` (R250). -/
  | qpost (f : Form) (d : Reg) (a : Reg) (b : Reg)
  /-- Step `PACKET_PUBLISHED` of the table (R250): The write of a posted packet completes and the packet becomes visible to the scheduler. -/
  | packetPublished (queue : Nat) (k : Nat)
  /-- `qwait` (R251). -/
  | qwait (f : Form) (conf : Bool) (d : Reg) (a : Reg) (b : Reg)
  /-- Step `QWAIT_END` of the table (R251): DONE or CONFD passes the awaited number and a waiting qwait retires. -/
  | qwaitEnd (core : Nat) (strand : Nat)
  /-- `kinfo` (R263); a = 0 names the executing kernel. -/
  | kinfo (f : Form) (d : Reg) (a : Reg) (b : Reg)
  /-- `gid` (R278). -/
  | gid (f : Form) (d : Reg) (q : BitVec 6)
  /-- `gdom` (R279). -/
  | gdom (f : Form) (n : BitVec 6)
  /-- Step `GDOM_WAIT_END` of the table (R279): Every group of the block has started and a waiting gdom sets DOMAIN. -/
  | gdomWaitEnd (core : Nat) (strand : Nat)
  /-- `sstep` (R280). -/
  | sstep (f : Form) (a : Reg)
  /-- `sstep.end` (R280). -/
  | sstepEnd (f : Form)
  /-- Step `PHASE_END` of the table (R276): All members have issued sstep.end and every tsend has landed; the next compute phase is released. -/
  | phaseEnd (kernel : Nat) (level : Nat) (bx : Nat) (by_ : Nat) (count : Nat)
  /-- Step `STAGGERED_RELEASE` of the table (R276): A member's staggered release time passes and its sstep.end retires. -/
  | staggeredRelease (core : Nat) (strand : Nat)
  /-- Step `SCAN_START` of the table (R411): A cluster's scan begins at its TIME slot and saves its contexts. -/
  | scanStart (die : BitVec 3) (idx : BitVec 8)
  /-- Step `VOLTAGE_STEP_END` of the table (R418): A 10 mV ramp step ends and faster dividers may switch. -/
  | voltageStepEnd (cluster : Nat)
  /-- `tsend` (R281). -/
  | tsend (f : Form) (slot : BitVec 6) (t : Tile) (b : Reg)
  /-- Step `TSEND_SLOT_START` of the table (R281): A waiting tsend's slot begins and the row is sent. -/
  | tsendSlotStart (core : Nat) (strand : Nat)
  /-- Step `TSEND_LAND` of the table (R275): A slot-mapped row lands in the destination LM at one instant. -/
  | tsendLand (pkt : Nat)
  /-- `kdecl` (R294). -/
  | kdecl (f : Form) (a : Reg)
  /-- `kacq` (R295). -/
  | kacq (f : Form) (d : Reg) (a : Reg)
  /-- `ktry` (R295). -/
  | ktry (f : Form) (d : Reg) (a : Reg)
  /-- `krel` (R296). -/
  | krel (f : Form) (a : Reg)
  /-- `kquery` (R297). -/
  | kquery (f : Form) (d : Reg) (q : BitVec 6)
  /-- Step `TUMBLER_CYCLE` of the table (R289): Each cycle the Tumbler frees Limbo units, grants safe waiting requests and judges the new request. -/
  | tumblerCycle (core : Nat)
  /-- `binit` (R306). -/
  | binit (f : Form) (a : Reg) (b : Reg)
  /-- `barr` (R307). -/
  | barr (f : Form) (d : Reg) (a : Reg) (e : Reg)
  /-- `bwait` (R308). -/
  | bwait (f : Form) (d : Reg) (a : Reg) (b : Reg) (e : Reg)
  /-- `barw` (R307, R308). -/
  | barw (f : Form) (d : Reg) (a : Reg) (e : Reg)
  /-- `bpoison` (R309). -/
  | bpoison (f : Form) (a : Reg) (b : Reg) (e : Reg)
  /-- `bquery` (R310). -/
  | bquery (f : Form) (d : Reg) (a : Reg) (q : BitVec 6)
  /-- Step `BARRIER_WAITER_LEAVE` of the table (R302): A write to the barrier word reaches a waiter that then leaves with its status. -/
  | barrierWaiterLeave (core : Nat) (strand : Nat)
  /-- `xfer` (R329). -/
  | xfer (f : Form) (xf : BitVec 3) (bud : BitVec 2) (d : Reg) (a : Reg) (b : Reg)
  /-- Step `XFER_OP_START` of the table (R324): The engine begins the next queued xfer operation. -/
  | xferOpStart (core : Nat)
  /-- Step `XFER_COMPLETE` of the table (R324): Every byte of an xfer reaches its shadow frame; its record frees. -/
  | xferComplete (core : Nat) (slot : BitVec 2)
  /-- Step `XFER_FAULT` of the table (R325): A translation fault stops an xfer and reports to the control cores. -/
  | xferFault (core : Nat) (slot : BitVec 2)
  /-- Step `XFER_RESUME` of the table (R325): A serviced xfer resumes at byte DONE. -/
  | xferResume (core : Nat) (slot : BitVec 2)
  /-- `latch` (R330). -/
  | latch (f : Form) (a : Reg) (b : Reg) (e : Reg)
  /-- `ptprobe` (R331). -/
  | ptprobe (f : Form) (d : Reg) (a : Reg) (q : BitVec 6)
  /-- `tlbinv` (R332). -/
  | tlbinv (f : Form) (d : Reg) (a : Reg) (b : Reg)
  /-- `msend` (R346). -/
  | msend (f : Form) (d : Reg) (a : Reg)
  /-- Step `MSEND_ACCEPT` of the table (R346): A message offer is accepted into an inbox place or spill entry. -/
  | msendAccept (pkt : Nat)
  /-- Step `MSEND_REFUSED` of the table (R346): A refusal from the remote module returns and msend traps ACCESS. -/
  | msendRefused (pkt : Nat)
  /-- `mrecv` (R347). -/
  | mrecv (f : Form) (try_ : Bool) (d : Reg) (a : Reg)
  /-- Step `MRECV_WAIT_END` of the table (R347): A message arrives for a waiting mrecv. -/
  | mrecvWaitEnd (core : Nat) (strand : Nat)
  /-- `lquery` (R349). -/
  | lquery (f : Form) (d : Reg) (a : Reg) (q : BitVec 6)
  /-- `hopen` (R372). -/
  | hopen (f : Form) (id : BitVec 4) (slot : BitVec 2) (a : Reg) (b : Reg)
  /-- `hjoin` (R372). -/
  | hjoin (f : Form) (id : BitVec 4) (slot : BitVec 2) (a : Reg) (b : Reg)
  /-- `hload` (R373). -/
  | hload (f : Form) (ty : Ty) (id : BitVec 4) (a : Tile) (b : Reg)
  /-- `hadd` (R373). -/
  | hadd (f : Form) (ty : Ty) (id : BitVec 4) (a : Tile) (b : Reg)
  /-- `hread` (R373). -/
  | hread (f : Form) (ty : Ty) (id : BitVec 4) (d : Tile) (b : Reg)
  /-- `hpush` (R374). -/
  | hpush (f : Form) (id : BitVec 4) (d : Reg) (a : Reg)
  /-- `hleave` (R374). -/
  | hleave (f : Form) (id : BitVec 4) (d : Reg) (a : Reg)
  /-- `hmass` (R375). -/
  | hmass (f : Form) (id : BitVec 4) (d : Reg)
  /-- `hmass.set` (R375). -/
  | hmassSet (f : Form) (id : BitVec 4) (a : Reg)
  /-- `hdisag` (R375). -/
  | hdisag (f : Form) (id : BitVec 4) (d : Reg)
  /-- `hpause` (R376). -/
  | hpause (f : Form) (id : BitVec 4)
  /-- `hresume` (R376). -/
  | hresume (f : Form) (id : BitVec 4)
  /-- Step `HINGE_BG_TICK` of the table (R359): A background set's period expires and a push may be sent. -/
  | hingeBgTick (core : Nat) (slot : BitVec 2)
  /-- Step `HINGE_PUSH_ARRIVE` of the table (R360): A push reaches its target core and is received or refused. -/
  | hingePushArrive (pkt : Nat)
  /-- Step `HINGE_REPLY_ARRIVE` of the table (R361): A reply settles the held half it names. -/
  | hingeReplyArrive (pkt : Nat) (code : BitVec 3)
  /-- `wred.max` (R382); w is the witness tile. -/
  | wredMax (f : Form) (ty : Ty) (all : Bool) (row : Bool) (km1 : BitVec 3) (d : Tile) (w : Tile) (a : Tile)
  /-- `wred.min` (R382); w is the witness tile. -/
  | wredMin (f : Form) (ty : Ty) (all : Bool) (row : Bool) (km1 : BitVec 3) (d : Tile) (w : Tile) (a : Tile)
  /-- `wred.clamp` (R382). -/
  | wredClamp (f : Form) (ty : Ty) (d : Tile) (w : Tile) (a : Tile) (b : Tile) (c : Tile)
  /-- `wred.med` (R382). -/
  | wredMed (f : Form) (ty : Ty) (all : Bool) (km1 : BitVec 3) (d : Tile) (w : Tile) (a : Tile)
  /-- `wred.ssum` (R382). -/
  | wredSsum (f : Form) (ty : Ty) (row : Bool) (km1 : BitVec 3) (d : Tile) (w : Tile) (a : Tile)
  /-- `wadj` (R383); gen names a register s0-s15. -/
  | wadj (f : Form) (ty : Ty) (once : Bool) (gen : Option (BitVec 4)) (op : BitVec 3) (all : Bool) (row : Bool) (km1 : BitVec 3) (d : Tile) (g : Tile) (w : Tile)
  /-- `wst` (R386). -/
  | wst (f : Form) (d : Tile) (a : Reg)
  /-- `wld` (R386). -/
  | wld (f : Form) (d : Tile) (a : Reg)
  /-- Step `CONTEXT_CREATE` of the table (R218): System software creates a context. -/
  | contextCreate (desc : Nat) (image : List Byte)
  /-- Step `CONTEXT_DESTROY` of the table (R219): System software destroys a context not RUNNING. -/
  | contextDestroy (ctx : Nat)
  /-- Step `GANG_SWITCH_TIME` of the table (R227): A core's TIME reaches a plan entry's T and it switches contexts out or in. -/
  | gangSwitchTime (die : BitVec 3) (n : Nat) (core : Nat)
  /-- Step `PLANTAIL_WRITE` of the table (R226): Control cores post plan entries by writing PLANTAIL. -/
  | plantailWrite (die : BitVec 3) (v : Word)
  /-- Step `MESH_INTERRUPT_MESSAGE` of the table (R229): A mesh interrupt message arrives and SaveCore begins for the named context. -/
  | meshInterruptMessage (core : Nat) (ctx : Nat)
  /-- Step `RESUME_REQUEST` of the table (R221): System software asks to restore an AWAY context on a core. -/
  | resumeRequest (core : Nat) (ctx : Nat)
  /-- Step `SAVECORE_END` of the table (R223): Drains finish and the save slot is written; the context becomes AWAY. -/
  | savecoreEnd (core : Nat) (blocks : Nat)
  /-- Step `RESTORECORE_END` of the table (R224): The restore and redelivery finish and the context becomes ACTIVE. -/
  | restorecoreEnd (core : Nat)
  /-- Step `QUEUE_CREATE` of the table (R241): System software creates a queue descriptor. -/
  | queueCreate (va : Word) (ring : Word) (ctx : BitVec 16) (qid : BitVec 16) (hostq : Bool) (qprio : BitVec 4) (die : BitVec 3) (logcap : BitVec 5)
  /-- Step `QUEUE_RESET` of the table (R245): System software resets a FAULTED queue. -/
  | queueReset (queue : Nat)
  /-- Step `QUEUE_CLOSE` of the table (R245): System software closes a queue. -/
  | queueClose (queue : Nat)
  /-- Step `SLICE_BOUNDARY` of the table (R246): A scheduler time slice ends: HEAVY sampled, slots settled, queues ordered. -/
  | sliceBoundary (die : BitVec 3) (heavy : Bool)
  /-- Step `TSLICE_WRITE` of the table (R246): A write of TSLICE takes effect at the next boundary. -/
  | tsliceWrite (die : BitVec 3) (v : Word)
  /-- Step `SCHEDULER_PASS` of the table (R247): The scheduler checks and takes packets from the MAPPED queues. -/
  | schedulerPass (die : BitVec 3)
  /-- Step `HOST_DOORBELL` of the table (R252): Host writes a slot doorbell with a new WRITE. -/
  | hostDoorbell (die : BitVec 3) (k : BitVec 6) (full : Bool) (desc : Word) (write : Word)
  /-- Step `GROUP_PLACE` of the table (R265): The die placer reserves places for a group at a qualifying corner. -/
  | groupPlace (kernel : Nat) (group : Nat) (x0 : Nat) (y0 : Nat)
  /-- Step `GROUP_START` of the table (R266): All strands of a group start at one TIME Ts. -/
  | groupStart (kernel : Nat) (group : Nat)
  /-- Step `KERNEL_RETIRE` of the table (R261): All outstanding work performs; shadow frames publish and the kernel retires. -/
  | kernelRetire (kernel : Nat)
  /-- Step `KERNEL_FAULT` of the table (R259): A fault pinned to a kernel stops it as FAULTED and poisons its barriers. -/
  | kernelFault (kernel : Nat) (why : FaultWhy) (cc : BitVec 2)
  /-- Step `KERNEL_SERVICE` of the table (R258): Control cores service a FAULTED kernel, replaying or abandoning it. -/
  | kernelService (kernel : Nat) (cc : BitVec 2)
  /-- Step `KERNEL_ABANDON` of the table (R258): System software requests that a kernel be abandoned. -/
  | kernelAbandon (kernel : Nat) (cc : BitVec 2)
  /-- Step `REPLAY_DISCARD_COMPLETE` of the table (R262): Discard finishes and the kernel returns to PENDING. -/
  | replayDiscardComplete (kernel : Nat)
  /-- Step `LINK_RESET_RELEASE` of the table (R335): Reset release starts link training. -/
  | linkResetRelease
  /-- Step `TRAINING_SUCCESS` of the table (R335): A link finishes training and goes UP. -/
  | trainingSuccess (link : Nat) (nmod : BitVec 16) (nport : BitVec 5)
  /-- Step `TRAINING_FAILURE` of the table (R335): A link fails training. -/
  | trainingFailure (link : Nat)
  /-- Step `PORT_TRAIN_RETRY` of the table (R335): 100 ms after a port's failure, training starts again. -/
  | portTrainRetry (port : BitVec 5)
  /-- Step `FLIT_CRC_ERROR` of the table (R335): A flit with a CRC or FEC error is resent; a 9th retry starts retraining. -/
  | flitCrcError (link : Nat) (same : Bool) (fixed : BitVec 32) (fec : Bool)
  /-- Step `RETRAIN_SUCCESS` of the table (R335): Retraining succeeds and held flits are resent. -/
  | retrainSuccess (link : Nat)
  /-- Step `RETRAIN_FAILURE` of the table (R335): Retraining fails; ports reroute, mesh links fail. -/
  | retrainFailure (link : Nat)
  /-- Step `PORT_DISABLE` of the table (R335): System software disables a port. -/
  | portDisable (port : BitVec 5)
  /-- Step `PORT_ENABLE` of the table (R335): System software enables a port. -/
  | portEnable (port : BitVec 5)
  /-- Step `MACHINE_CHECK` of the table (R410): An unowned error is pinned or rolls back queue windows. -/
  | machineCheck (die : BitVec 3) (why : CheckWhy) (cc : BitVec 2)
  /-- Step `ROUTE_TABLE_WRITE` of the table (R340): A write to a route-table entry. -/
  | routeTableWrite (die : BitVec 3) (host : Bool) (e : BitVec 8) (v : Word)
  /-- Step `TIME_FLIT` of the table (R341): A time flit arrives and the module's offset estimate and lock update. -/
  | timeFlit (port : BitVec 5) (src : BitVec 16) (offset : Word) (locked : Bool)
  /-- Step `TIME_FLIT_TIMEOUT` of the table (R341): 100 µs without a time flit takes the module out of lock. -/
  | timeFlitTimeout
  /-- Step `MODULE_ADD` of the table (R342): System software adds a module to the module table. -/
  | moduleAdd (m : BitVec 16)
  /-- Step `MODULE_CLEAR` of the table (R342): System software clears a module table entry. -/
  | moduleClear (m : BitVec 16)
  /-- Step `MODULE_FAIL_TIMEOUT` of the table (R342): Every route to a module stays down for MFAILNS and it becomes FAILED. -/
  | moduleFailTimeout (m : BitVec 16) (cc : BitVec 2)
  /-- Step `MODULE_DECLARE_FAILED` of the table (R342): Control cores declare a module FAILED. -/
  | moduleDeclareFailed (m : BitVec 16) (cc : BitVec 2)
  /-- Step `FAULT_RING_HEAD_WRITE` of the table (R409): Control cores write HEAD, freeing ring entries. -/
  | faultRingHeadWrite (die : BitVec 3) (v : Word)
  /-- Step `FAULT_RING_CONFIG_WRITE` of the table (R409): System software sets the fault ring base or capacity. -/
  | faultRingConfigWrite (die : BitVec 3) (cap : Bool) (v : Word)
  /-- Step `LM_SWEEP` of the table (R407): The LM port sweeps each word every 64 ms, correcting or poisoning. -/
  | lmSweep (core : Nat)
  /-- Step `SCAN_END` of the table (R413): Patterns finish; cores pass or are fenced and contexts are restored. -/
  | scanEnd (die : BitVec 3) (idx : BitVec 8) (bad : BitVec 16)
  /-- Step `VREQ_COMMIT` of the table (R418): A write of VREQ commits a voltage and divider request. -/
  | vreqCommit (cluster : Nat) (v : Word)
  /-- Step `CLOCK_HOP_END` of the table (R419): The 32-cycle clock-source hop ends and issue resumes. -/
  | clockHopEnd (core : Nat)
  /-- Step `DROOP_DETECT` of the table (R420): Supply falls 5 % below VNOW and the cluster runs at half rate. -/
  | droopDetect (cluster : Nat)
  /-- Step `DROOP_CLEAR` of the table (R420): Supply stands recovered for 64 ns and full rate resumes. -/
  | droopClear (cluster : Nat)
  /-- Step `FEATREQ_WRITE` of the table (R425): The driver writes FEATREQ and FEATURE2 is negotiated. -/
  | featreqWrite (die : BitVec 3) (host : Bool) (v : Word)
  /-- Step `MODULE_RESET_BOOT` of the table (R423): After reset the control cores run the boot ROM and verify Roloskar. -/
  | moduleResetBoot (image : List Byte) (table : List PartRow)
  /-- Step `PARTITION_IMAGE_VERIFY` of the table (R423): Roloskar verifies a partition image before its supervisor starts. -/
  | partitionImageVerify (part : BitVec 4) (image : List Byte)
  /-- Step `ATTESTATION_REQUEST` of the table (R424): Produce a dual-signed attestation report. -/
  | attestationRequest (part : BitVec 4) (nonce : List Byte)
  /-- Step `MMIO_REGISTER_WRITE` of the table (R415): A write to a control register without a row of its own, with range checks. -/
  | mmioRegisterWrite (die : BitVec 3) (host : Bool) (pa : Word) (v : Word)
  /-- Step `TIME_NS_ADVANCE` of the table (R238): Each ns TIME advances. On each core where a context is ACTIVE, VTIME advances and ENERGY.EU takes the static charge of 15 eu, saturating with ENSTAT.SAT under R109. -/
  | timeNsAdvance
  /-- Step `UNASSIGNED_ENCODING` of the table (R49): A strand fetches an encoding that the opcode tables do not assign, including the words 0x0000_0000 and 0xFFFF_FFFF, and it traps ILLOP. -/
  | unassignedEncoding
  deriving DecidableEq, Repr

end Sys2Proof
end

