-- ==== Sys2Proof/WellFormed.lean ====
section
/-!
DEFINITION. Which instructions an encoding can stand for: the conditions of step 2 of R48 that are stated on the
instruction's bits alone (the lengths of R43-R46, the guard of R35, the types an entry accepts, ranges of codes and
immediates). Reserved fields have no place in the syntax; the decoder refuses them by comparing with the encoder.
-/
namespace Sys2Proof

/-- Integer types 0x0-0x7 (R114). -/
def Ty.isInt (t : Ty) : Bool := decide (t.code.toNat ≤ 7)
/-- Types of a numeric value in a register or in memory: 0x0-0xC (R125, R152). -/
def Ty.isNum (t : Ty) : Bool := decide (t.code.toNat ≤ 0xC)
/-- FT: f32 (0x0 or 0x8), bf16 and f16 (R122, R174). -/
def Ty.isFT (t : Ty) : Bool := t == .i64 || t == .f32 || t == .bf16 || t == .f16
/-- IT: i32, i16, i8, n32, n16 and n8 (R174). -/
def Ty.isIT (t : Ty) : Bool := t == .i32 || t == .i16 || t == .i8 || t == .n32 || t == .n16 || t == .n8
/-- e4m3 and e5m2. -/
def Ty.isF8 (t : Ty) : Bool := t == .e4m3 || t == .e5m2
/-- i64, i32, n64 and n32: the integer types of an atomic (R163). -/
def Ty.isAmoInt (t : Ty) : Bool := t == .i64 || t == .i32 || t == .n64 || t == .n32
/-- The destination types of tlut (R189); 0x0 means i8. -/
def Ty.isTlut (t : Ty) : Bool := t == .i64 || t == .i8 || t == .i16 || t == .i32 || t == .bf16 || t == .f16 || t == .f32
/-- The weight types of mldw (R203). -/
def Ty.isWeight (t : Ty) : Bool :=
  t == .i64 || t == .f32 || t == .bf16 || t == .f16 || t == .e4m3 || t == .e5m2 || t == .i8 || t == .lut4 || t == .bpn
/-- The stream types of mstrm, those that stand in some pair of R194. -/
def Ty.isStream (t : Ty) : Bool :=
  t == .i64 || t == .f32 || t == .bf16 || t == .f16 || t == .e4m3 || t == .e5m2 || t == .i8 || t == .lut4

/-- Element width in bits of a type in a tile (R174); 0x0 stands for a 32-bit type in every tile entry but tlut. -/
def Ty.tileWidth : Ty → Nat
  | .i16 | .n16 | .bf16 | .f16 => 16
  | .i8 | .n8 | .e4m3 | .e5m2 => 8
  | .lut4 => 4
  | _ => 32
/-- Elements in a row of a tile (R174). -/
def Ty.perRow (t : Ty) : Nat := 512 / t.tileWidth
/-- Elements in a row for tlut, where 0x0 means i8 (R189). -/
def Ty.tlutPerRow (t : Ty) : Nat := if t = .i64 then 64 else t.perRow

/-- The length is one of those the opcode map gives, the guard is none (R35) in a 32-bit form, and the reserved pair
pg = 0, pn = 1 does not stand. -/
def Form.wf (f : Form) (lens : List (BitVec 2)) : Bool :=
  lens.contains f.len && (f.len != 0 || (f.pg == 0 && !f.pn)) && !(f.pg == 0 && f.pn)

/-- A type the entry accepts; a 32-bit form has ty = 0x0 (R34, R38). -/
def Form.tyOk (f : Form) (t : Ty) (p : Ty → Bool) : Bool := p t && (f.len != 0 || t == .i64)

/-- A field of the second word, which a 32-bit form does not have, is zero there. -/
def Form.z (f : Form) {n : Nat} (v : BitVec n) : Bool := f.len != 0 || v == 0

/-- A register stands in the 32-bit and 64-bit forms, a 32-bit literal in the 96-bit form, a 64-bit literal in the
128-bit form (R37). -/
def Src.wf (s : Src) (f : Form) : Bool :=
  match s with
  | .reg _ => f.len == 0 || f.len == 1
  | .lit32 _ => f.len == 2
  | .lit64 _ => f.len == 3

/-- The count of a shift or rotation written as a literal is 0-63 (R48, R114; assumption 27). -/
def Src.shiftOk : Src → Bool
  | .reg _ => true
  | .lit32 v => decide (v.toNat < 64)
  | .lit64 v => decide (v.toNat < 64)

/-- The immediate fits the place the form gives it: imm12, imm16, a 32-bit or a 64-bit literal (R31, R36, R37). -/
def immOk (len : BitVec 2) (v : Imm) : Bool :=
  match len.toNat with
  | 0 => v == (v.setWidth 12).signExtend 64
  | 1 => v == (v.setWidth 16).signExtend 64
  | 2 => v == (v.setWidth 32).signExtend 64
  | _ => true

/-- Selectors that mts may name: RW and S of R47. An RO or an unassigned selector traps ILLOP. -/
def selWritable (sel : BitVec 6) : Bool :=
  decide (sel.toNat ≤ 0x12) || sel == 0x15 || sel == 0x16 || sel == 0x23

/-- The forms of tcvt (R184, R185) and their type pairs. -/
def TcvtForm.wf (k : TcvtForm) (dty sty : Ty) (d : Tile) : Bool :=
  let tileTy (t : Ty) : Bool := t.isFT || t.isIT || t.isF8
  match k with
  | .plain p => tileTy dty && tileTy sty && decide (p.toNat < max sty.perRow dty.perRow / min sty.perRow dty.perRow)
  | .enc _ s => dty.isF8 && (sty == .bf16 || sty == .f16) && s != d
  | .dec _ e => sty.isF8 && (dty == .bf16 || dty == .f16) && e != d

/-- The md combinations of wred other than clamp (R40, R381); ssum passes all = false. -/
def wredOk (all row : Bool) (km1 : BitVec 3) (a : Tile) : Bool :=
  if row then km1 == 0 && !all
  else km1 != 0 && decide (a.toNat + km1.toNat ≤ 15) && !(all && km1 == 7)

/-- The imm8 of wadj is a tag that wred can write, and its outputs fit (R381). OP codes of R377: 0 max, 1 min, 2 clamp,
3 med, 4 ssum. -/
def wadjOk (op : BitVec 3) (all row : Bool) (km1 : BitVec 3) (d : Tile) : Bool :=
  decide (op.toNat ≤ 4) && decide (d.toNat + (if row then 0 else km1.toNat) ≤ 15) &&
  (if op == 2 then km1 == 2 && !all && !row
   else if op == 3 then !row && (km1 == 2 || km1 == 4 || km1 == 6)
   else if op == 4 then !all && (if row then km1 == 0 else km1 != 0)
   else if row then km1 == 0 && !all else km1 != 0 && !(all && km1 == 7))

/-- An instruction that some encoding stands for. A step that no encoding stands for is well-formed as it is. -/
def Instr.wf : Instr → Bool
  | .iAdd f ty _ _ b => f.wf [0, 1, 2, 3] && f.tyOk ty Ty.isInt && b.wf f
  | .iSub f ty _ _ b => f.wf [0, 1, 2, 3] && f.tyOk ty Ty.isInt && b.wf f
  | .iMul f ty _ _ b => f.wf [0, 1, 2, 3] && f.tyOk ty Ty.isInt && b.wf f
  | .iMulh f ty _ _ b => f.wf [0, 1, 2, 3] && f.tyOk ty Ty.isInt && b.wf f
  | .iDiv f ty _ _ b => f.wf [0, 1, 2, 3] && f.tyOk ty Ty.isInt && b.wf f
  | .iRem f ty _ _ b => f.wf [0, 1, 2, 3] && f.tyOk ty Ty.isInt && b.wf f
  | .iAnd f ty _ _ b => f.wf [0, 1, 2, 3] && f.tyOk ty Ty.isInt && b.wf f
  | .iOr f ty _ _ b => f.wf [0, 1, 2, 3] && f.tyOk ty Ty.isInt && b.wf f
  | .iXor f ty _ _ b => f.wf [0, 1, 2, 3] && f.tyOk ty Ty.isInt && b.wf f
  | .iAndn f ty _ _ b => f.wf [0, 1, 2, 3] && f.tyOk ty Ty.isInt && b.wf f
  | .iShl f ty _ _ b => f.wf [0, 1, 2, 3] && f.tyOk ty Ty.isInt && b.wf f && b.shiftOk
  | .iShr f ty _ _ b => f.wf [0, 1, 2, 3] && f.tyOk ty Ty.isInt && b.wf f && b.shiftOk
  | .iSra f ty _ _ b => f.wf [0, 1, 2, 3] && f.tyOk ty Ty.isInt && b.wf f && b.shiftOk
  | .iRol f ty _ _ b => f.wf [0, 1, 2, 3] && f.tyOk ty Ty.isInt && b.wf f && b.shiftOk
  | .iMin f ty _ _ b => f.wf [0, 1, 2, 3] && f.tyOk ty Ty.isInt && b.wf f
  | .iMax f ty _ _ b => f.wf [0, 1, 2, 3] && f.tyOk ty Ty.isInt && b.wf f
  | .mov f ty _ _ => f.wf [0, 1] && f.tyOk ty Ty.isInt
  | .clz f ty _ _ => f.wf [0, 1] && f.tyOk ty Ty.isInt
  | .ctz f ty _ _ => f.wf [0, 1] && f.tyOk ty Ty.isInt
  | .popc f ty _ _ => f.wf [0, 1] && f.tyOk ty Ty.isInt
  | .bext f ty _ _ b => f.wf [0, 1, 2, 3] && f.tyOk ty (fun t => t == .i64 || t == .n64) && b.wf f
  | .bins f ty _ _ b => f.wf [0, 1, 2, 3] && f.tyOk ty (fun t => t == .i64 || t == .n64) && b.wf f
  | .cvt f dty sty _ _ => f.wf [1] && dty.isInt && sty.isInt
  | .addImm f ty _ _ imm => f.wf [0, 1] && f.tyOk ty Ty.isInt && immOk f.len imm
  | .andImm f ty _ _ imm => f.wf [0, 1] && f.tyOk ty Ty.isInt && immOk f.len imm
  | .orImm f ty _ _ imm => f.wf [0, 1] && f.tyOk ty Ty.isInt && immOk f.len imm
  | .xorImm f ty _ _ imm => f.wf [0, 1] && f.tyOk ty Ty.isInt && immOk f.len imm
  | .shlImm f ty _ _ imm => f.wf [0, 1] && f.tyOk ty Ty.isInt && immOk f.len imm && decide (imm.toNat < 64)
  | .shrImm f ty _ _ imm => f.wf [0, 1] && f.tyOk ty Ty.isInt && immOk f.len imm && decide (imm.toNat < 64)
  | .sraImm f ty _ _ imm => f.wf [0, 1] && f.tyOk ty Ty.isInt && immOk f.len imm && decide (imm.toNat < 64)
  | .rolImm f ty _ _ imm => f.wf [0, 1] && f.tyOk ty Ty.isInt && immOk f.len imm && decide (imm.toNat < 64)
  | .movi f _ imm => f.wf [0, 1, 2, 3] && immOk f.len imm
  | .lea f _ _ imm => f.wf [0, 1, 2, 3] && immOk f.len imm
  | .cmp f ty cond _ _ b => f.wf [0, 1, 2, 3] && f.tyOk ty Ty.isInt && b.wf f && decide (cond.toNat < 6)
  | .sel f _ _ _ _ _ => f.wf [0, 1]
  | .fadd f ty _ _ b => f.wf [0, 1, 2] && f.tyOk ty Ty.isFT && b.wf f
  | .fsub f ty _ _ b => f.wf [0, 1, 2] && f.tyOk ty Ty.isFT && b.wf f
  | .fmul f ty _ _ b => f.wf [0, 1, 2] && f.tyOk ty Ty.isFT && b.wf f
  | .fdiv f ty _ _ b => f.wf [0, 1, 2] && f.tyOk ty Ty.isFT && b.wf f
  | .fsqrt f ty _ _ lit => f.wf [0, 1, 2] && f.tyOk ty Ty.isFT && (f.len == 2 || lit == 0)
  | .fmin f ty _ _ b => f.wf [0, 1, 2] && f.tyOk ty Ty.isFT && b.wf f
  | .fmax f ty _ _ b => f.wf [0, 1, 2] && f.tyOk ty Ty.isFT && b.wf f
  | .fclass f ty _ _ lit => f.wf [0, 1, 2] && f.tyOk ty Ty.isFT && (f.len == 2 || lit == 0)
  | .frnd f ty _ _ lit => f.wf [0, 1, 2] && f.tyOk ty Ty.isFT && (f.len == 2 || lit == 0)
  | .fma f ty _ _ _ _ => f.wf [1] && ty.isFT
  | .fcmp f ty cond _ _ b => f.wf [0, 1, 2] && f.tyOk ty Ty.isFT && b.wf f && decide (cond.toNat < 7)
  | .fcvt f dty sty _ _ => f.wf [1] && dty.isNum && sty.isNum && !(dty.isInt && sty.isInt)
  | .br _ _ _ => true
  | .jmp f _ => f.wf [0, 1]
  | .call f _ => f.wf [0, 1]
  | .jmpReg f _ => f.wf [0, 1]
  | .callReg f _ => f.wf [0, 1]
  | .ret f _ => f.wf [0, 1]
  | .loop f _ _ end16 => f.wf [1] && decide (2 ≤ end16.toNat)
  | .loopImm f _ _ end16 => f.wf [1] && decide (2 ≤ end16.toNat)
  | .nop f => f.wf [0, 1]
  | .pause f => f.wf [0, 1]
  | .pauseEnd _ _ => true
  | .trap f => f.wf [0, 1]
  | .sys f _ => f.wf [0, 1]
  | .eret f _ _ => f.wf [0, 1]
  | .exit f => f.wf [0, 1]
  | .sleepns f _ => f.wf [0, 1]
  | .waitns f _ => f.wf [0, 1]
  | .waitnsV f _ => f.wf [0, 1]
  | .timedWaitDeadline _ _ => true
  | .rdtime f _ => f.wf [0, 1]
  | .mts f ssel _ => f.wf [0, 1] && selWritable ssel
  | .mfs f ssel _ => f.wf [0, 1] && decide (ssel.toNat ≤ 0x2A)
  | .bsfill f _ _ => f.wf [0, 1]
  | .bsget f _ _ => f.wf [0, 1]
  | .bspeek f _ _ => f.wf [0, 1]
  | .bsskip f _ => f.wf [0, 1]
  | .bsgetImm f _ _ => f.wf [0, 1]
  | .bspeekImm f _ _ => f.wf [0, 1]
  | .bsskipImm f _ => f.wf [0, 1]
  | .ld f ty _ _ imm => f.wf [0, 1, 2] && f.tyOk ty Ty.isNum && immOk f.len imm
  | .st f ty _ _ imm => f.wf [0, 1, 2] && f.tyOk ty Ty.isNum && immOk f.len imm
  | .loadDataReturn _ _ _ => true
  | .deferredEcc _ _ _ => true
  | .ldn f ty _ _ _ off => f.wf [0, 1] && f.tyOk ty Ty.isNum && (f.len != 0 || (decide (off.toNat < 512) && off.toNat % 8 == 0))
  | .stn f ty _ _ _ off => f.wf [0, 1] && f.tyOk ty Ty.isNum && (f.len != 0 || (decide (off.toNat < 512) && off.toNat % 8 == 0))
  | .ldt f _ _ _ imm => f.wf [1, 2] && immOk f.len imm
  | .stt f _ _ _ imm => f.wf [1, 2] && immOk f.len imm
  | .ldtPost f _ _ b imm => f.wf [1, 2] && immOk f.len imm && (f.len == 2 || b == 0 || imm == 0)
  | .sttPost f _ _ b imm => f.wf [1, 2] && immOk f.len imm && (f.len == 2 || b == 0 || imm == 0)
  | .pref f _ _ _ off => f.wf [0, 1] && f.z off
  | .pushm f a b => f.wf [0, 1] && decide (a.toNat ≤ b.toNat)
  | .popm f a b => f.wf [0, 1] && decide (a.toNat ≤ b.toNat)
  | .rst f _ n1 d _ path => f.wf [0, 1] && (f.len != 0 || path == none) && decide (d.toNat + n1.toNat ≤ 63)
  | .rld f n1 d _ path => f.wf [0, 1] && (f.len != 0 || path == none) && decide (d.toNat + n1.toNat ≤ 63)
  | .remoteStoreArrive _ _ => true
  | .spillQueueSpaceFree _ => true
  | .remoteAckArrive _ => true
  | .remoteLoadArrive _ => true
  | .nonreturningServiced _ => true
  | .amoAdd f _ ty _ _ _ e => f.wf [0, 1] && f.tyOk ty Ty.isAmoInt && f.z e
  | .amoMin f _ ty _ _ _ e => f.wf [0, 1] && f.tyOk ty Ty.isAmoInt && f.z e
  | .amoMax f _ ty _ _ _ e => f.wf [0, 1] && f.tyOk ty Ty.isAmoInt && f.z e
  | .amoAnd f _ ty _ _ _ e => f.wf [0, 1] && f.tyOk ty Ty.isAmoInt && f.z e
  | .amoOr f _ ty _ _ _ e => f.wf [0, 1] && f.tyOk ty Ty.isAmoInt && f.z e
  | .amoXor f _ ty _ _ _ e => f.wf [0, 1] && f.tyOk ty Ty.isAmoInt && f.z e
  | .amoSwap f _ ty _ _ _ e => f.wf [0, 1] && f.tyOk ty Ty.isAmoInt && f.z e
  | .amoCas f _ ty _ _ _ e => f.wf [0, 1] && f.tyOk ty Ty.isAmoInt && f.z e
  | .amoFadd f _ ty _ _ _ e => f.wf [0, 1] && f.tyOk ty (fun t => t == .i64 || t == .f32) && f.z e
  | .amoXacc f _ ty _ _ e => f.wf [0, 1] && f.tyOk ty (fun t => t == .i64 || t == .f32) && f.z e
  | .predictorDecay _ => true
  | .ldAcq f ty _ _ e => f.wf [0, 1] && f.tyOk ty Ty.isInt && f.z e
  | .stRel f ty _ _ e => f.wf [0, 1] && f.tyOk ty Ty.isInt && f.z e
  | .fenceAcq f _ => f.wf [0, 1]
  | .fenceRel f _ => f.wf [0, 1]
  | .fenceFull f _ => f.wf [0, 1]
  | .fenceAck f => f.wf [0, 1]
  | .fenceAcqAll f _ => f.wf [0, 1]
  | .fenceRelAll f _ => f.wf [0, 1]
  | .fenceFullAll f _ => f.wf [0, 1]
  | .bind f _ _ _ => f.wf [0, 1]
  | .unbind f _ _ => f.wf [0, 1]
  | .wbr f _ _ => f.wf [0, 1]
  | .invr f _ _ => f.wf [0, 1]
  | .tadd f ty sat _ _ _ => f.wf [1] && (ty.isFT && !sat || ty.isIT)
  | .tsub f ty sat _ _ _ => f.wf [1] && (ty.isFT && !sat || ty.isIT)
  | .tmul f ty sat _ _ _ => f.wf [1] && (ty.isFT && !sat || ty.isIT)
  | .tmin f ty _ _ _ => f.wf [1] && (ty.isFT || ty.isIT)
  | .tmax f ty _ _ _ => f.wf [1] && (ty.isFT || ty.isIT)
  | .tand f ty _ _ _ => f.wf [1] && (ty.isFT || ty.isIT)
  | .tor f ty _ _ _ => f.wf [1] && (ty.isFT || ty.isIT)
  | .txor f ty _ _ _ => f.wf [1] && (ty.isFT || ty.isIT)
  | .tshl f ty _ _ _ => f.wf [1] && (ty == .i64 || ty.isIT)
  | .tshr f ty _ _ _ => f.wf [1] && (ty == .i64 || ty.isIT)
  | .tfma f ty sat _ _ _ _ => f.wf [1] && (ty.isFT && !sat || ty.isIT)
  | .tcmp f ty cond _ _ _ => f.wf [1] && (ty.isFT || ty.isIT) && decide (cond.toNat < 7) && (ty.isFT || cond != 6)
  | .tsel f ty _ _ _ _ => f.wf [1] && (ty.isFT || ty.isIT)
  | .tcvt f dty sty d _ k => f.wf [1] && k.wf dty sty d
  | .tmov f ty _ _ => f.wf [1] && (ty.isFT || ty.isIT || ty.isF8 || ty == .lut4)
  | .tzero f ty _ => f.wf [1] && (ty.isFT || ty.isIT || ty.isF8 || ty == .lut4)
  | .tiota f ty _ _ => f.wf [1] && (ty.isFT || ty.isIT)
  | .tabs f ty sat _ _ => f.wf [1] && (ty.isFT && !sat || ty.isIT)
  | .tneg f ty sat _ _ => f.wf [1] && (ty.isFT && !sat || ty.isIT)
  | .texp2 f ty _ _ => f.wf [1] && ty.isFT
  | .tlog2 f ty _ _ => f.wf [1] && ty.isFT
  | .trcp f ty _ _ => f.wf [1] && ty.isFT
  | .trsqrt f ty _ _ => f.wf [1] && ty.isFT
  | .ttanh f ty _ _ => f.wf [1] && ty.isFT
  | .tbcast f ty _ v => f.wf [1, 2, 3] && (ty.isFT || ty.isIT || ty.isF8) && v.wf f
  | .tset f ty _ _ col v => f.wf [1, 2, 3] && (ty.isFT || ty.isIT || ty.isF8) && v.wf f && decide (col.toNat < ty.perRow)
  | .trowred f ty op wide _ _ => f.wf [1] && (ty.isFT || ty.isIT) && op != 3 && (!wide || ty.tileWidth != 32)
  | .tcolred f ty op wide _ _ => f.wf [1] && (ty.isFT || ty.isIT) && op != 3 && (!wide || ty.tileWidth != 32)
  | .ttrans f ty _ _ h => f.wf [1] && (ty.isFT || ty.isIT || ty.isF8) && decide (h.toNat < ty.perRow / 16)
  | .tperm f ty _ _ _ => f.wf [1] && (ty.isFT || ty.isIT || ty.isF8)
  | .tlutload f _ => f.wf [1]
  | .tlut f ty _ _ p => f.wf [1] && ty.isTlut && decide (p.toNat < 128 / ty.tlutPerRow)
  | .tplanes f _ _ => f.wf [1]
  | .tunplanes f k _ _ => f.wf [1] && decide (2 ≤ k.toNat ∧ k.toNat ≤ 8)
  | .bsgetT f ty _ n => f.wf [1] && (ty == .i64 || ty.isIT) && decide (1 ≤ n.toNat ∧ n.toNat ≤ ty.tileWidth)
  | .mldw f ty k _ _ => f.wf [1] && ty.isWeight && (if ty == .bpn then decide (2 ≤ k.toNat ∧ k.toNat ≤ 8) else k == 0)
  | .mstrm f ty _ _ _ _ => f.wf [1] && ty.isStream
  | .mrd f _ _ => f.wf [1]
  | .mclr f _ => f.wf [1]
  | .mwait f cover => f.wf [1] && cover != 3
  | .mxaOpStart _ _ => true
  | .mxaOpFinish _ _ => true
  | .mwaitEnd _ _ => true
  | .ctxinfo f _ q => f.wf [0, 1] && decide (q.toNat ≤ 6)
  | .enrd f _ _ q => f.wf [0, 1] && decide (q.toNat ≤ 3)
  | .qpost f _ _ _ => f.wf [0, 1]
  | .packetPublished _ _ => true
  | .qwait f conf _ _ _ => f.wf [0, 1] && (f.len != 0 || !conf)
  | .qwaitEnd _ _ => true
  | .kinfo f _ a b => f.wf [0, 1] && (a != 0 || b == 0)
  | .gid f _ q => f.wf [0, 1] && decide (q.toNat ≤ 4)
  | .gdom f n => f.wf [0, 1] && decide (1 ≤ n.toNat ∧ n.toNat ≤ 4)
  | .gdomWaitEnd _ _ => true
  | .sstep f _ => f.wf [0, 1]
  | .sstepEnd f => f.wf [0, 1]
  | .phaseEnd _ _ _ _ _ => true
  | .staggeredRelease _ _ => true
  | .tsend f slot _ _ => f.wf [0, 1] && decide (slot.toNat ≤ 30)
  | .tsendSlotStart _ _ => true
  | .tsendLand _ => true
  | .kdecl f _ => f.wf [0, 1]
  | .kacq f _ _ => f.wf [0, 1]
  | .ktry f _ _ => f.wf [0, 1]
  | .krel f _ => f.wf [0, 1]
  | .kquery f _ q => f.wf [0, 1] && decide (q.toNat ≤ 3)
  | .tumblerCycle _ => true
  | .binit f _ _ => f.wf [0, 1]
  | .barr f _ _ e => f.wf [0, 1] && f.z e
  | .bwait f _ _ _ e => f.wf [0, 1] && f.z e
  | .barw f _ _ e => f.wf [0, 1] && f.z e
  | .bpoison f _ _ e => f.wf [0, 1] && f.z e
  | .bquery f _ _ q => f.wf [0, 1] && decide (q.toNat ≤ 1)
  | .barrierWaiterLeave _ _ => true
  | .xfer f xf bud _ _ _ => f.wf [0, 1] && decide (xf.toNat ≤ 5) && bud != 3 && (xf == 2 || xf == 3 || bud == 0) && f.z xf
  | .xferOpStart _ => true
  | .xferComplete _ _ => true
  | .xferFault _ _ => true
  | .xferResume _ _ => true
  | .latch f _ _ e => f.wf [0, 1] && f.z e
  | .ptprobe f _ _ q => f.wf [0, 1] && decide (q.toNat ≤ 2)
  | .tlbinv f _ _ _ => f.wf [0, 1]
  | .msend f d _ => f.wf [0, 1] && decide (d.toNat + 7 ≤ 63)
  | .msendAccept _ => true
  | .msendRefused _ => true
  | .mrecv f _ d _ => f.wf [0, 1] && decide (d.toNat + 7 ≤ 63)
  | .mrecvWaitEnd _ _ => true
  | .lquery f _ _ q => f.wf [0, 1] && decide (q.toNat ≤ 2)
  | .hopen f _ _ _ _ => f.wf [1]
  | .hjoin f _ _ _ _ => f.wf [1]
  | .hload f ty _ _ _ => f.wf [1] && (ty == .i64 || ty == .f32 || ty == .bf16)
  | .hadd f ty _ _ _ => f.wf [1] && (ty == .i64 || ty == .f32 || ty == .bf16)
  | .hread f ty _ _ _ => f.wf [1] && ty.isFT
  | .hpush f _ _ _ => f.wf [1]
  | .hleave f _ _ _ => f.wf [1]
  | .hmass f _ _ => f.wf [1]
  | .hmassSet f _ _ => f.wf [1]
  | .hdisag f _ _ => f.wf [1]
  | .hpause f _ => f.wf [1]
  | .hresume f _ => f.wf [1]
  | .hingeBgTick _ _ => true
  | .hingePushArrive _ => true
  | .hingeReplyArrive _ _ => true
  | .wredMax f ty all row km1 d w a => f.wf [1] && (ty.isFT || ty.isIT) && d != w && wredOk all row km1 a
  | .wredMin f ty all row km1 d w a => f.wf [1] && (ty.isFT || ty.isIT) && d != w && wredOk all row km1 a
  | .wredClamp f ty d w _ _ _ => f.wf [1] && (ty.isFT || ty.isIT) && d != w
  | .wredMed f ty all km1 d w a => f.wf [1] && (ty.isFT || ty.isIT) && d != w && wredOk all false km1 a && (km1 == 2 || km1 == 4 || km1 == 6)
  | .wredSsum f ty row km1 d w a => f.wf [1] && (ty.isFT || ty.isIT) && d != w && wredOk false row km1 a
  | .wadj f ty _ _ op all row km1 d _ _ => f.wf [1] && (ty.isFT || ty.isIT) && wadjOk op all row km1 d
  | .wst f _ _ => f.wf [1]
  | .wld f _ _ => f.wf [1]
  | .contextCreate _ _ => true
  | .contextDestroy _ => true
  | .gangSwitchTime _ _ _ => true
  | .plantailWrite _ _ => true
  | .meshInterruptMessage _ _ => true
  | .resumeRequest _ _ => true
  | .savecoreEnd _ _ => true
  | .restorecoreEnd _ => true
  | .queueCreate _ _ _ _ _ _ _ _ => true
  | .queueReset _ => true
  | .queueClose _ => true
  | .sliceBoundary _ _ => true
  | .tsliceWrite _ _ => true
  | .schedulerPass _ => true
  | .hostDoorbell _ _ _ _ _ => true
  | .groupPlace _ _ _ _ => true
  | .groupStart _ _ => true
  | .kernelRetire _ => true
  | .kernelFault _ _ _ => true
  | .kernelService _ _ => true
  | .kernelAbandon _ _ => true
  | .replayDiscardComplete _ => true
  | .linkResetRelease => true
  | .trainingSuccess _ _ _ => true
  | .trainingFailure _ => true
  | .portTrainRetry _ => true
  | .flitCrcError _ _ _ _ => true
  | .retrainSuccess _ => true
  | .retrainFailure _ => true
  | .portDisable _ => true
  | .portEnable _ => true
  | .machineCheck _ _ _ => true
  | .routeTableWrite _ _ _ _ => true
  | .timeFlit _ _ _ _ => true
  | .timeFlitTimeout => true
  | .moduleAdd _ => true
  | .moduleClear _ => true
  | .moduleFailTimeout _ _ => true
  | .moduleDeclareFailed _ _ => true
  | .faultRingHeadWrite _ _ => true
  | .faultRingConfigWrite _ _ _ => true
  | .lmSweep _ => true
  | .scanStart _ _ => true
  | .scanEnd _ _ _ => true
  | .vreqCommit _ _ => true
  | .voltageStepEnd _ => true
  | .clockHopEnd _ => true
  | .droopDetect _ => true
  | .droopClear _ => true
  | .featreqWrite _ _ _ => true
  | .moduleResetBoot _ _ => true
  | .partitionImageVerify _ _ => true
  | .attestationRequest _ _ => true
  | .mmioRegisterWrite _ _ _ _ => true
  | .timeNsAdvance => true
  | .unassignedEncoding => true

end Sys2Proof
end

