-- ==== Sys2Proof/Decode.lean ====
section
/-!
DEFINITION. Decoding and encoding. An instruction's words are first cut into the fields of R30 and R34 (`Raw`); the
fields are then read as an instruction by the opcode map of R43-R47. A word sequence is an instruction exactly when
what it reads as is well-formed and encodes to these very fields: so a reserved bit that is set, an unassigned fn6 or
op6, a length the map does not give and every other condition of step 2 of R48 is refused, and nothing else.
-/
namespace Sys2Proof

/-- The fields of an instruction's words (R30, R34, R37). In a 32-bit form the fields of the second word are zero; the
immediate of format I, the offset of format J and the fields of format B lie over fn6, b, a and d. -/
structure Raw where
  len : BitVec 2
  op6 : BitVec 6
  fn6 : BitVec 6
  b   : BitVec 6
  a   : BitVec 6
  d   : BitVec 6
  ty  : BitVec 4
  md  : BitVec 8
  x16 : BitVec 16
  pg  : BitVec 3
  pn  : Bool
  lit : BitVec 64
  deriving DecidableEq, Repr

/-- Bytes of an instruction of length code len (R26). -/
def lenBytes (len : BitVec 2) : Nat := 4 * (len.toNat + 1)

namespace Raw

/-- The fields of the first word, the second word (zero where there is none) and the literal. -/
def ofWords (w0 w1 : BitVec 32) (lit : BitVec 64) : Raw :=
  { len := w0.extractLsb' 0 2, op6 := w0.extractLsb' 2 6, d := w0.extractLsb' 8 6, a := w0.extractLsb' 14 6,
    b := w0.extractLsb' 20 6, fn6 := w0.extractLsb' 26 6, x16 := w1.extractLsb' 0 16, md := w1.extractLsb' 16 8,
    ty := w1.extractLsb' 24 4, pn := w1.getLsbD 28, pg := w1.extractLsb' 29 3, lit := lit }

/-- The first word (R30, R34). -/
def word0 (r : Raw) : BitVec 32 := r.fn6 ++ r.b ++ r.a ++ r.d ++ r.op6 ++ r.len

/-- The second word (R34). -/
def word1 (r : Raw) : BitVec 32 := r.pg ++ BitVec.ofBool r.pn ++ r.ty ++ r.md ++ r.x16

def form (r : Raw) : Form := ⟨r.len, r.pg, r.pn⟩
def tyv (r : Raw) : Ty := Ty.ofCode r.ty
/-- Source type of the conversions, md[3:0] (R40). -/
def sty (r : Raw) : Ty := Ty.ofCode (r.md.extractLsb' 0 4)
def dT (r : Raw) : Tile := r.d.extractLsb' 0 4
def aT (r : Raw) : Tile := r.a.extractLsb' 0 4
def bT (r : Raw) : Tile := r.b.extractLsb' 0 4
/-- Field e of shape S (R36). -/
def e (r : Raw) : Reg := r.x16.extractLsb' 10 6
/-- Fields tc, te and imm8 of shape T (R36). -/
def tc (r : Raw) : Tile := r.x16.extractLsb' 12 4
def te (r : Raw) : Tile := r.x16.extractLsb' 8 4
def imm8 (r : Raw) : BitVec 8 := r.x16.extractLsb' 0 8
/-- The set id of the Hinge instructions (R370). -/
def hid (r : Raw) : BitVec 4 := r.x16.extractLsb' 0 4

/-- The literal of a 96-bit or 128-bit form, else field b (R37). -/
def src (r : Raw) : Src :=
  if r.len = 2 then .lit32 (r.lit.setWidth 32) else if r.len = 3 then .lit64 r.lit else .reg r.b
/-- The literal of a 96-bit or 128-bit form, else field a (tbcast and tset, R183). -/
def srcA (r : Raw) : Src :=
  if r.len = 2 then .lit32 (r.lit.setWidth 32) else if r.len = 3 then .lit64 r.lit else .reg r.a

/-- The immediate of format I and of the tile row loads: imm12, imm16 or the literal, sign-extended (R31, R36, R37). -/
def immI (r : Raw) : Imm :=
  match r.len.toNat with
  | 0 => (r.fn6 ++ r.b).signExtend 64
  | 1 => r.x16.signExtend 64
  | 2 => (r.lit.setWidth 32).signExtend 64
  | _ => r.lit

def ord (r : Raw) : Ord :=
  match (r.fn6.extractLsb' 4 2).toNat with
  | 0 => .rlx | 1 => .acq | 2 => .rel | _ => .ar

/-- The path of rst and rld, md[2:0] (R40). -/
def path (r : Raw) : Option (BitVec 2) := if r.md.getLsbD 2 then some (r.md.extractLsb' 0 2) else none

def tshift (r : Raw) : TShift := if r.md.getLsbD 0 then .imm r.imm8 else .tile r.bT

/-- The form of tcvt: md[4] is .mx, and a .mx conversion to e4m3 or e5m2 is an encode (R185). -/
def tcvtForm (r : Raw) : TcvtForm :=
  if r.md.getLsbD 4 then (if r.tyv.isF8 then .enc r.bT r.tc else .dec r.tc r.te)
  else .plain (r.x16.extractLsb' 0 2)

/-- The fields every instruction has: length, guard, op6 and fn6; the rest zero. -/
def base (f : Form) (op fn : BitVec 6) : Raw :=
  { len := f.len, op6 := op, fn6 := fn, b := 0, a := 0, d := 0, ty := 0, md := 0, x16 := 0, pg := f.pg, pn := f.pn,
    lit := 0 }

/-- The immediate in the place the length gives it. -/
def withImm (r : Raw) (v : Imm) : Raw :=
  match r.len.toNat with
  | 0 => { r with fn6 := v.extractLsb' 6 6, b := v.extractLsb' 0 6 }
  | 1 => { r with x16 := v.setWidth 16 }
  | 2 => { r with lit := (v.setWidth 32).setWidth 64 }
  | _ => { r with lit := v }

end Raw

/-- The register field of a source; the field a literal replaces is reserved (R37). -/
def Src.field : Src → Reg
  | .reg r => r
  | _ => 0
/-- The literal of a source, a 32-bit one in the low word. -/
def Src.lit : Src → BitVec 64
  | .reg _ => 0
  | .lit32 v => v.setWidth 64
  | .lit64 v => v

def Ord.code : Ord → BitVec 2
  | .rlx => 0 | .acq => 1 | .rel => 2 | .ar => 3

/-- md of rst and rld (R40). -/
def pathMd : Option (BitVec 2) → BitVec 8
  | none => 0
  | some p => 0#5 ++ 1#1 ++ p

def TShift.md : TShift → BitVec 8
  | .tile _ => 0
  | .imm _ => 1
def TShift.field : TShift → Reg
  | .tile b => 0#2 ++ b
  | .imm _ => 0
def TShift.imm8 : TShift → BitVec 8
  | .tile _ => 0
  | .imm n => n

def TcvtForm.mx : TcvtForm → Bool
  | .plain _ => false
  | _ => true
def TcvtForm.field : TcvtForm → Reg
  | .enc b _ => 0#2 ++ b
  | _ => 0
def TcvtForm.x16 : TcvtForm → BitVec 16
  | .plain p => 0#14 ++ p
  | .enc _ s => s ++ 0#12
  | .dec s e => s ++ e ++ 0#8

/-! The opcode map read from fields to instructions (R43-R47). -/

/-- Instructions of op6 0x00 (R43-R46). -/
def read00 (r : Raw) : Option Instr :=
  match r.fn6.toNat with
  | 0x01 => some (.iAdd r.form r.tyv r.d r.a r.src)
  | 0x02 => some (.iSub r.form r.tyv r.d r.a r.src)
  | 0x03 => some (.iMul r.form r.tyv r.d r.a r.src)
  | 0x04 => some (.iMulh r.form r.tyv r.d r.a r.src)
  | 0x05 => some (.iDiv r.form r.tyv r.d r.a r.src)
  | 0x06 => some (.iRem r.form r.tyv r.d r.a r.src)
  | 0x07 => some (.iAnd r.form r.tyv r.d r.a r.src)
  | 0x08 => some (.iOr r.form r.tyv r.d r.a r.src)
  | 0x09 => some (.iXor r.form r.tyv r.d r.a r.src)
  | 0x0A => some (.iAndn r.form r.tyv r.d r.a r.src)
  | 0x0B => some (.iShl r.form r.tyv r.d r.a r.src)
  | 0x0C => some (.iShr r.form r.tyv r.d r.a r.src)
  | 0x0D => some (.iSra r.form r.tyv r.d r.a r.src)
  | 0x0E => some (.iRol r.form r.tyv r.d r.a r.src)
  | 0x0F => some (.iMin r.form r.tyv r.d r.a r.src)
  | 0x10 => some (.iMax r.form r.tyv r.d r.a r.src)
  | 0x11 => some (.mov r.form r.tyv r.d r.a)
  | 0x12 => some (.clz r.form r.tyv r.d r.a)
  | 0x13 => some (.ctz r.form r.tyv r.d r.a)
  | 0x14 => some (.popc r.form r.tyv r.d r.a)
  | 0x15 => some (.bext r.form r.tyv r.d r.a r.src)
  | 0x16 => some (.bins r.form r.tyv r.d r.a r.src)
  | 0x17 => some (.cvt r.form r.tyv r.sty r.d r.a)
  | _ => none

/-- Instructions of op6 0x01 (R43-R46). -/
def read01 (r : Raw) : Option Instr :=
  some (.addImm r.form r.tyv r.d r.a r.immI)

/-- Instructions of op6 0x02 (R43-R46). -/
def read02 (r : Raw) : Option Instr :=
  some (.andImm r.form r.tyv r.d r.a r.immI)

/-- Instructions of op6 0x03 (R43-R46). -/
def read03 (r : Raw) : Option Instr :=
  some (.orImm r.form r.tyv r.d r.a r.immI)

/-- Instructions of op6 0x04 (R43-R46). -/
def read04 (r : Raw) : Option Instr :=
  some (.xorImm r.form r.tyv r.d r.a r.immI)

/-- Instructions of op6 0x05 (R43-R46). -/
def read05 (r : Raw) : Option Instr :=
  some (.shlImm r.form r.tyv r.d r.a r.immI)

/-- Instructions of op6 0x06 (R43-R46). -/
def read06 (r : Raw) : Option Instr :=
  some (.shrImm r.form r.tyv r.d r.a r.immI)

/-- Instructions of op6 0x07 (R43-R46). -/
def read07 (r : Raw) : Option Instr :=
  some (.sraImm r.form r.tyv r.d r.a r.immI)

/-- Instructions of op6 0x08 (R43-R46). -/
def read08 (r : Raw) : Option Instr :=
  some (.rolImm r.form r.tyv r.d r.a r.immI)

/-- Instructions of op6 0x09 (R43-R46). -/
def read09 (r : Raw) : Option Instr :=
  some (.movi r.form r.d r.immI)

/-- Instructions of op6 0x0A (R43-R46). -/
def read0A (r : Raw) : Option Instr :=
  some (.cmp r.form r.tyv (r.fn6.extractLsb' 0 3) (r.d.extractLsb' 0 3) r.a r.src)

/-- Instructions of op6 0x0B (R43-R46). -/
def read0B (r : Raw) : Option Instr :=
  some (.sel r.form (r.fn6.extractLsb' 0 3) (r.fn6.getLsbD 3) r.d r.a r.b)

/-- Instructions of op6 0x0C (R43-R46). -/
def read0C (r : Raw) : Option Instr :=
  some (.lea r.form r.d r.a r.immI)

/-- Instructions of op6 0x10 (R43-R46). -/
def read10 (r : Raw) : Option Instr :=
  match r.fn6.toNat with
  | 0x01 => some (.fadd r.form r.tyv r.d r.a r.src)
  | 0x02 => some (.fsub r.form r.tyv r.d r.a r.src)
  | 0x03 => some (.fmul r.form r.tyv r.d r.a r.src)
  | 0x04 => some (.fdiv r.form r.tyv r.d r.a r.src)
  | 0x05 => some (.fsqrt r.form r.tyv r.d r.a (r.lit.setWidth 32))
  | 0x06 => some (.fmin r.form r.tyv r.d r.a r.src)
  | 0x07 => some (.fmax r.form r.tyv r.d r.a r.src)
  | 0x08 => some (.fclass r.form r.tyv r.d r.a (r.lit.setWidth 32))
  | 0x09 => some (.frnd r.form r.tyv r.d r.a (r.lit.setWidth 32))
  | _ => none

/-- Instructions of op6 0x11 (R43-R46). -/
def read11 (r : Raw) : Option Instr :=
  match r.fn6.toNat with
  | 0x00 => some (.fma r.form r.tyv r.d r.a r.b r.e)
  | _ => none

/-- Instructions of op6 0x12 (R43-R46). -/
def read12 (r : Raw) : Option Instr :=
  some (.fcmp r.form r.tyv (r.fn6.extractLsb' 0 3) (r.d.extractLsb' 0 3) r.a r.src)

/-- Instructions of op6 0x13 (R43-R46). -/
def read13 (r : Raw) : Option Instr :=
  match r.fn6.toNat with
  | 0x00 => some (.fcvt r.form r.tyv r.sty r.d r.a)
  | _ => none

/-- Instructions of op6 0x14 (R43-R46). -/
def read14 (r : Raw) : Option Instr :=
  some (.br (r.d.extractLsb' 3 3) (r.d.getLsbD 2) (r.fn6 ++ r.b ++ r.a))

/-- Instructions of op6 0x15 (R43-R46). -/
def read15 (r : Raw) : Option Instr :=
  some (.jmp r.form (r.fn6 ++ r.b ++ r.a ++ r.d))

/-- Instructions of op6 0x16 (R43-R46). -/
def read16 (r : Raw) : Option Instr :=
  some (.call r.form (r.fn6 ++ r.b ++ r.a ++ r.d))

/-- Instructions of op6 0x17 (R43-R46). -/
def read17 (r : Raw) : Option Instr :=
  match r.fn6.toNat with
  | 0x00 => some (.jmpReg r.form r.a)
  | 0x01 => some (.callReg r.form r.a)
  | 0x02 => some (.ret r.form r.a)
  | 0x04 => some (.loop r.form (r.d.extractLsb' 0 2) r.a r.x16)
  | 0x05 => some (.loopImm r.form (r.d.extractLsb' 0 2) (r.b ++ r.a) r.x16)
  | _ => none

/-- Instructions of op6 0x18 (R43-R46). -/
def read18 (r : Raw) : Option Instr :=
  match r.fn6.toNat with
  | 0x00 => some (.nop r.form)
  | 0x05 => some (.pause r.form)
  | 0x01 => some (.trap r.form)
  | 0x02 => some (.sys r.form (r.b ++ r.a))
  | 0x03 => some (.eret r.form (r.b.extractLsb' 0 2) r.a)
  | 0x04 => some (.exit r.form)
  | 0x06 => some (.sleepns r.form r.a)
  | 0x07 => some (.waitns r.form r.a)
  | 0x08 => some (.waitnsV r.form r.a)
  | 0x09 => some (.rdtime r.form r.d)
  | _ => none

/-- Instructions of op6 0x19 (R43-R46). -/
def read19 (r : Raw) : Option Instr :=
  some (.mts r.form r.fn6 r.a)

/-- Instructions of op6 0x1A (R43-R46). -/
def read1A (r : Raw) : Option Instr :=
  some (.mfs r.form r.fn6 r.d)

/-- Instructions of op6 0x1C (R43-R46). -/
def read1C (r : Raw) : Option Instr :=
  match r.fn6.toNat with
  | 0x00 => some (.bsfill r.form r.a r.b)
  | 0x01 => some (.bsget r.form r.d r.b)
  | 0x02 => some (.bspeek r.form r.d r.b)
  | 0x03 => some (.bsskip r.form r.b)
  | 0x05 => some (.bsgetImm r.form r.d r.b)
  | 0x06 => some (.bspeekImm r.form r.d r.b)
  | 0x07 => some (.bsskipImm r.form r.b)
  | _ => none

/-- Instructions of op6 0x20 (R43-R46). -/
def read20 (r : Raw) : Option Instr :=
  some (.ld r.form r.tyv r.d r.a r.immI)

/-- Instructions of op6 0x21 (R43-R46). -/
def read21 (r : Raw) : Option Instr :=
  some (.st r.form r.tyv r.d r.a r.immI)

/-- Instructions of op6 0x22 (R43-R46). -/
def read22 (r : Raw) : Option Instr :=
  if r.fn6.getLsbD 4 then some (.stn r.form r.tyv (r.fn6.extractLsb' 0 4) r.d r.a (if r.len = 0 then 0#7 ++ r.b ++ 0#3 else r.x16)) else some (.ldn r.form r.tyv (r.fn6.extractLsb' 0 4) r.d r.a (if r.len = 0 then 0#7 ++ r.b ++ 0#3 else r.x16))

/-- Instructions of op6 0x23 (R43-R46). -/
def read23 (r : Raw) : Option Instr :=
  match r.fn6.toNat with
  | 0x00 => some (.ldt r.form r.dT r.a r.b r.immI)
  | 0x01 => some (.stt r.form r.dT r.a r.b r.immI)
  | 0x02 => some (.ldtPost r.form r.dT r.a r.b r.immI)
  | 0x03 => some (.sttPost r.form r.dT r.a r.b r.immI)
  | _ => none

/-- Instructions of op6 0x24 (R43-R46). -/
def read24 (r : Raw) : Option Instr :=
  match r.fn6.toNat with
  | 0x00 => some (.pref r.form r.b r.a (r.d.getLsbD 0) r.x16)
  | _ => none

/-- Instructions of op6 0x25 (R43-R46). -/
def read25 (r : Raw) : Option Instr :=
  match r.fn6.toNat with
  | 0x00 => some (.pushm r.form r.a r.b)
  | 0x01 => some (.popm r.form r.a r.b)
  | _ => none

/-- Instructions of op6 0x28 (R43-R46). -/
def read28 (r : Raw) : Option Instr :=
  if r.fn6.getLsbD 4 then some (.rld r.form (r.fn6.extractLsb' 0 3) r.d r.a r.path) else some (.rst r.form (r.fn6.getLsbD 3) (r.fn6.extractLsb' 0 3) r.d r.a r.path)

/-- Instructions of op6 0x29 (R43-R46). -/
def read29 (r : Raw) : Option Instr :=
  match r.fn6.toNat with
  | 0x00 => some (.msend r.form r.d r.a)
  | 0x01 => some (.mrecv r.form (r.b.getLsbD 0) r.d r.a)
  | _ => none

/-- Instructions of op6 0x2C (R43-R46). -/
def read2C (r : Raw) : Option Instr :=
  match (r.fn6.extractLsb' 0 4).toNat with
  | 0x0 => some (.amoAdd r.form r.ord r.tyv r.d r.a r.b r.e)
  | 0x1 => some (.amoMin r.form r.ord r.tyv r.d r.a r.b r.e)
  | 0x2 => some (.amoMax r.form r.ord r.tyv r.d r.a r.b r.e)
  | 0x3 => some (.amoAnd r.form r.ord r.tyv r.d r.a r.b r.e)
  | 0x4 => some (.amoOr r.form r.ord r.tyv r.d r.a r.b r.e)
  | 0x5 => some (.amoXor r.form r.ord r.tyv r.d r.a r.b r.e)
  | 0x6 => some (.amoSwap r.form r.ord r.tyv r.d r.a r.b r.e)
  | 0x7 => some (.amoCas r.form r.ord r.tyv r.d r.a r.b r.e)
  | 0x8 => some (.amoFadd r.form r.ord r.tyv r.d r.a r.b r.e)
  | 0x9 => some (.amoXacc r.form r.ord r.tyv r.a r.b r.e)
  | _ => none

/-- Instructions of op6 0x2D (R43-R46). -/
def read2D (r : Raw) : Option Instr :=
  match r.fn6.toNat with
  | 0x00 => some (.ldAcq r.form r.tyv r.d r.a r.e)
  | 0x01 => some (.stRel r.form r.tyv r.d r.a r.e)
  | _ => none

/-- Instructions of op6 0x2E (R43-R46). -/
def read2E (r : Raw) : Option Instr :=
  match r.fn6.toNat with
  | 0x00 => some (.fenceAcq r.form r.a)
  | 0x01 => some (.fenceRel r.form r.a)
  | 0x02 => some (.fenceFull r.form r.a)
  | 0x03 => some (.fenceAck r.form)
  | 0x04 => some (.fenceAcqAll r.form r.a)
  | 0x05 => some (.fenceRelAll r.form r.a)
  | 0x06 => some (.fenceFullAll r.form r.a)
  | _ => none

/-- Instructions of op6 0x2F (R43-R46). -/
def read2F (r : Raw) : Option Instr :=
  match r.fn6.toNat with
  | 0x00 => some (.bind r.form r.d r.a r.b)
  | 0x01 => some (.unbind r.form r.a r.b)
  | 0x02 => some (.wbr r.form r.a r.b)
  | 0x03 => some (.invr r.form r.a r.b)
  | _ => none

/-- Instructions of op6 0x30 (R43-R46). -/
def read30 (r : Raw) : Option Instr :=
  match r.fn6.toNat with
  | 0x00 => some (.tadd r.form r.tyv (r.md.getLsbD 1) r.dT r.aT r.bT)
  | 0x01 => some (.tsub r.form r.tyv (r.md.getLsbD 1) r.dT r.aT r.bT)
  | 0x02 => some (.tmul r.form r.tyv (r.md.getLsbD 1) r.dT r.aT r.bT)
  | 0x03 => some (.tmin r.form r.tyv r.dT r.aT r.bT)
  | 0x04 => some (.tmax r.form r.tyv r.dT r.aT r.bT)
  | 0x05 => some (.tand r.form r.tyv r.dT r.aT r.bT)
  | 0x06 => some (.tor r.form r.tyv r.dT r.aT r.bT)
  | 0x07 => some (.txor r.form r.tyv r.dT r.aT r.bT)
  | 0x08 => some (.tshl r.form r.tyv r.dT r.aT r.tshift)
  | 0x09 => some (.tshr r.form r.tyv r.dT r.aT r.tshift)
  | _ => none

/-- Instructions of op6 0x31 (R43-R46). -/
def read31 (r : Raw) : Option Instr :=
  match r.fn6.toNat with
  | 0x00 => some (.tmov r.form r.tyv r.dT r.aT)
  | 0x01 => some (.tzero r.form r.tyv r.dT)
  | 0x02 => some (.tiota r.form r.tyv r.dT r.imm8)
  | 0x04 => some (.tabs r.form r.tyv (r.md.getLsbD 1) r.dT r.aT)
  | 0x05 => some (.tneg r.form r.tyv (r.md.getLsbD 1) r.dT r.aT)
  | 0x06 => some (.texp2 r.form r.tyv r.dT r.aT)
  | 0x07 => some (.tlog2 r.form r.tyv r.dT r.aT)
  | 0x08 => some (.trcp r.form r.tyv r.dT r.aT)
  | 0x09 => some (.trsqrt r.form r.tyv r.dT r.aT)
  | 0x0A => some (.ttanh r.form r.tyv r.dT r.aT)
  | 0x03 => some (.tbcast r.form r.tyv r.dT r.srcA)
  | _ => none

/-- Instructions of op6 0x32 (R43-R46). -/
def read32 (r : Raw) : Option Instr :=
  match r.fn6.toNat with
  | 0x00 => some (.tfma r.form r.tyv (r.md.getLsbD 1) r.dT r.aT r.bT r.tc)
  | 0x01 => some (.tcmp r.form r.tyv (r.md.extractLsb' 0 3) r.dT r.aT r.bT)
  | 0x02 => some (.tsel r.form r.tyv r.dT r.aT r.bT r.tc)
  | 0x03 => some (.tcvt r.form r.tyv r.sty r.dT r.aT r.tcvtForm)
  | _ => none

/-- Instructions of op6 0x33 (R43-R46). -/
def read33 (r : Raw) : Option Instr :=
  match r.fn6.toNat with
  | 0x00 => some (.trowred r.form r.tyv (r.md.extractLsb' 0 2) (r.md.getLsbD 2) r.dT r.aT)
  | 0x01 => some (.tcolred r.form r.tyv (r.md.extractLsb' 0 2) (r.md.getLsbD 2) r.dT r.aT)
  | 0x02 => some (.ttrans r.form r.tyv r.dT r.aT r.imm8)
  | 0x03 => some (.tperm r.form r.tyv r.dT r.aT r.bT)
  | _ => none

/-- Instructions of op6 0x34 (R43-R46). -/
def read34 (r : Raw) : Option Instr :=
  match r.fn6.toNat with
  | 0x00 => some (.tlutload r.form r.aT)
  | 0x01 => some (.tlut r.form r.tyv r.dT r.aT r.imm8)
  | 0x02 => some (.tplanes r.form r.dT r.aT)
  | 0x03 => some (.tunplanes r.form (r.md.extractLsb' 0 4) r.dT r.aT)
  | 0x04 => some (.bsgetT r.form r.tyv r.dT r.imm8)
  | _ => none

/-- Instructions of op6 0x35 (R43-R46). -/
def read35 (r : Raw) : Option Instr :=
  match r.fn6.toNat with
  | 0x00 => some (.tset r.form r.tyv r.dT r.tc r.imm8 r.srcA)
  | _ => none

/-- Instructions of op6 0x38 (R43-R46). -/
def read38 (r : Raw) : Option Instr :=
  match r.fn6.toNat with
  | 0x00 => some (.mldw r.form r.tyv (r.md.extractLsb' 0 4) (r.x16.getLsbD 0) r.aT)
  | 0x01 => some (.mstrm r.form r.tyv (r.x16.getLsbD 0) r.dT r.aT (if r.md.getLsbD 0 then none else some r.tc))
  | 0x02 => some (.mrd r.form (r.x16.getLsbD 0) r.dT)
  | 0x03 => some (.mclr r.form (r.x16.getLsbD 0))
  | 0x04 => some (.mwait r.form (r.md.extractLsb' 0 2))
  | _ => none

/-- Instructions of op6 0x3C (R43-R46). -/
def read3C (r : Raw) : Option Instr :=
  match r.fn6.toNat with
  | 0x00 => some (.hopen r.form r.hid (r.x16.extractLsb' 4 2) r.a r.b)
  | 0x09 => some (.hjoin r.form r.hid (r.x16.extractLsb' 4 2) r.a r.b)
  | 0x01 => some (.hload r.form r.tyv r.hid r.aT r.b)
  | 0x04 => some (.hadd r.form r.tyv r.hid r.aT r.b)
  | 0x03 => some (.hread r.form r.tyv r.hid r.dT r.b)
  | 0x02 => some (.hpush r.form r.hid r.d r.a)
  | 0x0A => some (.hleave r.form r.hid r.d r.a)
  | 0x05 => if r.md.getLsbD 0 then some (.hmassSet r.form r.hid r.a) else some (.hmass r.form r.hid r.d)
  | 0x06 => some (.hdisag r.form r.hid r.d)
  | 0x07 => some (.hpause r.form r.hid)
  | 0x08 => some (.hresume r.form r.hid)
  | _ => none

/-- Instructions of op6 0x3D (R43-R46). -/
def read3D (r : Raw) : Option Instr :=
  match r.fn6.toNat with
  | 0x00 => some (.wredMax r.form r.tyv (r.md.getLsbD 0) (r.md.getLsbD 1) (r.md.extractLsb' 4 3) r.dT r.te r.aT)
  | 0x01 => some (.wredMin r.form r.tyv (r.md.getLsbD 0) (r.md.getLsbD 1) (r.md.extractLsb' 4 3) r.dT r.te r.aT)
  | 0x02 => some (.wredClamp r.form r.tyv r.dT r.te r.aT r.bT r.tc)
  | 0x03 => some (.wredMed r.form r.tyv (r.md.getLsbD 0) (r.md.extractLsb' 4 3) r.dT r.te r.aT)
  | 0x04 => some (.wredSsum r.form r.tyv (r.md.getLsbD 1) (r.md.extractLsb' 4 3) r.dT r.te r.aT)
  | 0x08 => some (.wadj r.form r.tyv (r.md.getLsbD 2) (if r.md.getLsbD 3 then some r.tc else none) (r.x16.extractLsb' 0 3) (r.x16.getLsbD 3) (r.x16.getLsbD 4) (r.x16.extractLsb' 5 3) r.dT r.aT r.bT)
  | 0x09 => some (.wst r.form r.dT r.a)
  | 0x0A => some (.wld r.form r.dT r.a)
  | _ => none

/-- Instructions of op6 0x3E (R43-R46). -/
def read3E (r : Raw) : Option Instr :=
  match r.fn6.toNat with
  | 0x1C => some (.ctxinfo r.form r.d r.b)
  | 0x1D => some (.enrd r.form r.d r.a r.b)
  | 0x18 => some (.qpost r.form r.d r.a r.b)
  | 0x19 => some (.qwait r.form (r.x16.getLsbD 0) r.d r.a r.b)
  | 0x1A => some (.kinfo r.form r.d r.a r.b)
  | 0x10 => some (.gid r.form r.d r.b)
  | 0x11 => some (.gdom r.form r.b)
  | 0x12 => if r.b = 1 then some (.sstepEnd r.form) else some (.sstep r.form r.a)
  | 0x13 => some (.tsend r.form r.d r.aT r.b)
  | 0x00 => some (.kdecl r.form r.a)
  | 0x01 => some (.kacq r.form r.d r.a)
  | 0x02 => some (.ktry r.form r.d r.a)
  | 0x03 => some (.krel r.form r.a)
  | 0x04 => some (.kquery r.form r.d r.b)
  | 0x08 => some (.binit r.form r.a r.b)
  | 0x09 => some (.barr r.form r.d r.a r.e)
  | 0x0A => some (.bwait r.form r.d r.a r.b r.e)
  | 0x0B => some (.barw r.form r.d r.a r.e)
  | 0x0C => some (.bpoison r.form r.a r.b r.e)
  | 0x0D => some (.bquery r.form r.d r.a r.b)
  | 0x20 => some (.lquery r.form r.d r.a r.b)
  | _ => none

/-- Instructions of op6 0x3F (R43-R46). -/
def read3F (r : Raw) : Option Instr :=
  match r.fn6.toNat with
  | 0x00 => some (.xfer r.form (r.md.extractLsb' 0 3) (r.md.extractLsb' 3 2) r.d r.a r.b)
  | 0x01 => some (.latch r.form r.a r.b r.e)
  | 0x02 => some (.ptprobe r.form r.d r.a r.b)
  | 0x03 => some (.tlbinv r.form r.d r.a r.b)
  | _ => none

/-- The instruction that the fields read as, by op6 (R43-R46). -/
def Instr.read (r : Raw) : Option Instr :=
  match r.op6.toNat with
  | 0x00 => read00 r
  | 0x01 => read01 r
  | 0x02 => read02 r
  | 0x03 => read03 r
  | 0x04 => read04 r
  | 0x05 => read05 r
  | 0x06 => read06 r
  | 0x07 => read07 r
  | 0x08 => read08 r
  | 0x09 => read09 r
  | 0x0A => read0A r
  | 0x0B => read0B r
  | 0x0C => read0C r
  | 0x10 => read10 r
  | 0x11 => read11 r
  | 0x12 => read12 r
  | 0x13 => read13 r
  | 0x14 => read14 r
  | 0x15 => read15 r
  | 0x16 => read16 r
  | 0x17 => read17 r
  | 0x18 => read18 r
  | 0x19 => read19 r
  | 0x1A => read1A r
  | 0x1C => read1C r
  | 0x20 => read20 r
  | 0x21 => read21 r
  | 0x22 => read22 r
  | 0x23 => read23 r
  | 0x24 => read24 r
  | 0x25 => read25 r
  | 0x28 => read28 r
  | 0x29 => read29 r
  | 0x2C => read2C r
  | 0x2D => read2D r
  | 0x2E => read2E r
  | 0x2F => read2F r
  | 0x30 => read30 r
  | 0x31 => read31 r
  | 0x32 => read32 r
  | 0x33 => read33 r
  | 0x34 => read34 r
  | 0x35 => read35 r
  | 0x38 => read38 r
  | 0x3C => read3C r
  | 0x3D => read3D r
  | 0x3E => read3E r
  | 0x3F => read3F r
  | _ => none

/-- The encoder: the fields of an instruction (R43-R47). A step that is no instruction has none. -/
def Instr.toRaw : Instr → Option Raw
  | .iAdd f ty d a b => some ({ Raw.base f 0x00 0x01 with ty := ty.code, d := d, a := a, b := b.field, lit := b.lit })
  | .iSub f ty d a b => some ({ Raw.base f 0x00 0x02 with ty := ty.code, d := d, a := a, b := b.field, lit := b.lit })
  | .iMul f ty d a b => some ({ Raw.base f 0x00 0x03 with ty := ty.code, d := d, a := a, b := b.field, lit := b.lit })
  | .iMulh f ty d a b => some ({ Raw.base f 0x00 0x04 with ty := ty.code, d := d, a := a, b := b.field, lit := b.lit })
  | .iDiv f ty d a b => some ({ Raw.base f 0x00 0x05 with ty := ty.code, d := d, a := a, b := b.field, lit := b.lit })
  | .iRem f ty d a b => some ({ Raw.base f 0x00 0x06 with ty := ty.code, d := d, a := a, b := b.field, lit := b.lit })
  | .iAnd f ty d a b => some ({ Raw.base f 0x00 0x07 with ty := ty.code, d := d, a := a, b := b.field, lit := b.lit })
  | .iOr f ty d a b => some ({ Raw.base f 0x00 0x08 with ty := ty.code, d := d, a := a, b := b.field, lit := b.lit })
  | .iXor f ty d a b => some ({ Raw.base f 0x00 0x09 with ty := ty.code, d := d, a := a, b := b.field, lit := b.lit })
  | .iAndn f ty d a b => some ({ Raw.base f 0x00 0x0A with ty := ty.code, d := d, a := a, b := b.field, lit := b.lit })
  | .iShl f ty d a b => some ({ Raw.base f 0x00 0x0B with ty := ty.code, d := d, a := a, b := b.field, lit := b.lit })
  | .iShr f ty d a b => some ({ Raw.base f 0x00 0x0C with ty := ty.code, d := d, a := a, b := b.field, lit := b.lit })
  | .iSra f ty d a b => some ({ Raw.base f 0x00 0x0D with ty := ty.code, d := d, a := a, b := b.field, lit := b.lit })
  | .iRol f ty d a b => some ({ Raw.base f 0x00 0x0E with ty := ty.code, d := d, a := a, b := b.field, lit := b.lit })
  | .iMin f ty d a b => some ({ Raw.base f 0x00 0x0F with ty := ty.code, d := d, a := a, b := b.field, lit := b.lit })
  | .iMax f ty d a b => some ({ Raw.base f 0x00 0x10 with ty := ty.code, d := d, a := a, b := b.field, lit := b.lit })
  | .mov f ty d a => some ({ Raw.base f 0x00 0x11 with ty := ty.code, d := d, a := a })
  | .clz f ty d a => some ({ Raw.base f 0x00 0x12 with ty := ty.code, d := d, a := a })
  | .ctz f ty d a => some ({ Raw.base f 0x00 0x13 with ty := ty.code, d := d, a := a })
  | .popc f ty d a => some ({ Raw.base f 0x00 0x14 with ty := ty.code, d := d, a := a })
  | .bext f ty d a b => some ({ Raw.base f 0x00 0x15 with ty := ty.code, d := d, a := a, b := b.field, lit := b.lit })
  | .bins f ty d a b => some ({ Raw.base f 0x00 0x16 with ty := ty.code, d := d, a := a, b := b.field, lit := b.lit })
  | .cvt f dty sty d a => some ({ Raw.base f 0x00 0x17 with ty := dty.code, md := 0#4 ++ sty.code, d := d, a := a })
  | .addImm f ty d a imm => some (({ Raw.base f 0x01 0 with ty := ty.code, d := d, a := a }).withImm imm)
  | .andImm f ty d a imm => some (({ Raw.base f 0x02 0 with ty := ty.code, d := d, a := a }).withImm imm)
  | .orImm f ty d a imm => some (({ Raw.base f 0x03 0 with ty := ty.code, d := d, a := a }).withImm imm)
  | .xorImm f ty d a imm => some (({ Raw.base f 0x04 0 with ty := ty.code, d := d, a := a }).withImm imm)
  | .shlImm f ty d a imm => some (({ Raw.base f 0x05 0 with ty := ty.code, d := d, a := a }).withImm imm)
  | .shrImm f ty d a imm => some (({ Raw.base f 0x06 0 with ty := ty.code, d := d, a := a }).withImm imm)
  | .sraImm f ty d a imm => some (({ Raw.base f 0x07 0 with ty := ty.code, d := d, a := a }).withImm imm)
  | .rolImm f ty d a imm => some (({ Raw.base f 0x08 0 with ty := ty.code, d := d, a := a }).withImm imm)
  | .movi f d imm => some (({ Raw.base f 0x09 0 with d := d }).withImm imm)
  | .lea f d a imm => some (({ Raw.base f 0x0C 0 with d := d, a := a }).withImm imm)
  | .cmp f ty cond p a b => some ({ Raw.base f 0x0A (0#3 ++ cond) with ty := ty.code, d := 0#3 ++ p, a := a, b := b.field, lit := b.lit })
  | .sel f p sense d a b => some ({ Raw.base f 0x0B (0#2 ++ BitVec.ofBool sense ++ p) with d := d, a := a, b := b })
  | .fadd f ty d a b => some ({ Raw.base f 0x10 0x01 with ty := ty.code, d := d, a := a, b := b.field, lit := b.lit })
  | .fsub f ty d a b => some ({ Raw.base f 0x10 0x02 with ty := ty.code, d := d, a := a, b := b.field, lit := b.lit })
  | .fmul f ty d a b => some ({ Raw.base f 0x10 0x03 with ty := ty.code, d := d, a := a, b := b.field, lit := b.lit })
  | .fdiv f ty d a b => some ({ Raw.base f 0x10 0x04 with ty := ty.code, d := d, a := a, b := b.field, lit := b.lit })
  | .fsqrt f ty d a lit => some ({ Raw.base f 0x10 0x05 with ty := ty.code, d := d, a := a, lit := lit.setWidth 64 })
  | .fmin f ty d a b => some ({ Raw.base f 0x10 0x06 with ty := ty.code, d := d, a := a, b := b.field, lit := b.lit })
  | .fmax f ty d a b => some ({ Raw.base f 0x10 0x07 with ty := ty.code, d := d, a := a, b := b.field, lit := b.lit })
  | .fclass f ty d a lit => some ({ Raw.base f 0x10 0x08 with ty := ty.code, d := d, a := a, lit := lit.setWidth 64 })
  | .frnd f ty d a lit => some ({ Raw.base f 0x10 0x09 with ty := ty.code, d := d, a := a, lit := lit.setWidth 64 })
  | .fma f ty d a b e => some ({ Raw.base f 0x11 0x00 with ty := ty.code, d := d, a := a, b := b, x16 := e ++ 0#10 })
  | .fcmp f ty cond p a b => some ({ Raw.base f 0x12 (0#3 ++ cond) with ty := ty.code, d := 0#3 ++ p, a := a, b := b.field, lit := b.lit })
  | .fcvt f dty sty d a => some ({ Raw.base f 0x13 0x00 with ty := dty.code, md := 0#4 ++ sty.code, d := d, a := a })
  | .br p ps off => some ({ Raw.base ⟨0, 0, false⟩ 0x14 (off.extractLsb' 12 6) with b := off.extractLsb' 6 6, a := off.extractLsb' 0 6, d := p ++ BitVec.ofBool ps ++ 0#2 })
  | .jmp f off => some ({ Raw.base f 0x15 (off.extractLsb' 18 6) with b := off.extractLsb' 12 6, a := off.extractLsb' 6 6, d := off.extractLsb' 0 6 })
  | .call f off => some ({ Raw.base f 0x16 (off.extractLsb' 18 6) with b := off.extractLsb' 12 6, a := off.extractLsb' 6 6, d := off.extractLsb' 0 6 })
  | .jmpReg f a => some ({ Raw.base f 0x17 0x00 with a := a })
  | .callReg f a => some ({ Raw.base f 0x17 0x01 with a := a })
  | .ret f a => some ({ Raw.base f 0x17 0x02 with a := a })
  | .loop f lvl a end16 => some ({ Raw.base f 0x17 0x04 with d := 0#4 ++ lvl, a := a, x16 := end16 })
  | .loopImm f lvl n end16 => some ({ Raw.base f 0x17 0x05 with d := 0#4 ++ lvl, b := n.extractLsb' 6 6, a := n.extractLsb' 0 6, x16 := end16 })
  | .nop f => some (Raw.base f 0x18 0x00)
  | .pause f => some (Raw.base f 0x18 0x05)
  | .pauseEnd _ _ => none
  | .trap f => some (Raw.base f 0x18 0x01)
  | .sys f code => some ({ Raw.base f 0x18 0x02 with b := code.extractLsb' 6 6, a := code.extractLsb' 0 6 })
  | .eret f rc a => some ({ Raw.base f 0x18 0x03 with b := 0#4 ++ rc, a := a })
  | .exit f => some (Raw.base f 0x18 0x04)
  | .sleepns f a => some ({ Raw.base f 0x18 0x06 with a := a })
  | .waitns f a => some ({ Raw.base f 0x18 0x07 with a := a })
  | .waitnsV f a => some ({ Raw.base f 0x18 0x08 with a := a })
  | .timedWaitDeadline _ _ => none
  | .rdtime f d => some ({ Raw.base f 0x18 0x09 with d := d })
  | .mts f ssel a => some ({ Raw.base f 0x19 (ssel) with a := a })
  | .mfs f ssel d => some ({ Raw.base f 0x1A (ssel) with d := d })
  | .bsfill f a b => some ({ Raw.base f 0x1C 0x00 with a := a, b := b })
  | .bsget f d b => some ({ Raw.base f 0x1C 0x01 with d := d, b := b })
  | .bspeek f d b => some ({ Raw.base f 0x1C 0x02 with d := d, b := b })
  | .bsskip f b => some ({ Raw.base f 0x1C 0x03 with b := b })
  | .bsgetImm f d n1 => some ({ Raw.base f 0x1C 0x05 with d := d, b := n1 })
  | .bspeekImm f d n1 => some ({ Raw.base f 0x1C 0x06 with d := d, b := n1 })
  | .bsskipImm f n1 => some ({ Raw.base f 0x1C 0x07 with b := n1 })
  | .ld f ty d a imm => some (({ Raw.base f 0x20 0 with ty := ty.code, d := d, a := a }).withImm imm)
  | .st f ty d a imm => some (({ Raw.base f 0x21 0 with ty := ty.code, d := d, a := a }).withImm imm)
  | .loadDataReturn _ _ _ => none
  | .deferredEcc _ _ _ => none
  | .ldn f ty rank d a off => some ({ Raw.base f 0x22 (0#1 ++ 0#1 ++ rank) with ty := ty.code, d := d, a := a, b := if f.len = 0 then off.extractLsb' 3 6 else 0, x16 := if f.len = 0 then 0 else off })
  | .stn f ty rank d a off => some ({ Raw.base f 0x22 (0#1 ++ 1#1 ++ rank) with ty := ty.code, d := d, a := a, b := if f.len = 0 then off.extractLsb' 3 6 else 0, x16 := if f.len = 0 then 0 else off })
  | .ldt f d a b imm => some (({ Raw.base f 0x23 0x00 with d := 0#2 ++ d, a := a, b := b }).withImm imm)
  | .stt f d a b imm => some (({ Raw.base f 0x23 0x01 with d := 0#2 ++ d, a := a, b := b }).withImm imm)
  | .ldtPost f d a b imm => some (({ Raw.base f 0x23 0x02 with d := 0#2 ++ d, a := a, b := b }).withImm imm)
  | .sttPost f d a b imm => some (({ Raw.base f 0x23 0x03 with d := 0#2 ++ d, a := a, b := b }).withImm imm)
  | .pref f n1 a hc off => some ({ Raw.base f 0x24 0x00 with b := n1, a := a, d := 0#5 ++ BitVec.ofBool hc, x16 := off })
  | .pushm f a b => some ({ Raw.base f 0x25 0x00 with a := a, b := b })
  | .popm f a b => some ({ Raw.base f 0x25 0x01 with a := a, b := b })
  | .rst f of n1 d a path => some ({ Raw.base f 0x28 (0#2 ++ BitVec.ofBool of ++ n1) with d := d, a := a, md := pathMd path })
  | .rld f n1 d a path => some ({ Raw.base f 0x28 (1#2 ++ 0#1 ++ n1) with d := d, a := a, md := pathMd path })
  | .remoteStoreArrive _ _ => none
  | .spillQueueSpaceFree _ => none
  | .remoteAckArrive _ => none
  | .remoteLoadArrive _ => none
  | .nonreturningServiced _ => none
  | .amoAdd f ord ty d a b e => some ({ Raw.base f 0x2C (ord.code ++ 0x0#4) with ty := ty.code, d := d, a := a, b := b, x16 := e ++ 0#10 })
  | .amoMin f ord ty d a b e => some ({ Raw.base f 0x2C (ord.code ++ 0x1#4) with ty := ty.code, d := d, a := a, b := b, x16 := e ++ 0#10 })
  | .amoMax f ord ty d a b e => some ({ Raw.base f 0x2C (ord.code ++ 0x2#4) with ty := ty.code, d := d, a := a, b := b, x16 := e ++ 0#10 })
  | .amoAnd f ord ty d a b e => some ({ Raw.base f 0x2C (ord.code ++ 0x3#4) with ty := ty.code, d := d, a := a, b := b, x16 := e ++ 0#10 })
  | .amoOr f ord ty d a b e => some ({ Raw.base f 0x2C (ord.code ++ 0x4#4) with ty := ty.code, d := d, a := a, b := b, x16 := e ++ 0#10 })
  | .amoXor f ord ty d a b e => some ({ Raw.base f 0x2C (ord.code ++ 0x5#4) with ty := ty.code, d := d, a := a, b := b, x16 := e ++ 0#10 })
  | .amoSwap f ord ty d a b e => some ({ Raw.base f 0x2C (ord.code ++ 0x6#4) with ty := ty.code, d := d, a := a, b := b, x16 := e ++ 0#10 })
  | .amoCas f ord ty d a b e => some ({ Raw.base f 0x2C (ord.code ++ 0x7#4) with ty := ty.code, d := d, a := a, b := b, x16 := e ++ 0#10 })
  | .amoFadd f ord ty d a b e => some ({ Raw.base f 0x2C (ord.code ++ 0x8#4) with ty := ty.code, d := d, a := a, b := b, x16 := e ++ 0#10 })
  | .amoXacc f ord ty a b e => some ({ Raw.base f 0x2C (ord.code ++ 0x9#4) with ty := ty.code, a := a, b := b, x16 := e ++ 0#10 })
  | .predictorDecay _ => none
  | .ldAcq f ty d a e => some ({ Raw.base f 0x2D 0x00 with ty := ty.code, d := d, a := a, x16 := e ++ 0#10 })
  | .stRel f ty d a e => some ({ Raw.base f 0x2D 0x01 with ty := ty.code, d := d, a := a, x16 := e ++ 0#10 })
  | .fenceAcq f a => some ({ Raw.base f 0x2E 0x00 with a := a })
  | .fenceRel f a => some ({ Raw.base f 0x2E 0x01 with a := a })
  | .fenceFull f a => some ({ Raw.base f 0x2E 0x02 with a := a })
  | .fenceAck f => some (Raw.base f 0x2E 0x03)
  | .fenceAcqAll f a => some ({ Raw.base f 0x2E 0x04 with a := a })
  | .fenceRelAll f a => some ({ Raw.base f 0x2E 0x05 with a := a })
  | .fenceFullAll f a => some ({ Raw.base f 0x2E 0x06 with a := a })
  | .bind f d a b => some ({ Raw.base f 0x2F 0x00 with d := d, a := a, b := b })
  | .unbind f a b => some ({ Raw.base f 0x2F 0x01 with a := a, b := b })
  | .wbr f a b => some ({ Raw.base f 0x2F 0x02 with a := a, b := b })
  | .invr f a b => some ({ Raw.base f 0x2F 0x03 with a := a, b := b })
  | .tadd f ty sat d a b => some ({ Raw.base f 0x30 0x00 with ty := ty.code, md := 0#6 ++ BitVec.ofBool sat ++ 0#1, d := 0#2 ++ d, a := 0#2 ++ a, b := 0#2 ++ b })
  | .tsub f ty sat d a b => some ({ Raw.base f 0x30 0x01 with ty := ty.code, md := 0#6 ++ BitVec.ofBool sat ++ 0#1, d := 0#2 ++ d, a := 0#2 ++ a, b := 0#2 ++ b })
  | .tmul f ty sat d a b => some ({ Raw.base f 0x30 0x02 with ty := ty.code, md := 0#6 ++ BitVec.ofBool sat ++ 0#1, d := 0#2 ++ d, a := 0#2 ++ a, b := 0#2 ++ b })
  | .tmin f ty d a b => some ({ Raw.base f 0x30 0x03 with ty := ty.code, d := 0#2 ++ d, a := 0#2 ++ a, b := 0#2 ++ b })
  | .tmax f ty d a b => some ({ Raw.base f 0x30 0x04 with ty := ty.code, d := 0#2 ++ d, a := 0#2 ++ a, b := 0#2 ++ b })
  | .tand f ty d a b => some ({ Raw.base f 0x30 0x05 with ty := ty.code, d := 0#2 ++ d, a := 0#2 ++ a, b := 0#2 ++ b })
  | .tor f ty d a b => some ({ Raw.base f 0x30 0x06 with ty := ty.code, d := 0#2 ++ d, a := 0#2 ++ a, b := 0#2 ++ b })
  | .txor f ty d a b => some ({ Raw.base f 0x30 0x07 with ty := ty.code, d := 0#2 ++ d, a := 0#2 ++ a, b := 0#2 ++ b })
  | .tshl f ty d a k => some ({ Raw.base f 0x30 0x08 with ty := ty.code, md := k.md, d := 0#2 ++ d, a := 0#2 ++ a, b := k.field, x16 := 0#8 ++ k.imm8 })
  | .tshr f ty d a k => some ({ Raw.base f 0x30 0x09 with ty := ty.code, md := k.md, d := 0#2 ++ d, a := 0#2 ++ a, b := k.field, x16 := 0#8 ++ k.imm8 })
  | .tfma f ty sat d a b c => some ({ Raw.base f 0x32 0x00 with ty := ty.code, md := 0#6 ++ BitVec.ofBool sat ++ 0#1, x16 := c ++ 0#12, d := 0#2 ++ d, a := 0#2 ++ a, b := 0#2 ++ b })
  | .tcmp f ty cond d a b => some ({ Raw.base f 0x32 0x01 with ty := ty.code, md := 0#5 ++ cond, d := 0#2 ++ d, a := 0#2 ++ a, b := 0#2 ++ b })
  | .tsel f ty d a b c => some ({ Raw.base f 0x32 0x02 with ty := ty.code, x16 := c ++ 0#12, d := 0#2 ++ d, a := 0#2 ++ a, b := 0#2 ++ b })
  | .tcvt f dty sty d a k => some ({ Raw.base f 0x32 0x03 with ty := dty.code, md := 0#3 ++ BitVec.ofBool k.mx ++ sty.code, d := 0#2 ++ d, a := 0#2 ++ a, b := k.field, x16 := k.x16 })
  | .tmov f ty d a => some ({ Raw.base f 0x31 0x00 with ty := ty.code, d := 0#2 ++ d, a := 0#2 ++ a })
  | .tzero f ty d => some ({ Raw.base f 0x31 0x01 with ty := ty.code, d := 0#2 ++ d })
  | .tiota f ty d s8 => some ({ Raw.base f 0x31 0x02 with ty := ty.code, d := 0#2 ++ d, x16 := 0#8 ++ s8 })
  | .tabs f ty sat d a => some ({ Raw.base f 0x31 0x04 with ty := ty.code, md := 0#6 ++ BitVec.ofBool sat ++ 0#1, d := 0#2 ++ d, a := 0#2 ++ a })
  | .tneg f ty sat d a => some ({ Raw.base f 0x31 0x05 with ty := ty.code, md := 0#6 ++ BitVec.ofBool sat ++ 0#1, d := 0#2 ++ d, a := 0#2 ++ a })
  | .texp2 f ty d a => some ({ Raw.base f 0x31 0x06 with ty := ty.code, d := 0#2 ++ d, a := 0#2 ++ a })
  | .tlog2 f ty d a => some ({ Raw.base f 0x31 0x07 with ty := ty.code, d := 0#2 ++ d, a := 0#2 ++ a })
  | .trcp f ty d a => some ({ Raw.base f 0x31 0x08 with ty := ty.code, d := 0#2 ++ d, a := 0#2 ++ a })
  | .trsqrt f ty d a => some ({ Raw.base f 0x31 0x09 with ty := ty.code, d := 0#2 ++ d, a := 0#2 ++ a })
  | .ttanh f ty d a => some ({ Raw.base f 0x31 0x0A with ty := ty.code, d := 0#2 ++ d, a := 0#2 ++ a })
  | .tbcast f ty d v => some ({ Raw.base f 0x31 0x03 with ty := ty.code, d := 0#2 ++ d, a := v.field, lit := v.lit })
  | .tset f ty d row col v => some ({ Raw.base f 0x35 0x00 with ty := ty.code, d := 0#2 ++ d, a := v.field, x16 := row ++ 0#4 ++ col, lit := v.lit })
  | .trowred f ty op wide d a => some ({ Raw.base f 0x33 0x00 with ty := ty.code, md := 0#5 ++ BitVec.ofBool wide ++ op, d := 0#2 ++ d, a := 0#2 ++ a })
  | .tcolred f ty op wide d a => some ({ Raw.base f 0x33 0x01 with ty := ty.code, md := 0#5 ++ BitVec.ofBool wide ++ op, d := 0#2 ++ d, a := 0#2 ++ a })
  | .ttrans f ty d a h => some ({ Raw.base f 0x33 0x02 with ty := ty.code, x16 := 0#8 ++ h, d := 0#2 ++ d, a := 0#2 ++ a })
  | .tperm f ty d a b => some ({ Raw.base f 0x33 0x03 with ty := ty.code, d := 0#2 ++ d, a := 0#2 ++ a, b := 0#2 ++ b })
  | .tlutload f a => some ({ Raw.base f 0x34 0x00 with a := 0#2 ++ a })
  | .tlut f ty d a p => some ({ Raw.base f 0x34 0x01 with ty := ty.code, x16 := 0#8 ++ p, d := 0#2 ++ d, a := 0#2 ++ a })
  | .tplanes f d a => some ({ Raw.base f 0x34 0x02 with d := 0#2 ++ d, a := 0#2 ++ a })
  | .tunplanes f k d a => some ({ Raw.base f 0x34 0x03 with md := 0#4 ++ k, d := 0#2 ++ d, a := 0#2 ++ a })
  | .bsgetT f ty d n => some ({ Raw.base f 0x34 0x04 with ty := ty.code, d := 0#2 ++ d, x16 := 0#8 ++ n })
  | .mldw f ty k slot a => some ({ Raw.base f 0x38 0x00 with ty := ty.code, md := 0#4 ++ k, a := 0#2 ++ a, x16 := 0#15 ++ BitVec.ofBool slot })
  | .mstrm f ty slot d a c => some ({ Raw.base f 0x38 0x01 with ty := ty.code, md := 0#7 ++ BitVec.ofBool c.isNone, d := 0#2 ++ d, a := 0#2 ++ a, x16 := c.getD 0 ++ 0#11 ++ BitVec.ofBool slot })
  | .mrd f slot d => some ({ Raw.base f 0x38 0x02 with d := 0#2 ++ d, x16 := 0#15 ++ BitVec.ofBool slot })
  | .mclr f slot => some ({ Raw.base f 0x38 0x03 with x16 := 0#15 ++ BitVec.ofBool slot })
  | .mwait f cover => some ({ Raw.base f 0x38 0x04 with md := 0#6 ++ cover })
  | .mxaOpStart _ _ => none
  | .mxaOpFinish _ _ => none
  | .mwaitEnd _ _ => none
  | .ctxinfo f d q => some ({ Raw.base f 0x3E 0x1C with d := d, b := q })
  | .enrd f d a q => some ({ Raw.base f 0x3E 0x1D with d := d, a := a, b := q })
  | .qpost f d a b => some ({ Raw.base f 0x3E 0x18 with d := d, a := a, b := b })
  | .packetPublished _ _ => none
  | .qwait f conf d a b => some ({ Raw.base f 0x3E 0x19 with d := d, a := a, b := b, x16 := 0#15 ++ BitVec.ofBool conf })
  | .qwaitEnd _ _ => none
  | .kinfo f d a b => some ({ Raw.base f 0x3E 0x1A with d := d, a := a, b := b })
  | .gid f d q => some ({ Raw.base f 0x3E 0x10 with d := d, b := q })
  | .gdom f n => some ({ Raw.base f 0x3E 0x11 with b := n })
  | .gdomWaitEnd _ _ => none
  | .sstep f a => some ({ Raw.base f 0x3E 0x12 with a := a })
  | .sstepEnd f => some ({ Raw.base f 0x3E 0x12 with b := 1 })
  | .phaseEnd _ _ _ _ _ => none
  | .staggeredRelease _ _ => none
  | .tsend f slot t b => some ({ Raw.base f 0x3E 0x13 with d := slot, a := 0#2 ++ t, b := b })
  | .tsendSlotStart _ _ => none
  | .tsendLand _ => none
  | .kdecl f a => some ({ Raw.base f 0x3E 0x00 with a := a })
  | .kacq f d a => some ({ Raw.base f 0x3E 0x01 with d := d, a := a })
  | .ktry f d a => some ({ Raw.base f 0x3E 0x02 with d := d, a := a })
  | .krel f a => some ({ Raw.base f 0x3E 0x03 with a := a })
  | .kquery f d q => some ({ Raw.base f 0x3E 0x04 with d := d, b := q })
  | .tumblerCycle _ => none
  | .binit f a b => some ({ Raw.base f 0x3E 0x08 with a := a, b := b })
  | .barr f d a e => some ({ Raw.base f 0x3E 0x09 with d := d, a := a, x16 := e ++ 0#10 })
  | .bwait f d a b e => some ({ Raw.base f 0x3E 0x0A with d := d, a := a, b := b, x16 := e ++ 0#10 })
  | .barw f d a e => some ({ Raw.base f 0x3E 0x0B with d := d, a := a, x16 := e ++ 0#10 })
  | .bpoison f a b e => some ({ Raw.base f 0x3E 0x0C with a := a, b := b, x16 := e ++ 0#10 })
  | .bquery f d a q => some ({ Raw.base f 0x3E 0x0D with d := d, a := a, b := q })
  | .barrierWaiterLeave _ _ => none
  | .xfer f xf bud d a b => some ({ Raw.base f 0x3F 0x00 with md := 0#3 ++ bud ++ xf, d := d, a := a, b := b })
  | .xferOpStart _ => none
  | .xferComplete _ _ => none
  | .xferFault _ _ => none
  | .xferResume _ _ => none
  | .latch f a b e => some ({ Raw.base f 0x3F 0x01 with a := a, b := b, x16 := e ++ 0#10 })
  | .ptprobe f d a q => some ({ Raw.base f 0x3F 0x02 with d := d, a := a, b := q })
  | .tlbinv f d a b => some ({ Raw.base f 0x3F 0x03 with d := d, a := a, b := b })
  | .msend f d a => some ({ Raw.base f 0x29 0x00 with d := d, a := a })
  | .msendAccept _ => none
  | .msendRefused _ => none
  | .mrecv f try_ d a => some ({ Raw.base f 0x29 0x01 with b := 0#5 ++ BitVec.ofBool try_, d := d, a := a })
  | .mrecvWaitEnd _ _ => none
  | .lquery f d a q => some ({ Raw.base f 0x3E 0x20 with d := d, a := a, b := q })
  | .hopen f id slot a b => some ({ Raw.base f 0x3C 0x00 with a := a, b := b, x16 := 0#10 ++ slot ++ id })
  | .hjoin f id slot a b => some ({ Raw.base f 0x3C 0x09 with a := a, b := b, x16 := 0#10 ++ slot ++ id })
  | .hload f ty id a b => some ({ Raw.base f 0x3C 0x01 with ty := ty.code, a := 0#2 ++ a, b := b, x16 := 0#12 ++ id })
  | .hadd f ty id a b => some ({ Raw.base f 0x3C 0x04 with ty := ty.code, a := 0#2 ++ a, b := b, x16 := 0#12 ++ id })
  | .hread f ty id d b => some ({ Raw.base f 0x3C 0x03 with ty := ty.code, d := 0#2 ++ d, b := b, x16 := 0#12 ++ id })
  | .hpush f id d a => some ({ Raw.base f 0x3C 0x02 with d := d, a := a, x16 := 0#12 ++ id })
  | .hleave f id d a => some ({ Raw.base f 0x3C 0x0A with d := d, a := a, x16 := 0#12 ++ id })
  | .hmass f id d => some ({ Raw.base f 0x3C 0x05 with d := d, x16 := 0#12 ++ id })
  | .hmassSet f id a => some ({ Raw.base f 0x3C 0x05 with md := 1, a := a, x16 := 0#12 ++ id })
  | .hdisag f id d => some ({ Raw.base f 0x3C 0x06 with d := d, x16 := 0#12 ++ id })
  | .hpause f id => some ({ Raw.base f 0x3C 0x07 with x16 := 0#12 ++ id })
  | .hresume f id => some ({ Raw.base f 0x3C 0x08 with x16 := 0#12 ++ id })
  | .hingeBgTick _ _ => none
  | .hingePushArrive _ => none
  | .hingeReplyArrive _ _ => none
  | .wredMax f ty all row km1 d w a => some ({ Raw.base f 0x3D 0x00 with ty := ty.code, md := 0#1 ++ km1 ++ 0#2 ++ BitVec.ofBool row ++ BitVec.ofBool all, x16 := 0#4 ++ w ++ 0#8, d := 0#2 ++ d, a := 0#2 ++ a })
  | .wredMin f ty all row km1 d w a => some ({ Raw.base f 0x3D 0x01 with ty := ty.code, md := 0#1 ++ km1 ++ 0#2 ++ BitVec.ofBool row ++ BitVec.ofBool all, x16 := 0#4 ++ w ++ 0#8, d := 0#2 ++ d, a := 0#2 ++ a })
  | .wredClamp f ty d w a b c => some ({ Raw.base f 0x3D 0x02 with ty := ty.code, x16 := c ++ w ++ 0#8, d := 0#2 ++ d, a := 0#2 ++ a, b := 0#2 ++ b })
  | .wredMed f ty all km1 d w a => some ({ Raw.base f 0x3D 0x03 with ty := ty.code, md := 0#1 ++ km1 ++ 0#3 ++ BitVec.ofBool all, x16 := 0#4 ++ w ++ 0#8, d := 0#2 ++ d, a := 0#2 ++ a })
  | .wredSsum f ty row km1 d w a => some ({ Raw.base f 0x3D 0x04 with ty := ty.code, md := 0#1 ++ km1 ++ 0#2 ++ BitVec.ofBool row ++ 0#1, x16 := 0#4 ++ w ++ 0#8, d := 0#2 ++ d, a := 0#2 ++ a })
  | .wadj f ty once gen op all row km1 d g w => some ({ Raw.base f 0x3D 0x08 with ty := ty.code, md := 0#4 ++ BitVec.ofBool gen.isSome ++ BitVec.ofBool once ++ 0#2, x16 := gen.getD 0 ++ 0#4 ++ km1 ++ BitVec.ofBool row ++ BitVec.ofBool all ++ op, d := 0#2 ++ d, a := 0#2 ++ g, b := 0#2 ++ w })
  | .wst f d a => some ({ Raw.base f 0x3D 0x09 with d := 0#2 ++ d, a := a })
  | .wld f d a => some ({ Raw.base f 0x3D 0x0A with d := 0#2 ++ d, a := a })
  | .contextCreate _ _ => none
  | .contextDestroy _ => none
  | .gangSwitchTime _ _ _ => none
  | .plantailWrite _ _ => none
  | .meshInterruptMessage _ _ => none
  | .resumeRequest _ _ => none
  | .savecoreEnd _ _ => none
  | .restorecoreEnd _ => none
  | .queueCreate _ _ _ _ _ _ _ _ => none
  | .queueReset _ => none
  | .queueClose _ => none
  | .sliceBoundary _ _ => none
  | .tsliceWrite _ _ => none
  | .schedulerPass _ => none
  | .hostDoorbell _ _ _ _ _ => none
  | .groupPlace _ _ _ _ => none
  | .groupStart _ _ => none
  | .kernelRetire _ => none
  | .kernelFault _ _ _ => none
  | .kernelService _ _ => none
  | .kernelAbandon _ _ => none
  | .replayDiscardComplete _ => none
  | .linkResetRelease => none
  | .trainingSuccess _ _ _ => none
  | .trainingFailure _ => none
  | .portTrainRetry _ => none
  | .flitCrcError _ _ _ _ => none
  | .retrainSuccess _ => none
  | .retrainFailure _ => none
  | .portDisable _ => none
  | .portEnable _ => none
  | .machineCheck _ _ _ => none
  | .routeTableWrite _ _ _ _ => none
  | .timeFlit _ _ _ _ => none
  | .timeFlitTimeout => none
  | .moduleAdd _ => none
  | .moduleClear _ => none
  | .moduleFailTimeout _ _ => none
  | .moduleDeclareFailed _ _ => none
  | .faultRingHeadWrite _ _ => none
  | .faultRingConfigWrite _ _ _ => none
  | .lmSweep _ => none
  | .scanStart _ _ => none
  | .scanEnd _ _ _ => none
  | .vreqCommit _ _ => none
  | .voltageStepEnd _ => none
  | .clockHopEnd _ => none
  | .droopDetect _ => none
  | .droopClear _ => none
  | .featreqWrite _ _ _ => none
  | .moduleResetBoot _ _ => none
  | .partitionImageVerify _ _ => none
  | .attestationRequest _ _ => none
  | .mmioRegisterWrite _ _ _ _ => none
  | .timeNsAdvance => none
  | .unassignedEncoding => none

/-- The instruction with these fields, if they are an instruction's (step 2 of R48). -/
def decodeRaw (r : Raw) : Option Instr :=
  match Instr.read r with
  | some i => if i.wf && decide (i.toRaw = some r) then some i else none
  | none => none

/-- A word from four bytes, the lowest address first (R2, R26). -/
def wordOfBytes (b0 b1 b2 b3 : Byte) : BitVec 32 := b3 ++ b2 ++ b1 ++ b0

/-- The next word of a byte sequence. -/
def takeWord : List Byte → Option (BitVec 32 × List Byte)
  | b0 :: b1 :: b2 :: b3 :: t => some (wordOfBytes b0 b1 b2 b3, t)
  | _ => none

/-- The fields at the head of a byte sequence and the bytes after the instruction; none where the bytes end too early. -/
def takeRaw (bs : List Byte) : Option (Raw × List Byte) := do
  let (w0, t0) ← takeWord bs
  let len := w0.extractLsb' 0 2
  if len = 0 then return (Raw.ofWords w0 0 0, t0)
  let (w1, t1) ← takeWord t0
  if len = 1 then return (Raw.ofWords w0 w1 0, t1)
  let (w2, t2) ← takeWord t1
  if len = 2 then return (Raw.ofWords w0 w1 (w2.setWidth 64), t2)
  let (w3, t3) ← takeWord t2
  return (Raw.ofWords w0 w1 (w3 ++ w2), t3)

/-- Decode the instruction at the head of a byte sequence; none for an illegal encoding (R48, R49). -/
def decode (bs : List Byte) : Option (Instr × List Byte) :=
  match takeRaw bs with
  | some (r, t) => (decodeRaw r).map (fun i => (i, t))
  | none => none

/-- The four bytes of a word, lowest address first (R2). -/
def bytesOfWord (w : BitVec 32) : List Byte :=
  [w.extractLsb' 0 8, w.extractLsb' 8 8, w.extractLsb' 16 8, w.extractLsb' 24 8]

/-- The words of an instruction's fields (R26). -/
def Raw.words (r : Raw) : List (BitVec 32) :=
  match r.len.toNat with
  | 0 => [r.word0]
  | 1 => [r.word0, r.word1]
  | 2 => [r.word0, r.word1, r.lit.setWidth 32]
  | _ => [r.word0, r.word1, r.lit.setWidth 32, r.lit.extractLsb' 32 32]

/-- The words of an instruction; none for a step that is no instruction. -/
def encode (i : Instr) : Option (List (BitVec 32)) := i.toRaw.map Raw.words

/-- The bytes of an instruction, ascending addresses. -/
def encodeBytes (i : Instr) : Option (List Byte) := (encode i).map (fun ws => ws.flatMap bytesOfWord)

/-- The low `8 * n` bits of a number as bytes, the least significant first. -/
def natBytes : Nat → Nat → List Byte
  | 0, _ => []
  | n + 1, w => BitVec.ofNat 8 (w % 256) :: natBytes n (w / 256)

/-- The bytes of a table word: its bits laid out in the hardware's byte order, and zeros up to the longest length. -/
def tableBytes (nbits w : Nat) : List Byte := natBytes 16 (w % 2 ^ nbits)

/-- The instruction this decoder reads from a word of spec/opcode_table.json. -/
def decodeTableWord (nbits w : Nat) : Option Instr := (decode (tableBytes nbits w)).map (·.1)

end Sys2Proof
end

