-- ==== Sys2Proof/Config.lean ====
section
/-!
DEFINITION. What the spec leaves to the part (no values are given here: nothing in Lean can evaluate them), and the
fixed figures of the module.
-/
namespace Sys2Proof.Config

/-- A fresh value for a measured quantity the spec states no value of: MARGIN and LIFE of R414 (assumption 6). -/
opaque freeValue : Nat → BitVec 64

/-- Whether a port has a partner fitted (R334: a port with none is ABSENT). -/
opaque portFitted : Nat → Bool

/-- Whether an RSA-3072 signature, and an SLH-DSA-SHA2-192s signature, verifies a SHA-384 digest against the public keys whose hashes are
fused in the base die (R423): the digest, then the signature. -/
opaque rsaVerifies : List (BitVec 8) → List (BitVec 8) → Bool
opaque slhVerifies : List (BitVec 8) → List (BitVec 8) → Bool

/-- The fused minimum version of an image kind (R423). -/
opaque minVersion : Nat → Nat

/-- The two signatures of an attestation report by the device keys (R424). -/
opaque rsaSign : List (BitVec 8) → List (BitVec 8)
opaque slhSign : List (BitVec 8) → List (BitVec 8)

/-- Which line a full cluster cache drops for a new one: the spec names none (assumption 51). -/
opaque evictChoice : Nat → Nat

/-- Whether Hinge and xfer traffic took HEAVYPCT of a die's HBM port cycles in a slice (R246): cycles are no part of the model
(assumption 67). -/
opaque heavySlice : Nat → Bool

/-- Which of the four control cores of a die serves what no event names one for (R304: it is not promised, assumption 96). -/
opaque controlCore : Nat → BitVec 2

/-- Lines of 64 bytes in a cluster cache (R17, R19). -/
def cacheLines : Nat := 4096

/-- Translations that a core's L1, a cluster and a die hold (R316). -/
def coreTlb : Nat := 64
def clusterTlb : Nat := 1024
def dieTlb : Nat := 4096

/-- Columns and rows of cores in the package (R4, R16). -/
def columns : Nat := 256
def rows : Nat := 128

/-- Bytes of HBM (R19, R311). -/
def hbmBytes : Nat := 2 ^ 40

/-- Bytes of local memory of a core (R19). -/
def lmBytes : Nat := 0x30000

/-- What a byte of memory that nothing has written reads as; the spec gives no reset contents (assumption 3). -/
def unlistedByte : BitVec 8 := 0

end Sys2Proof.Config
end

