-- ==== Sys2Proof/Machine/State.lean ====
section
/-!
DEFINITION. The state of one module: plain data. Cores are keyed 256 y + x, strands 0-3 within a core. The chapters of
spec/ that name each part are cited at the part. `State.reset` is the module right after reset.
-/
namespace Sys2Proof.Machine

/-- A finite map: rising keys, a default for a key that is not listed. -/
abbrev AMap (β : Type) := List (Nat × β)

/-- Why a step stops without a next state: never. No rule of the spec stops the machine, and a trap is a next state. -/
inductive Fault where
  deriving DecidableEq, Repr

/-- Why a step has no meaning. -/
inductive Refusal where
  /-- An instruction the model does not give a meaning yet. Raised by Dispatch only. Safe. -/
  | notModelled (mnemonic : String)
  deriving DecidableEq, Repr

/-- Which strand: its core, 256 y + x, and its number 0-3 (R4, R265). -/
structure Who where
  core : Nat
  strand : Nat
  deriving DecidableEq, Repr

/-- One hardware loop level (R100). -/
structure LoopRegs where
  start : Word
  stop  : Word
  count : Word
  deriving DecidableEq, Repr

/-- Run state of a strand in its strand record (R235). -/
inductive RunState where
  | notStarted | running | exited
  deriving DecidableEq, Repr

/-- What a strand waits for (R271, R235, R367); `pause` is the span of R129, `operand` an operand of R111 that has not
returned, `msend` an offer of R346 not yet accepted. -/
inductive WaitKind where
  | lockBits | kacq | barrier | inbox | timed | vtimed | mwait | fenceAck | remote | qwait | sstep | tsend | gdom
  | hinge | mxaFull | xferFull | pause | operand | msend
  deriving DecidableEq, Repr

/-- XWAIT codes of R235, R251, R271 and R367; 0 where the wait has no code. Waits of fences, releases, wbr, invr, latch and tlbinv and for a
barrier out of reach are of kind `remote`: the spec gives them no code (DESIGN CHOICE, assumption 72). -/
def WaitKind.code : WaitKind → Nat
  | .lockBits => 1 | .kacq => 2 | .barrier => 3 | .inbox => 4 | .timed => 5 | .vtimed => 6 | .mwait => 7
  | .fenceAck => 8 | .remote => 9 | .qwait => 10 | .sstep => 11 | .tsend => 12 | .gdom => 13 | .hinge => 14
  | .mxaFull => 15 | .xferFull => 16 | .pause => 0 | .operand => 0 | .msend => 4

/-- A scope of R41. -/
inductive Scope where
  | pod | package | own
  | rect (r : Nat)
  deriving DecidableEq, Repr

/-- An acquire that has issued and not read: its object, its scope's value, and the ranges that the bind table ties to the
object at its issue (R149, R169). -/
structure Acq where
  obj    : Nat
  scope  : Word
  ranges : List (Nat × Nat × Nat)
  deriving DecidableEq, Repr

/-- An instruction that has issued and not retired: its length, its energy, its destination, and what it awaits: a
deadline D (R138), an object's address, a generation or sequence number, the acquire it leaves with (R303). `retry` marks a wait
that ends by issuing the instruction again, `woken` one whose strand may try that now. -/
structure Wait where
  kind     : WaitKind
  retry    : Bool
  woken    : Bool
  len      : Nat
  eu       : Nat
  d        : Reg
  deadline : Word
  obj      : Word
  flat     : Nat
  gen      : Word
  acq      : Option Acq
  deriving DecidableEq, Repr

/-- A cached translation (R316): its context, the virtual base and size exponent z of its page, the leaf entry, the
level it stands at and the physical address of its first replica. -/
structure TlbEnt where
  ctx   : Nat
  base  : Nat
  z     : Nat
  entry : Word
  level : Nat
  slot  : Nat
  deriving DecidableEq, Repr

/-- No translation: an access by core and LM offset. -/
def TlbEnt.none_ : TlbEnt := ⟨0, 0, 0, 0, 0, 0⟩

/-- A load that has retired and whose data has not returned (R147). `n` is 0 for one value of type ty, else the number
of dwords of an rld. `acq` is there for an acquire. `pkt` names the remote operation
whose reply brings the data; none for a load that reads through the cluster cache or, with `sync`, at a home slice.
`val` is what it has read already, and `poison` the CAUSE its read has met, or 0. `kind` is the KIND of its access and
`ent` the translation it used (R317, R332). -/
structure PLoad where
  pc    : Word
  va    : Word
  d     : Reg
  n     : Nat
  ty    : Ty
  flat  : Nat
  bytes : Nat
  acq   : Option Acq
  pkt   : Option Nat
  sync  : Bool
  val   : Option (BitVec 512)
  poison : Nat
  kind  : Nat
  ent   : TlbEnt
  deriving DecidableEq, Repr

/-- The virtual line through which a write was made: its context and its address / 64; none where no virtual address names it (R168). -/
abbrev Via := Option (Nat × Nat)

/-- A write that an early reading has missed: the party, by its start, behind which the write stands, in program order or through
pairings that cover it, and its virtual line (R168, R210). -/
structure Behind where
  birth : Nat
  via   : Via
  deriving DecidableEq, Repr

/-- A release point that has published a write which an early reading missed: its number, its core, its scope, and the virtual line of
the write (R151, R168). -/
structure Seen where
  id    : Nat
  core  : Nat
  scope : Scope
  via   : Via
  deriving DecidableEq, Repr

/-- An early reading of a line of 64 bytes by a strand (R209, R213): its virtual line, through which alone it serves (R168); what it read; by
byte, the release points to whose sequences the byte belongs (R150); the writes to the line that it has missed (R210); and the release
points that cover such a write since. -/
structure Early where
  line  : Nat
  val   : BitVec 512
  heads : AMap (List Nat)
  carry : List Behind
  seen  : List Seen
  deriving DecidableEq, Repr

/-- The domain side of a strand (R273-R281, R235): whether it is in a communication phase, waits in an sstep after arriving,
has issued sstep.end; the slot map as copied, the used bits, T_open; the level of the last arrival and the number of
arrivals at each level; and the row, slot and offset that a waiting tsend holds. -/
structure Phase where
  inPhase  : Bool
  arrived  : Bool
  ended    : Bool
  map      : BitVec 512
  used     : BitVec 31
  tOpen    : Word
  level    : Nat
  counts   : AMap Nat
  tsRow    : Option (Row × Nat × Nat)
  deriving DecidableEq, Repr

/-- Counts for the four resource types of the keyring (R282, R286). -/
structure Counts where
  reg  : Nat
  tile : Nat
  lmg  : Nat
  mxs  : Nat
  deriving DecidableEq, Repr

/-- The units a strand holds, in grant order (R283): register blocks 4-11, pool tiles, granules, matrix slots. -/
structure Holdings where
  reg  : List Nat
  tile : List Nat
  lmg  : List Nat
  mxs  : List Nat
  deriving DecidableEq, Repr

/-- A strand (R87, R105, R132, R235). -/
structure Strand where
  run     : RunState
  trapped : Bool
  pc      : Word
  preds   : BitVec 8
  priv    : Priv
  eprivS  : Priv
  eprivH  : Priv
  fctl    : Word
  fflag   : Word
  shape   : Word
  mask    : Word
  spill   : Word
  bitbuf  : Word
  wgen    : Word
  domain  : Word
  gid     : Word
  loop0   : LoopRegs
  loop1   : LoopRegs
  loop2   : LoopRegs
  loop3   : LoopRegs
  pack0   : Word
  pack1   : Word
  pack2   : Word
  pack3   : Word
  wait    : Option Wait
  loads   : List PLoad
  phase   : Phase
  claim   : Counts
  hold    : Holdings
  /-- The kernel and the group id the strand runs for (R253, R264). -/
  job     : Option (Nat × Nat)
  /-- Values a fetch of a word may return, by flat address, the next one first; true where the strand has executed a fence.full
  after a new value was visible, so that the next jump ends the old one (R29). -/
  icache  : AMap (List (BitVec 32 × Bool))
  /-- Lines read early, by flat address / 64: what a later plain load of them returns until an acquire takes them in (R209, R213). -/
  early   : AMap Early
  /-- Its next store, release or quiet atomic to a home slice or the host goes on its way and performs later (R426). -/
  late    : Bool
  /-- Its own release points, and those whose writes it has read: recorded where an early reading may hang on them (R151). -/
  points  : List Nat
  known   : List Nat
  /-- Number of the next remote operation of the strand, in program order, and which start the strand is of. -/
  seq     : Nat
  birth   : Nat
  deriving DecidableEq, Repr

/-! ## The engines of a core -/

/-- The work of the matrix array (R196, R203-R206). -/
inductive MxaKind where
  | ldw | strm | rd | clr
  deriving DecidableEq, Repr

/-- A weight slot (R192, R193): its state and latched format as the issued instructions leave them, and its weights,
row k at key k, as the array has loaded them. -/
structure MxaSlot where
  loaded  : Bool
  ty      : Ty
  k       : Nat
  weights : AMap Row
  deriving DecidableEq, Repr

/-- A matrix operation that has issued and not finished (R196), with what it captured at issue. `seq` numbers it in
issue order, and `birth` says which start of the strand issued it. Tiles are pool tiles; `wty` and `wk` are the slot's latched format at issue. -/
structure MxaOp where
  seq     : Nat
  kind    : MxaKind
  plane   : Nat
  slot    : Nat
  strand  : Nat
  birth   : Nat
  job     : Option (Nat × Nat)
  pc      : Word
  d       : Option Nat
  a       : Option Nat
  c       : Option Nat
  ty      : Ty
  k       : Nat
  wty     : Ty
  wk      : Nat
  rows    : BitVec 16
  fctl    : Word
  lut     : BitVec 128
  started : Bool
  deriving DecidableEq, Repr

/-- What a finished matrix operation has left for the strand's next mwait (R99, R200): its flags with the FCTL it
captured, and an error with the operation's address, the rows completed and the active rows. -/
structure MxaHeld where
  seq    : Nat
  strand : Nat
  birth  : Nat
  job    : Option (Nat × Nat)
  slot   : Nat
  flags  : BitVec 5
  fctl   : Word
  err    : Option (Word × Nat × Nat)
  deriving DecidableEq, Repr

/-- A waiting kacq request, in age order (R289, R295). -/
structure KReq where
  strand : Nat
  req    : Counts
  deriving DecidableEq, Repr

/-- The four resource types of the keyring (R282). -/
inductive Res where
  | reg | tile | lmg | mxs
  deriving DecidableEq, Repr

/-- The fault that has stopped an xfer (R317, R325): KIND, CAUSE, LEVEL, ENTRY, VA. -/
structure XFault where
  kind  : Nat
  cause : Nat
  level : Nat
  entry : Word
  va    : Word
  deriving DecidableEq, Repr

/-- An xfer record (R326), with the layout records the engine copied at issue, the privilege, the kernel and the start of the strand it
belongs to, and what that strand held when it exited (R133). -/
structure XferRec where
  xform   : BitVec 3
  budget  : BitVec 2
  strand  : Nat
  pc      : Word
  srec    : BitVec 18
  drec    : BitVec 18
  bar     : Word
  done    : Nat
  fctlc   : Word
  lut     : BitVec 128
  src     : BitVec 512
  dst     : BitVec 512
  started : Bool
  fault   : Option XFault
  order   : Nat
  job     : Option (Nat × Nat)
  priv    : Priv
  birth   : Nat
  left    : Option Holdings
  stale   : Bool
  deriving DecidableEq, Repr

/-- States of a hinge-set slot (R352). -/
inductive HState where
  | closed | opened | paused | leaving
  deriving DecidableEq, Repr

/-- A hinge-set slot (R351, R357): ATTR as its three dwords, M0 (R365), PART as its 64 bytes, HIGH and SEEN of
partner k at key k. -/
structure HSlot where
  state    : HState
  planp    : Bool
  savep    : Bool
  id       : BitVec 4
  block    : BitVec 18
  attr0    : Word
  attr1    : Word
  attr2    : Word
  m0       : Word
  nextTick : Word
  nextPart : BitVec 4
  none_    : BitVec 16
  part     : BitVec 512
  seen     : AMap (BitVec 64)
  hdisag   : BitVec 32
  deriving DecidableEq, Repr

/-- A message with its source word (R344), and the release points of its sender before it (R348). -/
structure Msg where
  data   : BitVec 512
  src    : Word
  points : List Nat
  deriving DecidableEq, Repr

/-- A unit of core storage with an uncorrectable parity error (R407): a scalar register by its place 16 block + i, a
strand's predicates, a row of a pool tile, a status register of a strand by its selector, a matrix plane. -/
inductive PErr where
  | reg (n : Nat)
  | pred (strand : Nat)
  | tile (t row : Nat)
  | status (strand sel : Nat)
  | plane (p : Nat)
  deriving DecidableEq, Repr

/-- The state of a context on one core (R87, R234-R236): what SaveCore writes and RestoreCore reads. `kept` holds the
units of strands that a kernel's stop has ended, with the kernel, until its service releases them (R260). Registers are keyed
16 block + i (R88), tile rows 16 tile + row (R91), tags by pool tile (R92). -/
structure CoreCtx where
  strands  : AMap Strand
  regs     : AMap Word
  tiles    : AMap Row
  tags     : AMap (BitVec 32)
  lut      : BitVec 128
  xconf    : Word
  vtime    : Word
  energy   : Word
  enstat   : Word
  slots    : AMap MxaSlot
  queue    : List MxaOp
  held     : List MxaHeld
  kqueue   : List KReq
  limbo    : List (Res × Nat)
  kept     : List (Nat × Res × Nat)
  xfers    : AMap (Option XferRec)
  hslots   : AMap HSlot
  inbox    : List Msg
  switches : BitVec 32
  perr     : List PErr
  /-- Where the state was saved last: its slot's address (R234). -/
  slot     : Nat
  deriving DecidableEq, Repr

/-- What the entry of a spill queue does not hold: the release points of its sender before it, the sender's kernel and group, its start, and
the virtual line of a store. -/
structure Spill where
  points : List Nat
  job    : Option (Nat × Nat)
  bearer : Nat
  via    : Via
  deriving DecidableEq, Repr

/-- States of a context on a core (R220). -/
inductive CoreSt where
  | away | restoring | active | saving
  deriving DecidableEq, Repr

/-- A core: the context resident there and its core state, that context's state, the core's translations, the last
strand that issued (R111), fencing (R413), and the contexts whose resumption is asked for and has not begun (R221). -/
structure Core where
  ctx    : Option Nat
  st     : CoreSt
  live   : CoreCtx
  tlb    : List TlbEnt
  lastK  : Nat
  fenced : Bool
  asked  : List Nat
  deriving DecidableEq, Repr

/-! ## Operations on their way -/

/-- What a remote operation does at its target (R158-R163, R299, R275, R358). -/
inductive PktKind where
  | store (orderFirst : Bool)
  | near
  | load
  | nearLoad
  | amo (op : Nat) (ty : Ty)
  | row
  | msg
  | push
  | reply (code : Nat)
  deriving DecidableEq, Repr

/-- A remote operation, message or push that has left its core (R158-R162, R346, R358). `va` and `ent` are its address and its
translation (R317), `points` its strand's release points (R150), and for a reply those of the value read. `flat` is the address
where the target memory has one; for the LM of a core, `core` and `off` name an LM offset of that core. `cmp` is the value a cas
compares with. `path` is the path it counts on (R159), `port` the port it takes to another module, of the `ports` that the route table gave
at its issue (R338-R340). `poison` is the CAUSE
that its read met, or 0. `held` marks one that waits at its target, `full` one that waits for a full spill queue. For a push,
`data` holds nothing, `vals` the values and `hseq` its sequence number; for a message, `hseq` is the number of its arrival at a
full inbox, 0 before. -/
structure Packet where
  kind    : PktKind
  va      : Word
  ent     : TlbEnt
  points  : List Nat
  port    : Option Nat
  ports   : List Nat
  ctx     : Nat
  gang    : Nat
  smodule : Nat
  src     : Who
  job     : Option (Nat × Nat)
  seq     : Nat
  birth   : Nat
  path    : Option Nat
  pc      : Word
  module_ : Option Nat
  core    : Nat
  off     : Nat
  flat    : Nat
  bytes   : Nat
  data    : BitVec 512
  cmp     : Word
  ret     : Bool
  landed  : Bool
  held    : Bool
  full    : Bool
  refused : Bool
  poison  : Nat
  hseq    : Nat
  hid     : Nat
  expiry  : Word
  mass    : Nat
  expo    : Int
  vals    : List Int
  deriving DecidableEq, Repr

/-! ## Contexts, queues, kernels, groups -/

/-- A context (R218-R220, R233): where its descriptor stands, its core states, its bind table (R168: base, length and
object of each tied range), whether it has ever run, and the entries of its spill queue from SQHEAD on that have been
redelivered already (R232), and the .lm image of its object (R59). Everything else is read from the descriptor. -/
structure Ctx where
  desc   : Nat
  alive  : Bool
  ran    : Bool
  cores  : AMap CoreSt
  binds  : List (Nat × Nat × Nat)
  redone : List Nat
  image  : List Byte
  deriving DecidableEq, Repr

/-- A queue that system software has created (R241-R249), keyed by its descriptor's physical address: its context, the
descriptor's virtual address, the published sequence numbers not yet taken, its places in the orders of mapping
and of waiting, and its key as the last slice boundary or its mapping has found it (R246). -/
structure Queue where
  ctx       : Nat
  va        : Word
  published : List Nat
  taken     : List Nat
  mappedAt  : Nat
  waitingAt : Nat
  key       : Nat
  deriving DecidableEq, Repr

/-- States of a kernel (R256). -/
inductive KState where
  | pending | running | draining | retired | confirmed | faulted | replaying | abandoned
  deriving DecidableEq, Repr

/-- States of a group (R269). -/
inductive GState where
  | pending | holding | starting | running | ended
  deriving DecidableEq, Repr

/-- A strand of a group: its place, and whether it has exited. -/
structure Member where
  who    : Who
  exited : Bool
  deriving DecidableEq, Repr

/-- A group of a kernel (R264-R270): its corner and its strands. -/
structure Group where
  state   : GState
  x0      : Nat
  y0      : Nat
  members : List Member
  deriving DecidableEq, Repr

/-- A shadow frame claimed by a kernel (R262, R320): the address of the live entry that names it, and the context. -/
structure Claim where
  slot : Nat
  live : Nat
  shadow : Nat
  size : Nat
  deriving DecidableEq, Repr

/-- A barrier object in a kernel's record (R304): the object and the GEN its last arrival received. -/
structure BarRec where
  flat : Nat
  gen  : Option Nat
  deriving DecidableEq, Repr

/-- A poisoning that waits for its object's core to run the context again (R299, R304): the GEN it needs, unless a strand of the
kernel was waiting, the control core and the code. -/
structure Poison where
  flat   : Nat
  gen    : Option Nat
  source : Nat
  code   : Nat
  deriving DecidableEq, Repr

/-- A kernel (R253, R258): its queue and sequence number, the packet and argument block as taken, its state, its groups,
the barriers of R304, the frames it has claimed, the cores it ran on, those not yet passed since its retirement, those on
which it has had a strand since their last passed scan, when it retired, and its poisonings that wait. -/
structure Kernel where
  ctx       : Nat
  qdesc     : Nat
  qva       : Word
  qid       : Nat
  die       : Nat
  kseq      : Nat
  packet    : BitVec 512
  args      : List Byte
  state     : KState
  replays   : Nat
  groups    : AMap Group
  takenAt   : Nat
  bars      : List BarRec
  claims    : List Claim
  cores     : List Nat
  unscanned : List Nat
  sinceScan : List Nat
  retiredAt : Word
  everRetired : Bool
  poisons   : List Poison
  deriving DecidableEq, Repr

/-- A phase barrier of a domain that has completed or ended (R273-R276): kernel, level, block and count, with T_open,
and Tc with the
STAGNS then in force once the phase has ended. -/
structure Domain where
  kernel : Nat
  level  : Nat
  bx     : Nat
  by_    : Nat
  count  : Nat
  tOpen  : Word
  /-- The slot maps that members have copied on leaving their sstep. -/
  maps   : List (Who × BitVec 512)
  tc     : Option Word
  stag   : Nat
  deriving DecidableEq, Repr

/-- Placement patience of a die (R268): the oldest pending group with its count of boundaries, the group that is HOLDING, and
the TIME of the last slice boundary. -/
structure Patience where
  oldest  : Option (Nat × Nat)
  count   : Nat
  holding : Option (Nat × Nat)
  seen    : Option Nat
  deriving DecidableEq, Repr

/-- A posted plan entry (R226): die, number in the ring, whether T had passed on its arrival, and the cores that have acted on
it or skipped it. -/
structure Plan where
  die   : Nat
  n     : Nat
  late  : Bool
  acted : List Nat
  deriving DecidableEq, Repr

/-! ## Links, modules, power -/

/-- Link states (R334). -/
inductive LState where
  | absent | down | training | up | retraining | failed | disabled
  deriving DecidableEq, Repr

/-- A link (R334, R335, R349). `fails` counts training failures in a row, `tries` the retries of the present flit, `since`
is when a port failed, `flitAt` when its last time flit arrived. -/
structure Link where
  state  : LState
  trains : BitVec 16
  retry  : BitVec 32
  crcerr : BitVec 32
  fecOk  : BitVec 32
  fecBad : BitVec 32
  flitAt : Option Nat
  fails  : Nat
  tries  : Nat
  since  : Option Nat
  nmod   : BitVec 16
  nport  : BitVec 5
  deriving DecidableEq, Repr

/-- States of a module in the module table (R342). -/
inductive MState where
  | unknown | joining | up | failed
  deriving DecidableEq, Repr

/-- An entry of the module table (R342, R349), whether the module is in lock, and since when every route to it has been
down. -/
structure ModEnt where
  state : MState
  epoch : BitVec 32
  lock  : Bool
  downAt : Option Nat
  deriving DecidableEq, Repr

/-- The clock and voltage of a cluster (R416-R420): the dividers and voltage the pending request asks for, when the step
in progress ends, a replacing request, cores in a clock hop, and the TIME at which the detector of a droop that lasts has last fired. -/
structure Power where
  divs    : BitVec 64
  volts   : Nat
  stepEnd : Option Nat
  next    : Option (BitVec 64 × Nat)
  hops    : List Nat
  droop   : Option Word
  deriving DecidableEq, Repr

/-- A line of a cluster cache (R153, R213): its 64 bytes, the bytes written and not yet written back, an uncorrectable error (R407), by byte
the release points to whose sequences its value belongs (R150), and the virtual lines of the bytes written (R168). -/
structure Line where
  data  : BitVec 512
  dirty : BitVec 64
  bad   : Bool
  heads : AMap (List Nat)
  vias  : List Via
  deriving DecidableEq, Repr

/-- A scan in progress on a cluster (R412): when it began, and the contexts it saved, each with its core. -/
structure Scan where
  begun : Nat
  saved : List (Nat × Nat)
  deriving DecidableEq, Repr

/-- Version and digest of an image that has started (R423). -/
structure Image where
  version : BitVec 32
  digest  : BitVec 384
  deriving DecidableEq, Repr

/-- An attestation report (R424). -/
structure Attest where
  roloskar  : Image
  partition : Image
  feature1  : BitVec 8
  feature2  : BitVec 8
  nonce     : List Byte
  rsa       : List Byte
  slh       : List Byte
  deriving DecidableEq, Repr

/-- The happenings to come, in order: a core issues its next instruction, a step of the table happens, a cache drops or
writes back a line (R153), a translation leaves a TLB (R316), an instruction is fetched early or a fetched word is dropped
(R29), an xfer moves its bytes up to the next boundary of 64 (R321), a strand reads a line early or forgets such a reading
(R209, R213), its next store to a SYNC page is to perform later (R426), codewords of a port are corrected (R336), storage takes
an uncorrectable error (R407), another party writes memory, Roloskar grants the host its windows
(R422, R338), an operation of another module arrives (R338, R346, R358), an error is corrected (R407), TIME is set by a single
step (R341), the module is reset. -/
inductive Turn where
  | issue (core : Nat)
  | event (i : Instr)
  | evictLine (cluster line : Nat)
  | evictTlb (core n : Nat)
  | evictClusterTlb (cluster n : Nat)
  | evictDieTlb (die n : Nat)
  | fetchEarly (core strand : Nat) (va : Word)
  | otherFetch (core strand : Nat) (flat : Nat)
  | xferPiece (core slot : Nat)
  | readEarly (core strand : Nat) (va : Word)
  | forgetEarly (core strand : Nat) (line : Nat)
  | lateStore (core strand : Nat)
  | fecFixed (port : BitVec 5) (n : BitVec 32)
  | coreError (core : Nat) (e : PErr)
  | memError (unit : Nat)
  | lineError (cluster line : Nat)
  | external (flat : Nat) (bytes : List Byte)
  | incoming (p : Packet)
  | corrected (cluster : Nat)
  | grantHost (windows : List (Word × Word))
  | setTime (t : Word)
  | reset
  deriving DecidableEq, Repr

/-- One module. -/
structure State where
  /-- TIME (R105, R108). -/
  time      : Word
  /-- The module's number in the pod (R105). -/
  module_   : BitVec 16
  /-- FEATURE2 (R106, R425). -/
  feature2  : BitVec 8
  /-- Bytes of every memory, at flat addresses: HBM at its physical address, HOST at 2^60 + address, the memory of module
  m at 2^64 (1 + m) + address, the LM of core c at 2^90 + 2^20 c + physical LM byte (R19, R311, R314, R338). -/
  mem       : List Host.Cell
  /-- MMIO registers by physical address, where written (R415). -/
  mmio      : AMap Word
  /-- HBM lines and LM words with an uncorrectable error, and poisoned ones, by flat address (R407, R408). -/
  badUnits  : List Nat
  poisoned  : List Nat
  cores     : AMap Core
  /-- The TLBs that the cores of a cluster share, and those of a die, which hold larger pages in pieces of 256 MiB: the number of
  the piece stands with the entry (R316). -/
  clusterTlb : AMap (List TlbEnt)
  dieTlb    : AMap (List (TlbEnt × Nat))
  /-- Cluster caches: lines by flat address / 64 (R153, R213). -/
  caches    : AMap (AMap Line)
  /-- Lines that a cluster owns for its atomics, and the counters of the contention predictor (R165). -/
  owners    : AMap Nat
  /-- The release points to whose sequences the value of a byte at its home belongs, by flat address (R150). -/
  heads     : AMap (List Nat)
  /-- What stands behind a diverted store or message, by 2^64 context + the number of its spill entry (R150, R161, R230, R284). -/
  spills    : AMap Spill
  predict   : AMap (AMap (BitVec 2))
  contexts  : AMap Ctx
  /-- State of away contexts, by 2^16 core + context (R234). -/
  saved     : AMap CoreCtx
  queues    : AMap Queue
  kernels   : AMap Kernel
  domains   : List Domain
  patience  : AMap Patience
  /-- HEAVY of a die (R246), the queue served first in the previous slice, and TSLICE waiting for a boundary. -/
  heavy     : AMap Bool
  firstQ    : AMap Nat
  tslice    : AMap Nat
  plans     : List Plan
  net       : AMap Packet
  /-- Reports that a full fault ring holds back, by die (R409). -/
  reports   : AMap (List (BitVec 512 × BitVec 512))
  /-- Reset has been released (R335): mesh and seam links train. -/
  released  : Bool
  links     : AMap Link
  modules   : AMap ModEnt
  /-- The module's own lock on module time: locked, bad estimates in a row, TIME of the last time flit (R341). -/
  lock      : Bool
  badEst    : Nat
  lastFlit  : Word
  power     : AMap Power
  scans     : AMap Scan
  /-- Recovery and started partitions (R423), cores, memory and queues of each partition, the images that started (16 for
  Roloskar), attestation reports (R424). -/
  booted    : Bool
  recovery  : Bool
  partsUp   : List Nat
  parts     : AMap PartRow
  images    : AMap Image
  attests   : List Attest
  /-- The MMIO windows, base and length, that Roloskar has granted to the host (R422). -/
  hostWindows : List (Word × Word)
  /-- Counters that name kernels, packets and orders. -/
  nextId    : Nat
  /-- The model's own fields: the strand that exec runs, the happenings to come, the counter of free values. -/
  cur       : Who
  agenda    : List Turn
  freeCtr   : Nat
  deriving DecidableEq, Repr

/-! ## Reset -/

def LoopRegs.reset : LoopRegs := ⟨0, 0, 0⟩
def Patience.none_ : Patience := { oldest := none, count := 0, holding := none, seen := none }
def Counts.zero : Counts := ⟨0, 0, 0, 0⟩
def Holdings.none_ : Holdings := ⟨[], [], [], []⟩
def Phase.outside : Phase :=
  { inPhase := false, arrived := false, ended := false, map := 0, used := 0, tOpen := 0, level := 0, counts := [],
    tsRow := none }

/-- A strand that has not started (R90, R94, R96, R100-R105, R132, R235). -/
def Strand.reset : Strand :=
  { run := .notStarted, trapped := false, pc := 0, preds := 0, priv := .user, eprivS := .user, eprivH := .user,
    fctl := 0, fflag := 0, shape := 0x1080, mask := 0xFFFF, spill := 0, bitbuf := 0, wgen := 0,
    domain := 0x1_0000_0000, gid := 0, loop0 := .reset, loop1 := .reset, loop2 := .reset, loop3 := .reset,
    pack0 := 0, pack1 := 0, pack2 := 0, pack3 := 0, wait := none, loads := [], phase := .outside,
    claim := .zero, hold := .none_, job := none, icache := [], early := [], late := false, points := [], known := [], seq := 0, birth := 0 }

/-- The slot of a granted plane (R192). -/
def MxaSlot.empty : MxaSlot := { loaded := false, ty := .i64, k := 0, weights := [] }

/-- A hinge-set slot at context creation (R357). -/
def HSlot.closed : HSlot :=
  { state := .closed, planp := false, savep := false, id := 0, block := 0, attr0 := 0, attr1 := 0, attr2 := 0, m0 := 0,
    nextTick := 0, nextPart := 0, none_ := 0xFFFF, part := 0, seen := [], hdisag := 0 }

/-- The LUT4 table at context creation: entry c holds c for c below 8 and c - 16 above (R73). -/
def lutReset : BitVec 128 := 0xFFFEFDFCFBFAF9F8_0706050403020100

/-- The state of a context on a core where it has never run (R87, R105, R236). -/
def CoreCtx.fresh : CoreCtx :=
  { strands := [], regs := [], tiles := [], tags := [], lut := lutReset, xconf := 0, vtime := 0, energy := 0,
    enstat := 0, slots := [], queue := [], held := [], kqueue := [], limbo := [], kept := [], xfers := [], hslots := [],
    inbox := [], switches := 0, perr := [], slot := 0 }

def Core.reset : Core :=
  { ctx := none, st := .away, live := .fresh, tlb := [], lastK := 3, fenced := false, asked := [] }

/-- The module right after reset. -/
def State.reset : State :=
  { time := 0, module_ := 0, feature2 := 0, mem := [], mmio := [], badUnits := [], poisoned := [], cores := [], clusterTlb := [], dieTlb := [],
    caches := [], owners := [], heads := [], spills := [], predict := [], contexts := [], saved := [], queues := [], kernels := [],
    domains := [], patience := [], heavy := [], firstQ := [], tslice := [], plans := [], net := [], reports := [],
    released := false, links := [], modules := [], lock := false, badEst := 0, lastFlit := 0, power := [], scans := [],
    booted := false, recovery := false, partsUp := [], parts := [], images := [], attests := [], hostWindows := [], nextId := 0,
    cur := ⟨0, 0⟩, agenda := [], freeCtr := 0 }

end Sys2Proof.Machine
end

