-- ==== Sys2Proof/Machine/Ops.lean ====
section
/-!
DEFINITION. The named operations every meaning is written over: finite maps, memory, cluster caches, cores, strands,
registers, predicates and tiles, retirement and energy, and taking a trap.
-/
namespace Sys2Proof.Machine

/-! ## Bits -/

/-- Bits [hi:lo] of a number, unsigned (R2, R5). -/
def field (v hi lo : Nat) : Nat := v / 2 ^ lo % 2 ^ (hi + 1 - lo)

/-- Bits [hi:lo] of a dword, unsigned. -/
def bits (w : Word) (hi lo : Nat) : Nat := field w.toNat hi lo

/-- Bit n of a dword. -/
def bit (w : Word) (n : Nat) : Bool := w.getLsbD n

/-- A dword with bits [hi:lo] replaced by the low bits of v. -/
def setBits (w : Word) (hi lo v : Nat) : Word :=
  let m := 2 ^ (hi + 1 - lo)
  BitVec.ofNat 64 (w.toNat - field w.toNat hi lo * 2 ^ lo + v % m * 2 ^ lo)

/-- A number from its bytes, the lowest first (R2). -/
def natOfBytes : List Byte → Nat
  | [] => 0
  | b :: t => b.toNat + 256 * natOfBytes t

/-- The low n bytes of a number, the lowest first. -/
def bytesOfNat : Nat → Nat → List Byte
  | 0, _ => []
  | n + 1, v => BitVec.ofNat 8 v :: bytesOfNat n (v / 256)

/-! ## Finite maps -/

/-- What a map holds at a key, or the default. -/
def AMap.get {β : Type} (d : β) (m : AMap β) (k : Nat) : β := (m.lookup k).getD d

/-- An entry put at its place in rising order; no entry of the key stands in the list. -/
def AMap.ins {β : Type} : AMap β → Nat → β → AMap β
  | [], k, v => [(k, v)]
  | e :: t, k, v => if e.1 < k then e :: AMap.ins t k v else (k, v) :: e :: t

/-- The map with a value at a key. -/
def AMap.put {β : Type} (m : AMap β) (k : Nat) (v : β) : AMap β :=
  AMap.ins (m.filter (fun e => !(e.1 == k))) k v

/-- The map without a key. -/
def AMap.del {β : Type} (m : AMap β) (k : Nat) : AMap β := m.filter (fun e => !(e.1 == k))

/-- The map with every listed value changed. -/
def AMap.mapVals {β : Type} (m : AMap β) (f : Nat → β → β) : AMap β := m.map (fun e => (e.1, f e.1 e.2))

/-! ## Memory: bytes at flat addresses, in one canonical form -/

/-- The canonical form: rising addresses, and no listed byte that an unlisted address reads as. -/
abbrev Memory.wf (m : List Host.Cell) : Prop :=
  m.Pairwise (fun a b => a.1 < b.1) ∧ ∀ c ∈ m, c.2 ≠ Config.unlistedByte

/-- The byte at an address. -/
def memByte (m : List Host.Cell) (a : Nat) : Byte := (m.lookup a).getD Config.unlistedByte

/-- The cell of an address put at its place. -/
def memIns : List Host.Cell → Nat → Byte → List Host.Cell
  | [], a, b => [(a, b)]
  | c :: t, a, b => if c.1 < a then c :: memIns t a b else (a, b) :: c :: t

/-- The memory with a byte written. -/
def memPut (m : List Host.Cell) (a : Nat) (b : Byte) : List Host.Cell :=
  let m' := m.filter (fun c => !(c.1 == a))
  if b = Config.unlistedByte then m' else memIns m' a b

/-- n bytes from an address, as a little-endian number (R2). -/
def memRead (m : List Host.Cell) (a : Nat) : Nat → Nat
  | 0 => 0
  | n + 1 => (memByte m a).toNat + 256 * memRead m (a + 1) n

/-- The low n bytes of a number written from an address on. -/
def memWrite (m : List Host.Cell) (a : Nat) : Nat → Nat → List Host.Cell
  | 0, _ => m
  | n + 1, v => memWrite (memPut m a (BitVec.ofNat 8 v)) (a + 1) n (v / 256)

/-- A list of bytes written from an address on. -/
def memWriteBytes (m : List Host.Cell) (a : Nat) : List Byte → List Host.Cell
  | [] => m
  | b :: t => memWriteBytes (memPut m a b) (a + 1) t

/-- The n bytes from src copied to dst: only listed bytes can differ from what an unlisted address reads as. -/
def memCopy (m : List Host.Cell) (src dst n : Nat) : List Host.Cell :=
  let moved := (m.filter (fun c => decide (src ≤ c.1 ∧ c.1 < src + n))).map (fun c => (c.1 - src + dst, c.2))
  let kept := m.filter (fun c => !decide (dst ≤ c.1 ∧ c.1 < dst + n))
  moved.foldl (fun acc c => memPut acc c.1 c.2) kept

/-- n bytes set to what an unlisted address reads as. -/
def memClear (m : List Host.Cell) (a n : Nat) : List Host.Cell :=
  m.filter (fun c => !decide (a ≤ c.1 ∧ c.1 < a + n))

/-- Flat address of a byte of host memory (R314). -/
def hostFlat (a : Nat) : Nat := 2 ^ 60 + a
/-- Flat address of a byte of a peer module's memory (R314). -/
def peerFlat (m a : Nat) : Nat := 2 ^ 64 * (1 + m) + a
/-- Flat address of a physical byte of a core's LM (R284). -/
def lmFlat (core off : Nat) : Nat := 2 ^ 90 + 2 ^ 20 * core + off

def State.read (s : State) (a n : Nat) : Nat := memRead s.mem a n
def State.readW (s : State) (a : Nat) : Word := BitVec.ofNat 64 (memRead s.mem a 8)
def State.write (s : State) (a n v : Nat) : State := { s with mem := memWrite s.mem a n v }

/-- A flat address of HBM: the physical range of R311. -/
def inHbm (a n : Nat) : Bool := decide (a + n ≤ Config.hbmBytes)

/-! ## Cores, clusters, dies (R4, R16-R18) -/

def coreX (c : Nat) : Nat := c % 256
def coreY (c : Nat) : Nat := c / 256
def coreAt (x y : Nat) : Nat := 256 * y + x
/-- Cluster number 16 y + x div 16. -/
def clusterOf (c : Nat) : Nat := 16 * coreY c + coreX c / 16
/-- Die number 4 (y div 64) + x div 64. -/
def dieOf (c : Nat) : Nat := 4 * (coreY c / 64) + coreX c / 64
/-- A core of the package mesh. -/
def isCore (c : Nat) : Bool := decide (c < 32768)

/-- A core in a rectangle in the format of bits [31:0] of R41. -/
def inRect (r : Nat) (c : Nat) : Bool :=
  decide (field r 7 0 ≤ coreX c ∧ coreX c ≤ field r 23 16 ∧ field r 15 8 ≤ coreY c ∧ coreY c ≤ field r 31 24)

/-- The cores of a rectangle, row by row. -/
def rectCores (r : Nat) : List Nat :=
  let w := field r 23 16 + 1 - field r 7 0
  let h := field r 31 24 + 1 - field r 15 8
  (List.range (w * h)).map (fun i => coreAt (field r 7 0 + i % w) (field r 15 8 + i / w))

/-- A rectangle in the format of bits [31:0] of R41. -/
def rectWord (x0 y0 x1 y1 : Nat) : Nat := x0 + 2 ^ 8 * y0 + 2 ^ 16 * x1 + 2 ^ 24 * y1

def State.core (s : State) (c : Nat) : Core := AMap.get Core.reset s.cores c
def State.setCore (s : State) (c : Nat) (v : Core) : State := { s with cores := AMap.put s.cores c v }
def State.live (s : State) (c : Nat) : CoreCtx := (s.core c).live
def State.setLive (s : State) (c : Nat) (v : CoreCtx) : State := s.setCore c { s.core c with live := v }
def CoreCtx.strand (l : CoreCtx) (n : Nat) : Strand := AMap.get Strand.reset l.strands n
def CoreCtx.setStrand (l : CoreCtx) (n : Nat) (v : Strand) : CoreCtx := { l with strands := AMap.put l.strands n v }
def State.strand (s : State) (w : Who) : Strand := (s.live w.core).strand w.strand
def State.setStrand (s : State) (w : Who) (v : Strand) : State :=
  s.setLive w.core ((s.live w.core).setStrand w.strand v)

/-! ## Contexts (R233) -/

def State.ctxRec (s : State) (c : Nat) : Ctx :=
  AMap.get { desc := 0, alive := false, ran := false, cores := [], binds := [], redone := [], image := [] } s.contexts c
/-- The dword of a context's descriptor at an offset. -/
def State.descW (s : State) (ctx off : Nat) : Word := s.readW ((s.ctxRec ctx).desc + off)
def State.ptroot (s : State) (ctx : Nat) : Nat := (s.descW ctx 0x08).toNat
def State.ctxPart (s : State) (ctx : Nat) : Nat := bits (s.descW ctx 0) 23 16
def State.ctxPrio (s : State) (ctx : Nat) : Nat := bits (s.descW ctx 0) 39 32
def State.ctxGang (s : State) (ctx : Nat) : Nat := bits (s.descW ctx 0) 63 48
/-- ALLOTd of a context. -/
def State.allot (s : State) (ctx d : Nat) : Nat := s.read ((s.ctxRec ctx).desc + 0x20 + 4 * d) 4
/-- A core of a context's allotment (R218, R233). -/
def State.inAllot (s : State) (ctx c : Nat) : Bool :=
  isCore c && (s.allot ctx (dieOf c) != 0xFFFFFFFF) && inRect (s.allot ctx (dieOf c)) c
/-- The state of a context on a core (R220). -/
def State.coreSt (s : State) (ctx c : Nat) : CoreSt := AMap.get .away (s.ctxRec ctx).cores c
/-- A context ACTIVE on a core. -/
def State.isActive (s : State) (ctx c : Nat) : Bool := s.coreSt ctx c == .active
/-- The context of the strands of a core. -/
def State.ctxOf (s : State) (c : Nat) : Nat := (s.core c).ctx.getD 0

/-! ## Scalar registers and predicates (R88-R90) -/

/-- The place 16 block + i of a register name, none for a register outside the blocks held (R32, R88, R283). -/
def Strand.regPlace (st : Strand) (n : Nat) (r : Reg) : Option Nat :=
  let j := r.toNat / 16
  let i := r.toNat % 16
  if j = 0 then some (16 * n + i) else (st.hold.reg[j - 1]?).map (fun b => 16 * b + i)

/-- A register as read: s0 reads zero (R89). -/
def State.reg (s : State) (w : Who) (r : Reg) : Word :=
  if r = 0 then 0
  else match (s.strand w).regPlace w.strand r with
    | some p => AMap.get 0 (s.live w.core).regs p
    | none => 0

/-- A register written: a write to s0 is discarded (R89). -/
def State.setReg (s : State) (w : Who) (r : Reg) (v : Word) : State :=
  if r = 0 then s
  else match (s.strand w).regPlace w.strand r with
    | some p => s.setLive w.core { s.live w.core with
        regs := AMap.put (s.live w.core).regs p v, perr := (s.live w.core).perr.filter (fun e => e != .reg p) }
    | none => s

/-- Registers r, r + 1, ... written with a list of dwords. -/
def State.setRegs (s : State) (w : Who) (r : Nat) : List Word → State
  | [] => s
  | v :: t => (s.setReg w (BitVec.ofNat 6 r) v).setRegs w (r + 1) t

/-- A predicate as read: p0 reads true (R90). -/
def Strand.pred (st : Strand) (p : Pred) : Bool := p == 0 || st.preds.getLsbD p.toNat

/-- A predicate written: a write to p0 is discarded (R90). -/
def State.setPred (s : State) (w : Who) (p : Pred) (v : Bool) : State :=
  if p = 0 then s
  else
    let st := s.strand w
    let m : BitVec 8 := 1 <<< p.toNat
    s.setStrand w { st with preds := if v then st.preds ||| m else st.preds &&& ~~~m }

/-- The guard of an instruction (R35). -/
def Strand.guard (st : Strand) (f : Form) : Bool := (st.pred f.pg).xor f.pn

/-! ## Tiles (R91-R93) -/

/-- The pool tile bound to a name (R91, R283). -/
def Strand.poolTile (st : Strand) (t : Tile) : Option Nat := st.hold.tile[t.toNat]?
def CoreCtx.tileRow (l : CoreCtx) (pt i : Nat) : Row := AMap.get 0 l.tiles (16 * pt + i)
def CoreCtx.setTileRow (l : CoreCtx) (pt i : Nat) (v : Row) : CoreCtx :=
  { l with tiles := AMap.put l.tiles (16 * pt + i) v }
def CoreCtx.tag (l : CoreCtx) (pt : Nat) : BitVec 32 := AMap.get 0 l.tags pt
def CoreCtx.setTag (l : CoreCtx) (pt : Nat) (v : BitVec 32) : CoreCtx := { l with tags := AMap.put l.tags pt v }

/-- RL of a pool tile: an issued matrix operation has still to read it (R93, R198). One that has started has read its tiles. -/
def CoreCtx.rl (l : CoreCtx) (pt : Nat) : Bool := l.queue.any (fun o => !o.started && (o.a == some pt || o.c == some pt))
/-- WL of a pool tile: an issued matrix operation has still to write it (R93, R198). -/
def CoreCtx.wl (l : CoreCtx) (pt : Nat) : Bool := l.queue.any (fun o => o.d == some pt)

/-- The sixteen rows of a tile. -/
abbrev Rows := List Row

/-- The rows of the tile bound to a name; zeros for an unbound name, which no instruction reaches (R32). -/
def State.tile (s : State) (w : Who) (t : Tile) : Rows :=
  match (s.strand w).poolTile t with
  | some pt => (List.range 16).map ((s.live w.core).tileRow pt)
  | none => List.replicate 16 0

/-- Rows i, i + 1, ... of a pool tile written. -/
def CoreCtx.setRows (l : CoreCtx) (pt i : Nat) : Rows → CoreCtx
  | [] => l
  | v :: t => (l.setTileRow pt i v).setRows pt (i + 1) t

/-- A tile written whole, with a tag (R92). -/
def State.setTile (s : State) (w : Who) (t : Tile) (rows : Rows) (tag : BitVec 32) : State :=
  match (s.strand w).poolTile t with
  | some pt => s.setLive w.core (((s.live w.core).setRows pt 0 rows).setTag pt tag)
  | none => s

/-- Row i of a list of rows. -/
def Rows.row (t : Rows) (i : Nat) : Row := t.getD i 0

/-! ## The fields of the tile control registers (R94) -/

def Strand.rows (st : Strand) : Nat := bits st.shape 15 8
def Strand.cols (st : Strand) : Nat := bits st.shape 7 0
/-- A row i that SHAPE.ROWS and MASK make active. -/
def Strand.rowActive (st : Strand) (i : Nat) : Bool := decide (i < st.rows) && st.mask.getLsbD i

/-! ## Energy, loops and retirement -/

/-- The largest value of ENERGY.EU (R109). -/
def energyMax : Nat := 2 ^ 48 - 1

/-- A charge to the context of a core (R109). -/
def CoreCtx.charge (l : CoreCtx) (eu : Nat) : CoreCtx :=
  if l.energy.toNat + eu ≤ energyMax then { l with energy := BitVec.ofNat 64 (l.energy.toNat + eu) }
  else { l with energy := BitVec.ofNat 64 energyMax, enstat := 1 }

/-- One level of LoopStep (R102): none where the level is not concerned; else the level after the step, with the new PC
where it jumps back. -/
def loopLevel (r : LoopRegs) (a : Word) : Option (LoopRegs × Option Word) :=
  if r.count ≠ 0 ∧ r.stop = a then
    if r.count.toNat > 1 then some ({ r with count := r.count - 1 }, some r.start)
    else some ({ r with count := 0 }, none)
  else none

/-- LoopStep (R102): levels 3 down to 0, ending at the first that jumps back. -/
def Strand.loopStep (st : Strand) (a : Word) : Strand :=
  let st3 := match loopLevel st.loop3 a with
    | some (r, j) => ({ st with loop3 := r }, j)
    | none => (st, none)
  match st3 with
  | (t, some pc) => { t with pc := pc }
  | (t, none) =>
    match (match loopLevel t.loop2 a with
      | some (r, j) => ({ t with loop2 := r }, j)
      | none => (t, none)) with
    | (t, some pc) => { t with pc := pc }
    | (t, none) =>
      match (match loopLevel t.loop1 a with
        | some (r, j) => ({ t with loop1 := r }, j)
        | none => (t, none)) with
      | (t, some pc) => { t with pc := pc }
      | (t, none) =>
        match loopLevel t.loop0 a with
        | some (r, some pc) => { t with loop0 := r, pc := pc }
        | some (r, none) => { t with loop0 := r }
        | none => t

/-- An instruction retires: PC moves past it, its energy is charged, and LoopStep acts (R6, R102, R109). -/
def State.retire (s : State) (w : Who) (len eu : Nat) : State :=
  let c := s.core w.core
  let st := c.live.strand w.strand
  let st' := ({ st with pc := st.pc + BitVec.ofNat 64 len, wait := none }).loopStep st.pc
  s.setCore w.core { c with live := (c.live.setStrand w.strand st').charge eu, lastK := w.strand }

/-- An instruction that writes the PC retires: LoopStep does nothing (R102). -/
def State.jumpTo (s : State) (w : Who) (pc : Word) (eu : Nat) : State :=
  let c := s.core w.core
  let st := c.live.strand w.strand
  s.setCore w.core
    { c with live := (c.live.setStrand w.strand { st with pc := pc, wait := none }).charge eu, lastK := w.strand }

/-- The last strand that issued on a core is set (R111): an instruction that retires by a step of its own issued before. -/
def State.keepLast (s : State) (w : Who) (k : Nat) : State := s.setCore w.core { s.core w.core with lastK := k }

/-- An instruction that has waited retires (R6): the strand that issued last stays the one it was. While the context is not
ACTIVE on the core nothing is charged (R225, R238). -/
def State.finish (s : State) (w : Who) (len eu : Nat) : State :=
  (s.retire w len (if (s.core w.core).st = .active then eu else 0)).keepLast w (s.core w.core).lastK

/-- A strand waits: its instruction has issued and does not retire now (R111, R271). -/
def State.waiting (s : State) (w : Who) (v : Wait) : State :=
  let c := s.core w.core
  let st := c.live.strand w.strand
  s.setCore w.core { c with live := c.live.setStrand w.strand { st with wait := some v }, lastK := w.strand }

/-! ## Control registers (R415) -/

def mmioBase : Nat := 0xF_0000_0000_0000
/-- The control block of die d. -/
def dieBlock (d : Nat) : Nat := mmioBase + 0x1_0000_0000 * d
def moduleBlock : Nat := 0xF_0008_0000_0000

/-- Reset values of the control registers that have one other than 0 (R246, R411, R406, R416, R342). -/
def mmioReset (pa : Nat) : Word :=
  if pa < dieBlock 8 then
    let o := (pa - mmioBase) % 0x1_0000_0000
    if o = 0x0 then 50000 else if o = 0x8 then 50 else if o = 0x10 then 31250
    else if 0x10_0000 ≤ o ∧ o < 0x14_0000 then
      (if o % 0x40 = 0x8 ∨ o % 0x40 = 0x18 then 2 else 0)
    else if 0x20_0000 ≤ o ∧ o < 0x20_4000 then
      (if o % 0x40 = 0x28 ∨ o % 0x40 = 0x38 then 850 else 0)
    else 0
  else if pa = moduleBlock then 10000000 else 0

/-- A control register. -/
def State.ctl (s : State) (pa : Nat) : Word := AMap.get (mmioReset pa) s.mmio pa
def State.setCtl (s : State) (pa : Nat) (v : Word) : State := { s with mmio := AMap.put s.mmio pa v }

/-- TVEC and TREC of a partition at a level, 0 for supervisor and 1 for hypervisor, in a die's block (R404, R415). -/
def State.tvec (s : State) (die part l : Nat) : Word := s.ctl (dieBlock die + 0x1000 + 0x10 * (2 * part + l))
def State.trec (s : State) (die part l : Nat) : Word := s.ctl (dieBlock die + 0x1008 + 0x10 * (2 * part + l))

/-! ## Cluster caches (R153, R213) -/

def State.cache (s : State) (cl : Nat) : AMap Line := AMap.get [] s.caches cl
def State.line (s : State) (cl ln : Nat) : Option Line := (s.cache cl).lookup ln
def State.setLine (s : State) (cl ln : Nat) (v : Line) : State :=
  { s with caches := AMap.put s.caches cl (AMap.put (s.cache cl) ln v) }
def State.delLine (s : State) (cl ln : Nat) : State :=
  { s with caches := AMap.put s.caches cl (AMap.del (s.cache cl) ln) }

/-- Bytes lo to lo + n - 1 of a line, as a number. -/
def lineBytes (d : BitVec 512) (lo n : Nat) : Nat := d.toNat / 2 ^ (8 * lo) % 2 ^ (8 * n)
/-- A line with bytes lo to lo + n - 1 replaced. -/
def linePatch (d : BitVec 512) (lo n v : Nat) : BitVec 512 :=
  BitVec.ofNat 512 (d.toNat - lineBytes d lo n * 2 ^ (8 * lo) + v % 2 ^ (8 * n) * 2 ^ (8 * lo))

/-- The listed bytes of a line written to memory: those whose dirty bit is set. -/
def writeDirty (m : List Host.Cell) (base : Nat) (l : Line) : Nat → List Host.Cell
  | 0 => m
  | n + 1 =>
    let m' := writeDirty m base l n
    if l.dirty.getLsbD n then memPut m' (base + n) (BitVec.ofNat 8 (lineBytes l.data n 1)) else m'

/-- The release points of bytes with a value that belongs to the sequences of some of them and, after an atomic (`keep`), to those it
belonged to (R150). -/
def putHeads (m : AMap (List Nat)) (ids : List Nat) (keep : Bool) (a : Nat) : Nat → AMap (List Nat)
  | 0 => m
  | n + 1 =>
    let new := (ids ++ if keep then AMap.get [] m a else []).eraseDups
    putHeads (if new = [] then AMap.del m a else AMap.put m a new) ids keep (a + 1) n

/-- The same for n bytes at a home. -/
def State.setHeads (s : State) (ids : List Nat) (keep : Bool) (flat n : Nat) : State :=
  if ids = [] ∧ s.heads = [] then s else { s with heads := putHeads s.heads ids keep flat n }

/-- The release points of the bytes of a line at its home, by their place in it. -/
def State.homeHeads (s : State) (ln : Nat) : AMap (List Nat) :=
  if s.heads = [] then []
  else ((List.range 64).map (fun k => (k, AMap.get [] s.heads (64 * ln + k)))).filter (fun h => !h.2.isEmpty)

/-- The written bytes of a line bring their release points home. -/
def backHeads (m : AMap (List Nat)) (base : Nat) (l : Line) : Nat → AMap (List Nat)
  | 0 => m
  | n + 1 =>
    let m' := backHeads m base l n
    if l.dirty.getLsbD n then putHeads m' (AMap.get [] l.heads n) false (base + n) 1 else m'

/-- A line written back to its home, and clean from then on; a line with an uncorrectable error arrives poisoned (R407), and one written
whole clears an error of its home (R408). -/
def State.writeBack (s : State) (cl ln : Nat) : State :=
  match s.line cl ln with
  | some l =>
    if l.dirty = 0 then s
    else
      let s1 : State := { s with
        mem := writeDirty s.mem (64 * ln) l 64
        heads := if s.heads = [] ∧ l.heads = [] then s.heads else backHeads s.heads (64 * ln) l 64 }
      let s2 : State :=
        if l.bad then { s1 with poisoned := (64 * ln) :: s1.poisoned }
        else if l.dirty = BitVec.allOnes 64 then { s1 with
          badUnits := s1.badUnits.filter (· != 64 * ln), poisoned := s1.poisoned.filter (· != 64 * ln) }
        else s1
      s2.setLine cl ln { l with dirty := 0, vias := [] }
  | none => s

/-- A line dropped, its written bytes written back first (R151). -/
def State.dropLine (s : State) (cl ln : Nat) : State := (s.writeBack cl ln).delLine cl ln

/-- The line that a full cache drops to make room for another: which one the spec leaves open (R17, assumption 51). -/
def State.victim (s : State) (cl : Nat) : Option Nat :=
  let c := s.cache cl
  if c.length < Config.cacheLines then none else ((c.drop (Config.evictChoice s.freeCtr % c.length)).head?).map (·.1)

/-- Room for a new line. -/
def State.makeRoom (s : State) (cl : Nat) : State :=
  match s.victim cl with
  | some ln => { s.dropLine cl ln with freeCtr := s.freeCtr + 1 }
  | none => s

/-- A line as it comes from its home: in error where its home is (R407). -/
def State.fetchLine (s : State) (ln : Nat) : Line :=
  { data := BitVec.ofNat 512 (s.read (64 * ln) 64), dirty := 0, bad := s.badUnits.contains (64 * ln) || s.poisoned.contains (64 * ln)
    heads := s.homeHeads ln, vias := [] }

/-- A line held by a cluster cache, fetched where it is not. -/
def State.holdLine (s : State) (cl ln : Nat) : State :=
  match s.line cl ln with
  | some _ => s
  | none => let s1 := s.makeRoom cl; s1.setLine cl ln (s1.fetchLine ln)

/-- A read through the cluster cache: the number read, and the state with the line held. -/
def State.cachedRead (s : State) (cl flat n : Nat) : Nat × State :=
  let s1 := s.holdLine cl (flat / 64)
  (lineBytes ((s1.line cl (flat / 64)).getD (s1.fetchLine (flat / 64))).data (flat % 64) n, s1)

/-- A write into the cluster cache, through a virtual line, of a value that belongs to the sequences of some release points (R150). One of
the whole line replaces what was in error (R408). -/
def State.cachedWrite (s : State) (cl flat n v : Nat) (ids : List Nat := []) (via : Via := none) : State :=
  let m : BitVec 64 := BitVec.ofNat 64 ((2 ^ n - 1) * 2 ^ (flat % 64))
  let s1 := s.holdLine cl (flat / 64)
  let l := (s1.line cl (flat / 64)).getD (s1.fetchLine (flat / 64))
  s1.setLine cl (flat / 64) {
    data := linePatch l.data (flat % 64) n v, dirty := l.dirty ||| m, bad := l.bad && m != BitVec.allOnes 64
    heads := if ids = [] ∧ l.heads = [] then [] else putHeads l.heads ids false (flat % 64) n
    vias := if l.vias.contains via then l.vias else via :: l.vias }

/-- A byte as a strand of a cluster would read it now, without holding the line. -/
def State.peekByte (s : State) (cl flat : Nat) : Byte :=
  match s.line cl (flat / 64) with
  | some l => BitVec.ofNat 8 (lineBytes l.data (flat % 64) 1)
  | none => memByte s.mem flat

/-- A write that performs at the home of HBM or of host memory, seen also in the writer's own cluster cache. -/
def State.homeWrite (s : State) (cl flat n v : Nat) : State :=
  let s1 := (s.write flat n v).setHeads [] false flat n
  match s1.line cl (flat / 64) with
  | some l => s1.setLine cl (flat / 64) { l with
      data := linePatch l.data (flat % 64) n v, heads := if l.heads = [] then [] else putHeads l.heads [] false (flat % 64) n }
  | none => s1

/-! ## Early readings (R209-R213)

A strand may have read a line early: until it takes the line in, its plain loads through that virtual line return what it read then. -/

/-- Every strand's early readings changed. -/
def State.mapEarly (s : State) (f : Who → Strand → AMap Early) : State :=
  if s.cores.all (fun c => c.2.live.strands.all (fun e => e.2.early == [])) then s
  else { s with cores := AMap.mapVals s.cores (fun c core =>
    { core with live := { core.live with strands := AMap.mapVals core.live.strands (fun n st =>
        { st with early := f ⟨c, n⟩ st }) } }) }

/-- An early reading of a line that n bytes touch. -/
def touches (flat n : Nat) (e : Nat × Early) : Bool := decide (flat < 64 * e.1 + 64 ∧ 64 * e.1 < flat + n)

/-- No strand returns an early reading of a range from here on. -/
def State.forgetRange (s : State) (lo n : Nat) : State := s.mapEarly (fun _ st => st.early.filter (fun e => !touches lo n e))

/-- A strand's early readings that a test keeps. -/
def State.keepEarly (s : State) (w : Who) (keep : Nat × Early → Bool) : State :=
  let st := s.strand w
  if st.early = [] then s else s.setStrand w { st with early := st.early.filter keep }

/-- A strand's own access at memory ends its early readings of the lines it touches. -/
def State.forget (s : State) (w : Who) (flat n : Nat) : State := s.keepEarly w (fun e => !touches flat n e)

/-- A write stands behind one party more. -/
def Early.behind (e : Early) (b : Behind) : Early := if e.carry.contains b then e else { e with carry := b :: e.carry }

/-- A write by the party of a start through a virtual line: the early readings of the line by others miss it. -/
def State.missed (s : State) (b : Nat) (via : Via) (flat n : Nat) : State :=
  s.mapEarly (fun _ st => if st.birth = b then st.early else st.early.map (fun e =>
    if touches flat n e then (e.1, e.2.behind ⟨b, via⟩) else e))

/-- The virtual line of an address of a strand's context (R168). -/
def State.via (s : State) (w : Who) (va : Word) : Via := some (s.ctxOf w.core, va.toNat / 64)

/-! ## Storage units (R407) -/

/-- A flat address of LM. -/
def isLm (flat : Nat) : Bool := decide (2 ^ 90 ≤ flat)
/-- A flat address of HBM. -/
def isHbm (flat : Nat) : Bool := decide (flat < Config.hbmBytes)
/-- The core of a flat LM address. -/
def lmCore (flat : Nat) : Nat := (flat - 2 ^ 90) / 2 ^ 20
/-- The protected unit of an address: a 64-byte line, or an 8-byte LM word. -/
def unitOf (flat : Nat) : Nat := if isLm flat then flat / 8 * 8 else flat / 64 * 64
/-- The units that n bytes from an address touch. -/
def unitsOf (flat n : Nat) : List Nat :=
  let k := if isLm flat then 8 else 64
  (List.range ((unitOf (flat + n - 1) - unitOf flat) / k + 1)).map (fun i => unitOf flat + k * i)

/-- The CAUSE a read of n bytes meets at their home: of the first unit in error (R407, R408). -/
def State.homeCause (s : State) (flat n : Nat) : Option Nat :=
  if s.badUnits = [] ∧ s.poisoned = [] then none
  else (unitsOf flat n).findSome? (fun u =>
    if s.poisoned.contains u then some 31 else if s.badUnits.contains u then some (if isLm u then 27 else 28) else none)

/-- An HBM line in error is poisoned once it is read (R407). -/
def State.poisonRead (s : State) (flat n : Nat) : State :=
  if isLm flat then s
  else { s with poisoned := (unitsOf flat n).filter (fun u => s.badUnits.contains u) ++ s.poisoned,
                badUnits := s.badUnits.filter (fun u => !(unitsOf flat n).contains u) }

/-! ## Traps (R403-R405) -/

/-- The traps, by TCODE (R403). -/
inductive TCode where
  | illop | priv | align | page | access | claim | witness | slot | hinge | fpe | ecc | break_ | watch
  deriving DecidableEq, Repr

def TCode.num : TCode → Nat
  | .illop => 1 | .priv => 2 | .align => 3 | .page => 4 | .access => 5 | .claim => 6 | .witness => 7 | .slot => 8
  | .hinge => 9 | .fpe => 10 | .ecc => 11 | .break_ => 12 | .watch => 13

/-- What a trap puts into its record (R317, R405); fields that do not apply are 0. -/
structure Trap where
  code  : TCode
  cause : Nat := 0
  va    : Word := 0
  kind  : Nat := 0
  level : Nat := 0
  entry : Word := 0
  info  : Nat := 0
  prog1 : Word := 0
  prog2 : Word := 0
  /-- The bytes whose read met the error of an ECC trap; 0 bytes where nothing is to be poisoned (R407). -/
  hurt  : Nat × Nat := (0, 0)
  deriving DecidableEq, Repr

/-- ILLOP, with no CAUSE. -/
def Trap.illop : Trap := { code := .illop }
/-- ALIGN at an address; KIND names the access that a load, store, atomic or barrier would make (R317). -/
def Trap.align (va : Word) (kind : Nat := 0) : Trap := { code := .align, va := va, kind := kind }
def Trap.access (cause : Nat) (va : Word) : Trap := { code := .access, cause := cause, va := va }

/-- The privilege codes of R235 and R405. -/
def privCode : Priv → Nat
  | .user => 0 | .sv => 1 | .hv => 2

/-- The level a trap or sys enters: one above the privilege held, hypervisor at the top (R404). -/
def privUp : Priv → Priv
  | .user => .sv | .sv => .hv | .hv => .hv

/-- The fault record of R317 as a number of 64 bytes. `eng` and `eslot` are 0 for a strand's own trap. -/
def faultRecord (t : Trap) (pc : Word) (ctx core strand eng eslot : Nat) : BitVec 512 :=
  BitVec.ofNat 512
    (t.va.toNat + 2 ^ 64 * pc.toNat
      + 2 ^ 128 * (2 ^ 56 * t.cause + 2 ^ 48 * t.kind + 2 ^ 45 * t.level + 2 ^ 44 * eng + 2 ^ 42 * strand + 2 ^ 40 * eslot)
      + 2 ^ 192 * (2 ^ 32 * ctx + core)
      + 2 ^ 256 * t.entry.toNat + 2 ^ 320 * t.prog1.toNat + 2 ^ 384 * t.prog2.toNat)

/-- The second half of a trap record (R405). -/
def trapTail (tcode held info : Nat) (nextpc : Word) : BitVec 512 :=
  BitVec.ofNat 512 (2 ^ 56 * tcode + 2 ^ 54 * held + info % 2 ^ 32 + 2 ^ 64 * nextpc.toNat)

/-- What the core writes for a strand at home: it has no older reading of those bytes, and those of others miss it. -/
def State.wroteHome (s : State) (w : Who) (flat n : Nat) : State := (s.forget w flat n).missed (s.strand w).birth none flat n

/-- The 128 bytes of a trap record written at a physical address (R405); a record outside HBM lies at no memory and is lost
(R311, assumption 52). -/
def State.putRecord (s : State) (w : Who) (at_ : Nat) (head tail : BitVec 512) : State :=
  let cl := clusterOf w.core
  if inHbm at_ 128 then ((s.homeWrite cl at_ 64 head.toNat).homeWrite cl (at_ + 64) 64 tail.toNat).wroteHome w at_ 128 else s

/-- Entry into the level above (R404, R132): the record is written at TREC, the level's return privilege takes the
privilege held, and the strand goes to TVEC + 0x40 s, or to TVEC + 0x100 + 0x40 s for sys. Only a trap enters TRAPPED. -/
def State.enter (s : State) (w : Who) (t : Trap) (tcode : Nat) (pc nextpc : Word) (isSys : Bool) : State :=
  let st := s.strand w
  let up := privUp st.priv
  let l := if up = .hv then 1 else 0
  let ctx := s.ctxOf w.core
  let die := dieOf w.core
  let part := s.ctxPart ctx
  let at_ := (s.trec die part l).toNat + 0x200 * w.core + 0x80 * w.strand
  let s1 := s.putRecord w at_ (faultRecord t pc ctx w.core w.strand 0 0) (trapTail tcode (privCode st.priv) t.info nextpc)
  let target := s.tvec die part l + BitVec.ofNat 64 ((if isSys then 0x100 else 0) + 0x40 * w.strand)
  s1.setStrand w { s1.strand w with
    priv := up
    eprivS := if up = .sv then st.priv else st.eprivS
    eprivH := if up = .hv then st.priv else st.eprivH
    pc := target
    wait := none
    trapped := if isSys then st.trapped else true }

/-- Taking a trap: the one entry every trapping instruction uses. The instruction has no effect and charges nothing. -/
def State.takeTrap (s : State) (w : Who) (t : Trap) (pc nextpc : Word) : Host.Outcome State Fault Refusal :=
  let s1 := if t.hurt.2 = 0 then s else s.poisonRead t.hurt.1 t.hurt.2
  .next (s1.enter w t t.code.num pc nextpc false)

/-- The return from a handler (R132): PC, privilege, and TRAPPED left. -/
def State.returnTo (s : State) (w : Who) (pc : Word) (p : Priv) : State :=
  s.setStrand w { s.strand w with pc := pc, priv := p, trapped := false }

end Sys2Proof.Machine
end

