-- ==== Sys2Proof/Machine/Operands.lean ====
section
/-!
DEFINITION. Operand forms (R31-R41): what an operand names, the checks of steps 4 to 6 of R48 that concern operands, the
readiness of R111 and the lock bits of R93, and the frame in which every instruction runs (`runInstr`).
-/
namespace Sys2Proof.Machine

/-- What an instruction needs of its operands before it runs. -/
inductive Opnd where
  /-- A scalar register that is read, or written (R32, R111). -/
  | src (r : Reg)
  | dst (r : Reg)
  /-- A tile that is read, or written: the lock bits hold the instruction back (R93). -/
  | tsrc (t : Tile)
  | tdst (t : Tile)
  /-- A tile of which some rows are read. -/
  | tpart (t : Tile) (rows : List Nat)
  /-- A tile every bit of which is written (R407). -/
  | twhole (t : Tile)
  /-- A tile that a matrix instruction names: it never waits on lock bits (R93). -/
  | tname (t : Tile)
  /-- A matrix slot (R192). -/
  | slot (n : Bool)
  /-- A scope register, field 0 being package scope (R41). -/
  | scope (e : Reg)
  /-- Predicates are read (R407). -/
  | preds
  /-- A status register is read (R407). -/
  | status (sel : Nat)
  /-- System privilege (step 4 of R48). -/
  | sys
  /-- A unit of FEATURE2 (R107). -/
  | feat (n : Nat)
  /-- Memory is accessed: an acquire that has not read holds the instruction back (R149, R167). -/
  | mem
  /-- A place in the matrix array's queue (R196), a free xfer record (R324). -/
  | mxq
  | xfq
  deriving DecidableEq, Repr

/-- A register name the strand holds (R32, R88). -/
def Strand.holds (st : Strand) (r : Reg) : Bool := decide (r.toNat / 16 ≤ st.hold.reg.length)

/-! ## Scopes (R41) -/

/-- The scope a register's value names; none where R41 traps. -/
def decodeScope (v : Word) : Option Scope :=
  if bit v 63 then some .pod
  else if bits v 62 32 ≠ 0 then none
  else
    let r := bits v 31 0
    if r = 0 then some .own
    else if r = 0xFFFFFFFF then some .package
    else if field r 7 0 > field r 23 16 ∨ field r 15 8 > field r 31 24 ∨ field r 31 24 > 127 then none
    else some (.rect r)

/-- The scope of a scope field: 0 is package scope. -/
def State.scope (s : State) (w : Who) (e : Reg) : Option Scope :=
  if e = 0 then some .package else decodeScope (s.reg w e)

/-- The name, among cores, of a core of another module: only pod scope holds it (R212). -/
def farCore (m : Nat) : Nat := 2 ^ 20 + m

/-- A core inside a scope; the executing core always is. -/
def Scope.has (sc : Scope) (own c : Nat) : Bool :=
  c == own || match sc with
    | .pod => true
    | .package => isCore c
    | .own => false
    | .rect r => inRect r c

/-! ## Checks -/

def privTrap (s : State) (w : Who) : Opnd → Option Trap
  | .sys => if (s.strand w).priv = .user then some { code := .priv } else none
  | _ => none

/-- Step 5 of R48: operands the strand does not hold, and scope values. -/
def heldTrap (s : State) (w : Who) : Opnd → Option Trap
  | .src r | .dst r => if (s.strand w).holds r then none else some .illop
  | .tsrc t | .tpart t _ | .tdst t | .tname t => if t.toNat < (s.strand w).hold.tile.length then none else some .illop
  | .slot n => if n.toNat < (s.strand w).hold.mxs.length then none else some .illop
  | .scope e =>
    if e = 0 then none
    else if (s.strand w).holds e then (if (s.scope w e).isSome then none else some .illop)
    else some .illop
  | _ => none

/-- FEATURE2 (R107), at step 6. -/
def featTrap (s : State) : Opnd → Option Trap
  | .feat n => if s.feature2.getLsbD n then none else some .illop
  | _ => none

/-- A parity error of a pool tile, in any of its rows. -/
def CoreCtx.tileBad (l : CoreCtx) (pt : Nat) : Bool :=
  l.perr.any (fun e => match e with
    | .tile t _ => t == pt
    | _ => false)

/-- Selectors whose register the strands of a core share: TIME, VTIME, ENERGY, ENSTAT, HMASSn, HDISAGn, XCONF, CORE and the constants of
the part (R47, R105). -/
def sharedStatus (sel : Nat) : Bool := decide (0x13 ≤ sel ∧ sel ≤ 0x1E) || sel == 0x23 || sel == 0x25 || decide (0x27 ≤ sel)

/-- An error in the status register that a selector names for a strand. -/
def PErr.inStatus (e : PErr) (strand sel : Nat) : Bool :=
  match e with
  | .status k n => n == sel && (k == strand || sharedStatus sel)
  | _ => false

/-- The storage that an operand reads has an uncorrectable parity error (R9, R407). LoopStep is no reading by the instruction
(assumption 19). -/
def parityBad (s : State) (w : Who) : Opnd → Bool
  | .src r => regBad r
  | .scope e => e != 0 && regBad e
  | .tsrc t =>
    match (s.strand w).poolTile t with
    | some pt => (s.live w.core).tileBad pt
    | none => false
  | .tpart t rows =>
    match (s.strand w).poolTile t with
    | some pt => rows.any (fun r => (s.live w.core).perr.contains (.tile pt r))
    | none => false
  | .preds => (s.live w.core).perr.contains (.pred w.strand)
  | .status n => (s.live w.core).perr.any (·.inStatus w.strand n)
  | _ => false
where
  regBad (r : Reg) : Bool :=
    match (s.strand w).regPlace w.strand r with
    | some p => (s.live w.core).perr.contains (.reg p)
    | none => false

/-- The trap of an uncorrectable parity error in what is read (R9, R407). -/
def parityTrap (s : State) (w : Who) (o : Opnd) : Option Trap :=
  if parityBad s w o then some { code := .ecc, cause := 30 } else none

/-- The first trap of steps 4 to 6 that concerns the operands (R48). -/
def State.opTrap (s : State) (w : Who) (ops : List Opnd) : Option Trap :=
  match ops.findSome? (privTrap s w) with
  | some t => some t
  | none =>
    match ops.findSome? (heldTrap s w) with
    | some t => some t
    | none =>
      match ops.findSome? (featTrap s) with
      | some t => some t
      | none => if (s.live w.core).perr = [] then none else ops.findSome? (parityTrap s w)

/-- A register that a load's data is to be written to. -/
def PLoad.writes (l : PLoad) (r : Reg) : Bool := decide (l.d.toNat ≤ r.toNat ∧ r.toNat < l.d.toNat + max 1 l.n)

/-- A register that waits for a load's data (R111, R147). -/
def Strand.pendingReg (st : Strand) (r : Reg) : Bool := r != 0 && st.loads.any (fun l => l.writes r)

/-- What holds one operand back (R93, R111, R196, R324). -/
def opReady (s : State) (w : Who) (o : Opnd) : Bool :=
  let st := s.strand w
  let l := s.live w.core
  match o with
  | .src r | .dst r | .scope r => !st.pendingReg r
  | .tsrc t | .tpart t _ => (match st.poolTile t with | some pt => !l.wl pt | none => true)
  | .tdst t => (match st.poolTile t with | some pt => !l.wl pt && !l.rl pt | none => true)
  | .mem => st.loads.all (fun p => p.acq.isNone)
  | .mxq => decide (l.queue.length < 8)
  | .xfq => (List.range 4).any (fun i => (AMap.get none l.xfers i).isNone)
  | _ => true

/-- Every operand holds what the strand's earlier instructions left, and no lock bit stands in the way. -/
def State.opsReady (s : State) (w : Who) (ops : List Opnd) : Bool := ops.all (opReady s w)

/-- The tiles an instruction writes whole lose their parity errors (R407). -/
def State.clearErrs (s : State) (w : Who) (ops : List Opnd) : State :=
  if (s.live w.core).perr = [] then s
  else
    let st := s.strand w
    let gone (e : PErr) : Bool := ops.any (fun o => match o, e with
      | .twhole t, .tile p _ => st.poolTile t == some p
      | _, _ => false)
    s.setLive w.core { s.live w.core with perr := (s.live w.core).perr.filter (fun e => !gone e) }

/-- A status register written whole loses its parity error (R407). -/
def State.clearStatus (s : State) (w : Who) (sel : Nat) : State :=
  if (s.live w.core).perr = [] then s
  else s.setLive w.core { s.live w.core with perr := (s.live w.core).perr.filter (fun e => !e.inStatus w.strand sel) }

/-! ## The frame of every instruction (R6, R7, R48) -/

/-- How the body of an instruction ends: it retires with its energy, it retires having written the PC, it retires into
the system-call entry with a code, or it has issued and waits. -/
inductive Ans where
  | retire (s : State) (eu : Nat)
  | jump (s : State) (pc : Word) (eu : Nat)
  | sysEntry (s : State) (code eu : Nat)
  | hold (s : State)

/-- The strand of an instruction becomes the last that issued (R111). -/
def issued (w : Who) : Host.Outcome State Fault Refusal → Host.Outcome State Fault Refusal
  | .next s => .next (s.keepLast w w.strand)
  | o => o

/-- The trap of an instruction that has issued. -/
def State.trapNow (s : State) (w : Who) (t : Trap) (pc nextpc : Word) : Host.Outcome State Fault Refusal :=
  issued w (s.takeTrap w t pc nextpc)

/-- The kind of wait of an operand that is not ready (R235, R271): lock bits, a full queue of the matrix array or of xfer records,
or the data of a remote load. -/
def opWait (s : State) (w : Who) : Opnd → WaitKind
  | .tsrc _ | .tpart _ _ | .tdst _ => .lockBits
  | .mxq => .mxaFull
  | .xfq => .xferFull
  | .src r | .dst r | .scope r =>
    if (s.strand w).loads.any (fun l => l.pkt.isSome && l.writes r) then .remote else .operand
  | .mem => if (s.strand w).loads.any (fun l => l.pkt.isSome && l.acq.isSome) then .remote else .operand
  | _ => .operand

/-- The record of a wait of the current instruction. -/
def mkWait (kind : WaitKind) (retry : Bool) (len eu : Nat) : Wait :=
  { kind := kind, retry := retry, woken := false, len := len, eu := eu, d := 0, deadline := 0, obj := 0, flat := 0, gen := 0, acq := none }

/-- A strand whose next instruction issues again once something has happened; the last strand that issued stays the one it
was. -/
def State.heldOff (s : State) (w : Who) (k : WaitKind) : State :=
  s.setStrand w { s.strand w with wait := some (mkWait k true 0 0) }

/-- A strand that is not ready (R111), for the first of its operands that is not. -/
def State.notReady (s : State) (w : Who) (ops : List Opnd) : State :=
  s.heldOff w (match ops.find? (fun o => !opReady s w o) with
    | some o => opWait s w o
    | none => .operand)

/-- An instruction at the PC of the current strand: a guard that reads false only moves the PC (R7); an operand that is
not ready holds it back (R111, R93); then the checks of steps 4 to 6 (R48), and its body. A trap is precise (R9). -/
def runInstr (f : Form) (ops : List Opnd) (body : State → Who → Except Trap Ans) (s : State) :
    Host.Outcome State Fault Refusal :=
  let w := s.cur
  let pc := (s.strand w).pc
  let len := lenBytes f.len
  let nextpc := pc + BitVec.ofNat 64 len
  if f.pg ≠ 0 ∧ (s.live w.core).perr.contains (.pred w.strand) then
    s.trapNow w { code := .ecc, cause := 30 } pc nextpc
  else if !(s.strand w).guard f then .next (s.retire w len 1)
  else if !s.opsReady w ops then .next (s.notReady w ops)
  else
    match s.opTrap w ops with
    | some t => s.trapNow w t pc nextpc
    | none =>
      match body s w with
      | .error t => s.trapNow w t pc nextpc
      | .ok (.retire s' eu) => .next ((s'.clearErrs w ops).retire w len eu)
      | .ok (.jump s' pc' eu) => .next ((s'.clearErrs w ops).jumpTo w pc' eu)
      | .ok (.sysEntry s' code eu) => .next ((s'.jumpTo w pc eu).enter w { code := .illop, info := code } 0 pc nextpc true)
      | .ok (.hold s') => .next s'

/-! ## Values of operands -/

/-- The second source: a register, or the literal in its place, a 32-bit one sign-extended (R37). -/
def State.src (s : State) (w : Who) : Src → Word
  | .reg r => s.reg w r
  | .lit32 v => v.signExtend 64
  | .lit64 v => v

/-- The operand check of a source. -/
def srcOps : Src → List Opnd
  | .reg r => [.src r]
  | _ => []

/-- Width in bits of an integer type in a register (R38, R114). -/
def intWidth : Ty → Nat
  | .i64 | .n64 => 64
  | .i32 | .n32 => 32
  | .i16 | .n16 => 16
  | _ => 8

/-- The i types are signed (R114). -/
def isSigned : Ty → Bool
  | .i64 | .i32 | .i16 | .i8 => true
  | _ => false

/-- The low n bits read as signed (R114). -/
def sval (n v : Nat) : Int :=
  let x := v % 2 ^ n
  if x < 2 ^ (n - 1) then (x : Int) else (x : Int) - (2 ^ n : Nat)

/-- OpVal: the low bits read as signed for i types, as unsigned for n types (R114). -/
def opVal (v : Word) (t : Ty) : Int :=
  if isSigned t then sval (intWidth t) v.toNat else ((v.toNat % 2 ^ intWidth t : Nat) : Int)

/-- U: the unsigned value of the low bits (R114). -/
def uVal (v : Word) (t : Ty) : Nat := v.toNat % 2 ^ intWidth t

/-- An integer wrapped to n bits. -/
def wrap (n : Nat) (r : Int) : Nat := (r % (2 ^ n : Nat)).toNat

/-- Extend: wrapped to the type's width, then sign-extended (i) or zero-extended (n) to 64 bits (R114). -/
def extend (r : Int) (t : Ty) : Word :=
  let x := wrap (intWidth t) r
  if isSigned t then BitVec.ofInt 64 (sval (intWidth t) x) else BitVec.ofNat 64 x

/-- Width in bytes of a value in memory (R152). -/
def memWidth : Ty → Nat
  | .i64 | .n64 => 8
  | .i32 | .n32 | .f32 => 4
  | .i16 | .n16 | .bf16 | .f16 => 2
  | _ => 1

/-- A value read from memory as a register receives it: sign-extended for i types, else zero-extended (R152). -/
def loadExtend (v : Nat) (t : Ty) : Word :=
  if isSigned t then BitVec.ofInt 64 (sval (8 * memWidth t) v) else BitVec.ofNat 64 v

/-- The sign-extended 57-bit form of an address (R119, R311). -/
def canonVa (t : Word) : Word := (t.setWidth 57).signExtend 64

/-- Registers d, d + 1, ..., d + n - 1 as sources, or as destinations. -/
def srcRange (d : Reg) (n : Nat) : List Opnd := (List.range n).map (fun k => .src (BitVec.ofNat 6 (d.toNat + k)))
def dstRange (d : Reg) (n : Nat) : List Opnd := (List.range n).map (fun k => .dst (BitVec.ofNat 6 (d.toNat + k)))

/-- SHAPE and MASK read, by an instruction that acts on active rows or elements (R94, R407). -/
def shapeOps : List Opnd := [.status 2, .status 3]
/-- FCTL read, by an instruction that acts on floating values (R96, R407). -/
def fctlOps (fp : Bool) : List Opnd := if fp then [.status 0] else []

/-- A body that always retires. -/
def done (s : State) (eu : Nat) : Except Trap Ans := .ok (.retire s eu)

end Sys2Proof.Machine
end

