-- ==== Sys2Proof/Machine/Alu.lean ====
section
/-!
DEFINITION. Integer and address instructions (R114-R121).
-/
namespace Sys2Proof.Machine

/-- Operands d, a and the second source of an integer operation. -/
def aluOps (d a : Reg) (b : Src) : List Opnd := .dst d :: .src a :: srcOps b

/-- An integer instruction: the result, wrapped and extended by its type, goes to d (R114); class 0, 2 eu (R113). -/
def intOp (f : Form) (ty : Ty) (d a : Reg) (b : Src) (r : Word → Word → Int) (s : State) :
    Host.Outcome State Fault Refusal :=
  runInstr f (aluOps d a b) (fun s w => done (s.setReg w d (extend (r (s.reg w a) (s.src w b)) ty)) 2) s

/-- Division rounding toward zero; by zero -1 (R114). -/
def divT (a b : Int) : Int := if b = 0 then -1 else a.tdiv b
/-- Its remainder; by zero the dividend (R114). -/
def remT (a b : Int) : Int := if b = 0 then a else a - b * a.tdiv b

/-- The low six bits of the second source, the shift count (R114). -/
def shiftCount (v : Word) : Nat := v.toNat % 64

def shlVal (ty : Ty) (x y : Word) : Int := ((uVal x ty * 2 ^ shiftCount y : Nat) : Int)
def shrVal (ty : Ty) (x y : Word) : Int :=
  if shiftCount y ≥ intWidth ty then 0 else ((uVal x ty / 2 ^ shiftCount y : Nat) : Int)
def sraVal (ty : Ty) (x y : Word) : Int :=
  sval (intWidth ty) x.toNat / ((2 ^ min (shiftCount y) (intWidth ty - 1) : Nat) : Int)
def rolVal (ty : Ty) (x y : Word) : Int :=
  let k := shiftCount y % intWidth ty
  ((uVal x ty * 2 ^ k + uVal x ty / 2 ^ (intWidth ty - k) : Nat) : Int)

def execIAdd (f : Form) (ty : Ty) (d a : Reg) (b : Src) (s : State) : Host.Outcome State Fault Refusal :=
  intOp f ty d a b (fun x y => opVal x ty + opVal y ty) s
def execISub (f : Form) (ty : Ty) (d a : Reg) (b : Src) (s : State) : Host.Outcome State Fault Refusal :=
  intOp f ty d a b (fun x y => opVal x ty - opVal y ty) s
def execIMul (f : Form) (ty : Ty) (d a : Reg) (b : Src) (s : State) : Host.Outcome State Fault Refusal :=
  intOp f ty d a b (fun x y => opVal x ty * opVal y ty) s
/-- The high half of the exact product, rounded down (R114). -/
def execIMulh (f : Form) (ty : Ty) (d a : Reg) (b : Src) (s : State) : Host.Outcome State Fault Refusal :=
  intOp f ty d a b (fun x y => (opVal x ty * opVal y ty) / ((2 ^ intWidth ty : Nat) : Int)) s
def execIDiv (f : Form) (ty : Ty) (d a : Reg) (b : Src) (s : State) : Host.Outcome State Fault Refusal :=
  intOp f ty d a b (fun x y => divT (opVal x ty) (opVal y ty)) s
def execIRem (f : Form) (ty : Ty) (d a : Reg) (b : Src) (s : State) : Host.Outcome State Fault Refusal :=
  intOp f ty d a b (fun x y => remT (opVal x ty) (opVal y ty)) s
def execIAnd (f : Form) (ty : Ty) (d a : Reg) (b : Src) (s : State) : Host.Outcome State Fault Refusal :=
  intOp f ty d a b (fun x y => (((x &&& y).toNat : Nat) : Int)) s
def execIOr (f : Form) (ty : Ty) (d a : Reg) (b : Src) (s : State) : Host.Outcome State Fault Refusal :=
  intOp f ty d a b (fun x y => (((x ||| y).toNat : Nat) : Int)) s
def execIXor (f : Form) (ty : Ty) (d a : Reg) (b : Src) (s : State) : Host.Outcome State Fault Refusal :=
  intOp f ty d a b (fun x y => (((x ^^^ y).toNat : Nat) : Int)) s
def execIAndn (f : Form) (ty : Ty) (d a : Reg) (b : Src) (s : State) : Host.Outcome State Fault Refusal :=
  intOp f ty d a b (fun x y => (((x &&& ~~~y).toNat : Nat) : Int)) s
def execIShl (f : Form) (ty : Ty) (d a : Reg) (b : Src) (s : State) : Host.Outcome State Fault Refusal :=
  intOp f ty d a b (shlVal ty) s
def execIShr (f : Form) (ty : Ty) (d a : Reg) (b : Src) (s : State) : Host.Outcome State Fault Refusal :=
  intOp f ty d a b (shrVal ty) s
def execISra (f : Form) (ty : Ty) (d a : Reg) (b : Src) (s : State) : Host.Outcome State Fault Refusal :=
  intOp f ty d a b (sraVal ty) s
def execIRol (f : Form) (ty : Ty) (d a : Reg) (b : Src) (s : State) : Host.Outcome State Fault Refusal :=
  intOp f ty d a b (rolVal ty) s
def execIMin (f : Form) (ty : Ty) (d a : Reg) (b : Src) (s : State) : Host.Outcome State Fault Refusal :=
  intOp f ty d a b (fun x y => min (opVal x ty) (opVal y ty)) s
def execIMax (f : Form) (ty : Ty) (d a : Reg) (b : Src) (s : State) : Host.Outcome State Fault Refusal :=
  intOp f ty d a b (fun x y => max (opVal x ty) (opVal y ty)) s

/-! ## The immediate forms, op6 0x01-0x08 (R114) -/

def execAddImm (f : Form) (ty : Ty) (d a : Reg) (imm : Imm) (s : State) : Host.Outcome State Fault Refusal :=
  intOp f ty d a (.lit64 imm) (fun x y => opVal x ty + opVal y ty) s
def execAndImm (f : Form) (ty : Ty) (d a : Reg) (imm : Imm) (s : State) : Host.Outcome State Fault Refusal :=
  intOp f ty d a (.lit64 imm) (fun x y => (((x &&& y).toNat : Nat) : Int)) s
def execOrImm (f : Form) (ty : Ty) (d a : Reg) (imm : Imm) (s : State) : Host.Outcome State Fault Refusal :=
  intOp f ty d a (.lit64 imm) (fun x y => (((x ||| y).toNat : Nat) : Int)) s
def execXorImm (f : Form) (ty : Ty) (d a : Reg) (imm : Imm) (s : State) : Host.Outcome State Fault Refusal :=
  intOp f ty d a (.lit64 imm) (fun x y => (((x ^^^ y).toNat : Nat) : Int)) s
def execShlImm (f : Form) (ty : Ty) (d a : Reg) (imm : Imm) (s : State) : Host.Outcome State Fault Refusal :=
  intOp f ty d a (.lit64 imm) (shlVal ty) s
def execShrImm (f : Form) (ty : Ty) (d a : Reg) (imm : Imm) (s : State) : Host.Outcome State Fault Refusal :=
  intOp f ty d a (.lit64 imm) (shrVal ty) s
def execSraImm (f : Form) (ty : Ty) (d a : Reg) (imm : Imm) (s : State) : Host.Outcome State Fault Refusal :=
  intOp f ty d a (.lit64 imm) (sraVal ty) s
def execRolImm (f : Form) (ty : Ty) (d a : Reg) (imm : Imm) (s : State) : Host.Outcome State Fault Refusal :=
  intOp f ty d a (.lit64 imm) (rolVal ty) s

/-! ## Moves, counts, fields (R115-R119) -/

/-- One source, a result written as a word. -/
def unaryOp (f : Form) (d a : Reg) (r : Word → Word) (s : State) : Host.Outcome State Fault Refusal :=
  runInstr f [.dst d, .src a] (fun s w => done (s.setReg w d (r (s.reg w a))) 2) s

/-- Zero bits above the highest one bit of the low n bits; n where all are zero (R115). -/
def clzNat : Nat → Nat → Nat
  | 0, _ => 0
  | n + 1, v => if v.testBit n then 0 else 1 + clzNat n v

/-- Zero bits below the lowest one bit of n bits from bit i up; n where all are zero (R115). -/
def ctzNat : Nat → Nat → Nat → Nat
  | 0, _, _ => 0
  | n + 1, i, v => if v.testBit i then 0 else 1 + ctzNat n (i + 1) v

/-- One bits among the low n bits (R115). -/
def popNat : Nat → Nat → Nat
  | 0, _ => 0
  | n + 1, v => (if v.testBit n then 1 else 0) + popNat n v

def execMov (f : Form) (ty : Ty) (d a : Reg) (s : State) : Host.Outcome State Fault Refusal :=
  unaryOp f d a (fun x => extend (opVal x ty) ty) s
def execClz (f : Form) (ty : Ty) (d a : Reg) (s : State) : Host.Outcome State Fault Refusal :=
  unaryOp f d a (fun x => BitVec.ofNat 64 (clzNat (intWidth ty) (uVal x ty))) s
def execCtz (f : Form) (ty : Ty) (d a : Reg) (s : State) : Host.Outcome State Fault Refusal :=
  unaryOp f d a (fun x => BitVec.ofNat 64 (ctzNat (intWidth ty) 0 (uVal x ty))) s
def execPopc (f : Form) (ty : Ty) (d a : Reg) (s : State) : Host.Outcome State Fault Refusal :=
  unaryOp f d a (fun x => BitVec.ofNat 64 (popNat (intWidth ty) (uVal x ty))) s

/-- Position and width of a bit field from its control value: pos, Min(len, 64 - pos) (R116). -/
def fieldPos (c : Word) : Nat := bits c 5 0
def fieldLen (c : Word) : Nat := min (bits c 14 8) (64 - fieldPos c)

/-- bext (R116): the field, sign-extended for i64 and zero-extended for n64. -/
def bextVal (ty : Ty) (x c : Word) : Word :=
  if fieldLen c = 0 then 0
  else
    let v := x.toNat / 2 ^ fieldPos c % 2 ^ fieldLen c
    if ty = .i64 then BitVec.ofInt 64 (sval (fieldLen c) v) else BitVec.ofNat 64 v

/-- bins (R116): the low bits of x put into the field of the old value. -/
def binsVal (old x c : Word) : Word :=
  if fieldLen c = 0 then old else setBits old (fieldPos c + fieldLen c - 1) (fieldPos c) x.toNat

def execBext (f : Form) (ty : Ty) (d a : Reg) (b : Src) (s : State) : Host.Outcome State Fault Refusal :=
  runInstr f (aluOps d a b) (fun s w => done (s.setReg w d (bextVal ty (s.reg w a) (s.src w b))) 2) s
def execBins (f : Form) (_ty : Ty) (d a : Reg) (b : Src) (s : State) : Host.Outcome State Fault Refusal :=
  runInstr f (.src d :: aluOps d a b)
    (fun s w => done (s.setReg w d (binsVal (s.reg w d) (s.reg w a) (s.src w b))) 2) s

/-- The least and the greatest value of an integer type. -/
def intLo (t : Ty) : Int := if isSigned t then -((2 ^ (intWidth t - 1) : Nat) : Int) else 0
def intHi (t : Ty) : Int :=
  if isSigned t then ((2 ^ (intWidth t - 1) - 1 : Nat) : Int) else ((2 ^ intWidth t - 1 : Nat) : Int)
/-- Clamped to the range of a type (R117). -/
def clampTo (t : Ty) (v : Int) : Int := max (intLo t) (min v (intHi t))

def execCvt (f : Form) (dty sty : Ty) (d a : Reg) (s : State) : Host.Outcome State Fault Refusal :=
  unaryOp f d a (fun x => extend (clampTo dty (opVal x sty)) dty) s

def execMovi (f : Form) (d : Reg) (imm : Imm) (s : State) : Host.Outcome State Fault Refusal :=
  runInstr f [.dst d] (fun s w => done (s.setReg w d imm) 2) s

def execLea (f : Form) (d a : Reg) (imm : Imm) (s : State) : Host.Outcome State Fault Refusal :=
  runInstr f [.dst d, .src a]
    (fun s w => done (s.setReg w d (canonVa ((if a = 0 then (s.strand w).pc else s.reg w a) + imm))) 2) s

/-! ## Compare and select (R120, R121) -/

/-- The conditions eq, ne, lt, le, gt, ge by code (R120). -/
def intCond (c : Nat) (x y : Int) : Bool :=
  match c with
  | 0 => x == y
  | 1 => x != y
  | 2 => decide (x < y)
  | 3 => decide (x ≤ y)
  | 4 => decide (y < x)
  | _ => decide (y ≤ x)

def execCmp (f : Form) (ty : Ty) (cond : BitVec 3) (p : Pred) (a : Reg) (b : Src) (s : State) :
    Host.Outcome State Fault Refusal :=
  runInstr f (.src a :: srcOps b)
    (fun s w => done (s.setPred w p (intCond cond.toNat (opVal (s.reg w a) ty) (opVal (s.src w b) ty))) 2) s

def execSel (f : Form) (p : Pred) (sense : Bool) (d a b : Reg) (s : State) : Host.Outcome State Fault Refusal :=
  runInstr f [.dst d, .src a, .src b, .preds]
    (fun s w => done (s.setReg w d (if (s.strand w).pred p ^^ sense then s.reg w a else s.reg w b)) 2) s

end Sys2Proof.Machine
end

