-- ==== Sys2Proof/Machine/Layout.lean ====
section
/-!
DEFINITION. The layout records of an xfer (R322, R326): their fields, their checks, and the addresses that their elements reach.
-/
namespace Sys2Proof.Machine

/-! ## Layout records (R322) -/

/-- A layout record. -/
structure LRec where
  base : Word
  aux  : Word
  s0   : Int
  s1   : Int
  s2   : Int
  s3   : Int
  e0   : Nat
  e1   : Nat
  e2   : Nat
  e3   : Nat
  ty   : Ty

/-- A dword of a record's 64 bytes. -/
def recDword (r : BitVec 512) (n : Nat) : Nat := r.toNat / 2 ^ (64 * n) % 2 ^ 64

def LRec.of (r : BitVec 512) : LRec :=
  let d (n : Nat) := recDword r n
  { base := BitVec.ofNat 64 (d 0), aux := BitVec.ofNat 64 (d 1)
    s0 := sval 64 (d 2), s1 := sval 64 (d 3), s2 := sval 64 (d 4), s3 := sval 64 (d 5)
    e0 := field (d 6) 15 0, e1 := field (d 6) 31 16, e2 := field (d 6) 47 32, e3 := field (d 6) 63 48
    ty := Ty.ofCode (BitVec.ofNat 4 (field (d 7) 3 0)) }

/-- Bytes of an element; a lut4 element is half a byte and is addressed by its byte. -/
def LRec.width (r : LRec) : Nat := if r.ty = .lut4 then 1 else memWidth r.ty

/-- The record is one that an xfer accepts, or the trap it meets (R322). -/
def lrecTrap (bits_ : BitVec 512) (off : Word) : Option Trap :=
  let r := LRec.of bits_
  let d7 := recDword bits_ 7
  let code := field d7 3 0
  let w : Int := r.width
  if r.e0 = 0 ∨ r.e1 = 0 ∨ r.e2 = 0 ∨ r.e3 = 0 ∨ field d7 63 4 ≠ 0 ∨ code = 0 ∨ code = 4 then some .illop
  else if (r.base.toNat : Int) % w ≠ 0 ∨ r.s1 % w ≠ 0 ∨ r.s2 % w ≠ 0 ∨ r.s3 % w ≠ 0 ∨ (r.ty ≠ .lut4 ∧ r.s0 % w ≠ 0) then
    some (.align off)
  else none

/-- The element count. -/
def LRec.count (r : LRec) : Nat := r.e0 * r.e1 * r.e2 * r.e3

/-- The indexes of element k, i0 fastest. -/
def LRec.index (r : LRec) (k : Nat) : Nat × Nat × Nat × Nat :=
  (k % r.e0, k / r.e0 % r.e1, k / (r.e0 * r.e1) % r.e2, k / (r.e0 * r.e1 * r.e2))

/-- The address of the byte that holds an element. -/
def LRec.addr (r : LRec) (i : Nat × Nat × Nat × Nat) : Word :=
  let o0 : Int := if r.ty = .lut4 then ((i.1 / 2 : Nat) : Int) else (i.1 : Int) * r.s0
  r.base + BitVec.ofInt 64 (o0 + (i.2.1 : Int) * r.s1 + (i.2.2.1 : Int) * r.s2 + (i.2.2.2 : Int) * r.s3)

/-- The lowest and highest byte offset from BASE that a record's elements reach. -/
def LRec.span (r : LRec) : Int × Int :=
  let part (e : Nat) (s : Int) : Int × Int := let x := ((e : Int) - 1) * s; (min 0 x, max 0 x)
  let p0 := if r.ty = .lut4 then (0, (((r.e0 - 1) / 2 : Nat) : Int)) else part r.e0 r.s0
  let ps := [p0, part r.e1 r.s1, part r.e2 r.s2, part r.e3 r.s3]
  (ps.foldl (fun a p => a + p.1) 0, ps.foldl (fun a p => a + p.2) 0 + r.width)

/-- A record's destination bytes may touch a range of addresses. -/
def LRec.reaches (r : LRec) (lo n : Nat) : Bool :=
  let sp := r.span
  decide ((r.base.toNat : Int) + sp.1 < (lo + n : Nat) ∧ (lo : Int) < (r.base.toNat : Int) + sp.2)

/-- The lowest address of a record's elements, and the bytes from it to their end. -/
def LRec.range (r : LRec) : Nat × Nat :=
  let sp := r.span
  (((r.base.toNat : Int) + sp.1).toNat, (sp.2 - sp.1).toNat)

/-- Bits of a mantissa of each FRC budget (R40), and bytes of an FRC block (R83). -/
def frcBits (bud : Nat) : Nat := if bud = 0 then 4 else if bud = 1 then 8 else 16
def frcBytes (bud : Nat) : Nat := 1 + 2 * frcBits bud

/-- AUX bytes that an operation writes: one for each block that it encodes (R323). -/
def XferRec.auxBytes (r : XferRec) : Nat :=
  match r.xform.toNat with
  | 2 => (LRec.of r.dst).count / frcBytes r.budget.toNat
  | 4 => (LRec.of r.dst).count / 32
  | _ => 0

/-- An operation may write a byte of a range of addresses: a destination or an AUX byte. -/
def XferRec.reaches (r : XferRec) (lo n : Nat) : Bool :=
  let d := LRec.of r.dst
  d.reaches lo n || decide (d.aux.toNat < lo + n ∧ lo < d.aux.toNat + r.auxBytes)

/-- Bits of an element. -/
def LRec.elemBits (r : LRec) : Nat := if r.ty = .lut4 then 4 else 8 * r.width
/-- Destination bytes of n elements, and of all. -/
def LRec.bytes (r : LRec) (n : Nat) : Nat := n * r.elemBits / 8
def LRec.total (r : LRec) : Nat := (r.count * r.elemBits + 7) / 8

end Sys2Proof.Machine
end

