-- ==== Sys2Proof/Machine/Power.lean ====
section
/-!
DEFINITION. Clock and voltage of a cluster (R416-R420): the pending request, ramps, clock-source hops and droops.
-/
namespace Sys2Proof.Machine

/-- The first core of a cluster. -/
def clusterCore (cl rank : Nat) : Nat := coreAt (cl % 16 * 16 + rank) (cl / 16)

/-- Physical address of a cluster's block (R415). -/
def clusterBlock (cl : Nat) : Nat :=
  let c := clusterCore cl 0
  dieBlock (dieOf c) + 0x20_0000 + 0x40 * (4 * (coreY c % 64) + coreX c % 64 / 16)

def Power.idle : Power :=
  { divs := 0, volts := 850, stepEnd := none, next := none, hops := [], droop := none }

def State.powerOf (s : State) (cl : Nat) : Power := AMap.get Power.idle s.power cl
def State.setPower (s : State) (cl : Nat) (p : Power) : State := { s with power := AMap.put s.power cl p }

/-- Lowest voltage of a divider (R417). -/
def vmin (d : Nat) : Nat := if d = 1 then 850 else if d = 2 then 650 else if d = 3 then 590 else 550

/-- The divider of a rank in the layout of DIVREQ: the field plus 1 (R416). -/
def divOf (v : Word) (k : Nat) : Nat := bits v (4 * k + 3) (4 * k) + 1

def State.vnow (s : State) (cl : Nat) : Nat := bits (s.ctl (clusterBlock cl + 0x38)) 15 0
def State.divNow (s : State) (cl : Nat) : Word := s.ctl (clusterBlock cl + 0x30)

/-- One field of the status dword at 0x38 set (R416). -/
def State.setPow (s : State) (cl hi lo v : Nat) : State :=
  s.setCtl (clusterBlock cl + 0x38) (setBits (s.ctl (clusterBlock cl + 0x38)) hi lo v)

/-- The dividers of the ranks that meet a test switch to the requested ones, each in a clock-source hop (R418, R419). -/
def State.switchDivs (s : State) (cl : Nat) (test : Nat → Nat → Bool) : State :=
  let p := s.powerOf cl
  let ks := (List.range 16).filter (fun k => test (divOf (s.divNow cl) k) (divOf p.divs k))
  let now := ks.foldl (fun v k => setBits v (4 * k + 3) (4 * k) (divOf p.divs k - 1)) (s.divNow cl)
  (s.setCtl (clusterBlock cl + 0x30) now).setPower cl { p with hops := p.hops ++ ks.map (clusterCore cl) }

/-- Every requested divider is in force and VNOW = VREQ. -/
def State.rampDone (s : State) (cl : Nat) : Bool :=
  let p := s.powerOf cl
  s.vnow cl == p.volts && (List.range 16).all (fun k => divOf (s.divNow cl) k == divOf p.divs k)

/-- The ramp goes on from a time, or ends (R418). -/
def State.rampFrom (s : State) (cl t : Nat) : State :=
  if s.rampDone cl then (s.setPower cl { s.powerOf cl with stepEnd := none }).setPow cl 16 16 0
  else (s.setPower cl { s.powerOf cl with stepEnd := some (t + 1000) }).setPow cl 16 16 1

/-- Faster dividers whose Vmin the voltage reaches switch (R418, item 3). -/
def State.fasten (s : State) (cl : Nat) : State :=
  s.switchDivs cl (fun now req => decide (req < now ∧ vmin req ≤ s.vnow cl))

/-- A request is carried out from step 1 (R418). Where the voltage stands at VREQ already there is no step end to wait
for, and the faster dividers switch at once (assumption 21). -/
def State.startRequest (s : State) (cl : Nat) (divs : Word) (volts t : Nat) : State :=
  let s1 := s.setPower cl { s.powerOf cl with divs := divs, volts := volts, next := none }
  let s2 := s1.switchDivs cl (fun now req => decide (now < req))
  let s3 := if s2.vnow cl = volts then s2.fasten cl else s2
  s3.rampFrom cl t

/-- A step of 10 mV ends (R418). -/
def State.voltStep (s : State) (cl : Nat) : State :=
  let p := s.powerOf cl
  match p.stepEnd with
  | none => s
  | some t =>
    if s.time.toNat < t then s
    else
      let v := s.vnow cl
      let v' := if v < p.volts then v + 10 else if p.volts < v then v - 10 else v
      let s1 := s.setPow cl 15 0 v'
      match p.next with
      | some (divs, volts) => s1.startRequest cl divs volts t
      | none => (s1.fasten cl).rampFrom cl t

/-- A write of VREQ commits the request (R416-R418); a step that has ended by then has its effect first. -/
def State.commitVolts (s : State) (cl volts : Nat) : State :=
  let s := s.voltStep cl
  let divs := s.ctl (clusterBlock cl + 0x20)
  if (List.range 16).any (fun k => decide (volts < vmin (divOf divs k))) then s.setPow cl 17 17 1
  else
    let p := s.powerOf cl
    if p.stepEnd.isSome then (s.setPower cl { p with next := some (divs, volts) }).setPow cl 16 16 1
    else s.startRequest cl divs volts s.time.toNat

/-- A clock-source hop of a core ends (R419). -/
def State.hopEnd (s : State) (core : Nat) : State :=
  let cl := clusterOf core
  let p := s.powerOf cl
  s.setPower cl { p with hops := p.hops.erase core }

/-- The detector fires: half rate, DROOPS rises, and no flit crosses between a core and the mesh or the cluster cache (R420; DEDUCED,
assumption 82). -/
def State.droopOn (s : State) (cl : Nat) : State :=
  let d := bits (s.ctl (clusterBlock cl + 0x38)) 47 32
  (s.setPower cl { s.powerOf cl with droop := some s.time }).setPow cl 47 32 (min (d + 1) 0xFFFF)

/-- The supply has stood recovered for 64 ns: full rate resumes (R420). -/
def State.droopOff (s : State) (cl : Nat) : State :=
  let p := s.powerOf cl
  if p.droop.any (fun t => decide (t.toNat + 64 ≤ s.time.toNat)) then s.setPower cl { p with droop := none } else s

/-- A core's crossings to the mesh and to the cluster cache are held by a droop (R420). -/
def State.drooping (s : State) (core : Nat) : Bool := (s.powerOf (clusterOf core)).droop.isSome

end Sys2Proof.Machine
end

