-- ==== Sys2Proof/Machine/Xlate.lean ====
section
/-!
DEFINITION. Translation: page tables, targets, rights and the order in which their faults are chosen (R143, R311-R320),
LM windows (R284), and the shadow frames of replayable kernels (R262, R319, R320).
-/
namespace Sys2Proof.Machine

/-! ## Page-table entries (R313-R315) -/

def pteTT (e : Word) : Nat := bits e 63 60
def pteZ (e : Word) : Nat := bits e 59 56
def pteV (e : Word) : Bool := bit e 0
def pteR (e : Word) : Bool := bit e 1
def pteW (e : Word) : Bool := bit e 2
def pteX (e : Word) : Bool := bit e 3
def pteU (e : Word) : Bool := bit e 4
def pteSync (e : Word) : Bool := bit e 5
def pteSp (e : Word) : Bool := bit e 6
def pteSf (e : Word) : Bool := bit e 7
def pteSw (e : Word) : Bool := bit e 8

/-- Page size of exponent z (R312). -/
def pageSize (z : Nat) : Nat := 2 ^ (12 + 2 * z)
/-- Level at which a leaf of exponent z stands (R312). -/
def leafLevel (z : Nat) : Nat := if z ≤ 4 then 0 else if z ≤ 8 then 1 else 2
/-- Identical replicas of a leaf of exponent z (R312). -/
def replicas (z : Nat) : Nat := pageSize z / 2 ^ (12 + 9 * leafLevel z)

/-- Physical frame of an HBM, HOST or MMIO entry, FRAME[51:12]. -/
def frameAddr (e : Word) : Nat := bits e 51 12 * 4096

/-- A leaf breaks no rule of R314 for its target type (the level and the replicas are checked by the walk). -/
def leafOk (e : Word) : Bool :=
  let z := pteZ e
  let sz := pageSize z
  decide (z ≤ 11) && decide (bits e 11 9 = 0) &&
  match pteTT e with
  | 1 => decide (bits e 55 52 = 0) && decide (frameAddr e % sz = 0) && inHbm (frameAddr e) sz
  | 2 => decide (z ≤ 2) && decide (bits e 47 47 = 0) && decide (bits e 39 19 = 0) &&
         decide (bits e 18 12 * 4096 % sz = 0) && decide (bits e 18 12 * 4096 + sz ≤ 0x50000) && !pteSync e
  | 3 => decide (bits e 39 12 * 4096 % sz = 0)
  | 4 => decide (z ≤ 9) && decide (bits e 55 52 = 0) && decide (frameAddr e % sz = 0) && !pteSp e && !pteSync e
  | 5 => decide (z ≤ 4) && decide (bits e 55 52 = 0) && decide (frameAddr e % sz = 0) &&
         decide (mmioBase ≤ frameAddr e) && !pteSp e && !pteSync e
  | _ => false

/-- A table entry with nothing but V and FRAME[51:12], pointing into HBM (R313, R315). -/
def tableOk (e : Word) : Bool :=
  decide (bits e 59 52 = 0) && decide (bits e 11 1 = 0) && inHbm (frameAddr e) 4096

/-- Where a walk ends. -/
inductive Walk where
  /-- A leaf: the entry, its level, the physical address of its first replica, its exponent. -/
  | leaf (e : Word) (level slot z : Nat)
  /-- A CAUSE of R318, the level, the entry read there; where the entry lies in a unit in error, its CAUSE and the entry's address. -/
  | stop (cause level : Nat) (e : Word)
  deriving DecidableEq, Repr

/-- All replicas of a leaf hold the same entry (R312, R315). -/
def replicasOk (s : State) (e : Word) (first : Nat) : Bool :=
  (List.range (replicas (pteZ e))).all (fun i => s.readW (first + 8 * i) == e)

/-- The walk from a table down (R312). The number is the level plus one. An entry that lies in a unit in error cannot be read, and ends the
walk as an ECC error of the access (R407, R408; DESIGN CHOICE, assumption 95). -/
def walkFrom (s : State) (va : Word) : Nat → Nat → Walk
  | 0, _ => .stop 3 0 0
  | l + 1, table =>
    let idx := bits va (20 + 9 * l) (12 + 9 * l)
    let e := s.readW (table + 8 * idx)
    match s.homeCause (table + 8 * idx) 8 with
    | some c => .stop c l (BitVec.ofNat 64 (table + 8 * idx))
    | none =>
    if !pteV e then .stop 2 l e
    else if pteTT e = 0 then
      if l = 0 ∨ !tableOk e then .stop 3 l e else walkFrom s va l (frameAddr e)
    else
      let n := replicas (pteZ e)
      let first := table + 8 * (idx / n * n)
      match s.homeCause first (8 * n) with
      | some c => .stop c l (BitVec.ofNat 64 first)
      | none =>
      if !leafOk e ∨ leafLevel (pteZ e) ≠ l ∨ !replicasOk s e first then .stop 3 l e
      else .leaf e l first (pteZ e)

/-- The walk of an address for a context (R311, R312, R318). R312 does not say what a PTROOT is that is not aligned to 4 KiB or lies outside HBM:
the walk ends with CAUSE 3 at level 4, ENTRY 0 (DESIGN CHOICE, assumption 90). -/
def walk (s : State) (ctx : Nat) (va : Word) : Walk :=
  if canonVa va ≠ va then .stop 1 0 0
  else if s.ptroot ctx % 4096 ≠ 0 ∨ !inHbm (s.ptroot ctx) 4096 then .stop 3 4 0
  else walkFrom s va 5 (s.ptroot ctx)

/-! ## Targets (R314) -/

/-- The memory an address names. An LM target holds an LM offset, which may lie in a window. -/
inductive Target where
  | hbm (pa : Nat) (sync : Bool)
  | lm (core off : Nat)
  | peer (m a : Nat) (sync : Bool)
  | host (a : Nat)
  | mmio (pa : Nat)
  deriving DecidableEq, Repr

/-- The byte at an offset of a page. -/
def leafTarget (e : Word) (off : Nat) : Target :=
  match pteTT e with
  | 1 => .hbm (frameAddr e + off) (pteSync e)
  | 2 => .lm (coreAt (bits e 55 48) (bits e 46 40)) (bits e 18 12 * 4096 + off)
  | 3 => .peer (bits e 55 40) (bits e 39 12 * 4096 + off) (pteSync e)
  | 4 => .host (frameAddr e + off)
  | _ => .mmio (frameAddr e + off)

/-- Kinds of access, with the KIND codes of R317. -/
inductive Acc where
  | load | store | atomic | fetch
  deriving DecidableEq, Repr

def Acc.code : Acc → Nat
  | .load => 0 | .store => 1 | .atomic => 2 | .fetch => 3
def Acc.writes : Acc → Bool
  | .store | .atomic => true
  | _ => false

/-- The rights an access needs (R313). -/
def rightsOk (e : Word) (k : Acc) (p : Priv) : Bool :=
  (pteU e || p != .user) &&
  match k with
  | .load => pteR e
  | .store => pteW e
  | .atomic => pteR e && pteW e
  | .fetch => pteX e

/-- Which target types an instruction may reach (R143), and whether an HBM page needs SYNC (R169, R241, R298). -/
structure Allow where
  hbm  : Bool
  lm   : Bool
  peer : Bool
  host : Bool
  mmio : Bool
  sync : Bool
  deriving DecidableEq, Repr

def Allow.all : Allow := ⟨true, true, true, true, true, false⟩
def Allow.tile : Allow := ⟨true, true, true, true, false, false⟩
def Allow.remote : Allow := ⟨false, true, true, false, false, false⟩
def Allow.amo : Allow := ⟨true, true, true, false, false, false⟩
/-- A sync object of a bind, or a barrier. -/
def Allow.object : Allow := ⟨true, true, false, false, false, true⟩
/-- A queue descriptor. -/
def Allow.descriptor : Allow := ⟨true, false, false, false, false, true⟩

def Allow.ok (a : Allow) : Target → Bool
  | .hbm _ sy => a.hbm && (sy || !a.sync)
  | .lm _ _ => a.lm
  | .peer _ _ _ => a.peer
  | .host _ => a.host
  | .mmio _ => a.mmio

/-- The entry of the route table for a module: the lowest with V = 1 and MODULE = m, else the lowest default (R340). -/
def State.route (s : State) (m : Nat) : Option Word :=
  let entries := (List.range 256).map (fun e => s.ctl (moduleBlock + 0x100 + 8 * e))
  match entries.find? (fun e => bit e 63 && bits e 47 32 == m) with
  | some e => some e
  | none => entries.find? (fun e => bit e 63 && bits e 47 32 == 0xFFFF)

/-! ## Kernels and shadow frames (R262, R319, R320) -/

def Kernel.none_ : Kernel :=
  { ctx := 0, qdesc := 0, qva := 0, qid := 0, die := 0, kseq := 0, packet := 0, args := [], state := .pending,
    replays := 0, groups := [], takenAt := 0, bars := [], claims := [], cores := [], unscanned := [], sinceScan := [], retiredAt := 0,
    everRetired := false, poisons := [] }

def State.kernel (s : State) (k : Nat) : Kernel := AMap.get Kernel.none_ s.kernels k
def State.setKernel (s : State) (k : Nat) (v : Kernel) : State := { s with kernels := AMap.put s.kernels k v }
/-- Bits [hi:lo] of the dword at an offset of a launch packet (R242). -/
def Kernel.pk (k : Kernel) (off hi lo : Nat) : Nat := field (k.packet.toNat / 2 ^ (8 * off) % 2 ^ 64) hi lo
/-- The REPLAY bit of the packet (R242). -/
def Kernel.replay (k : Kernel) : Bool := k.pk 0x20 9 9 == 1

/-- The shadow word of the leaf at a slot (R319). -/
def State.shadowWord (s : State) (slot : Nat) : Word := s.readW (slot + 0x1000)

/-- A shadow word that differs from its live word where R315 forbids it. -/
def shadowDiffers (live sh : Word) : Bool :=
  !(pteTT live == pteTT sh && pteZ live == pteZ sh && bits live 7 0 == bits sh 7 0 &&
    (pteTT live != 2 || bits live 55 40 == bits sh 55 40) && leafOk sh)

/-- The shadow words of a page are malformed: the first differs from its live word, or a replica from the first (R315, R319). -/
def State.shadowBad (s : State) (t : TlbEnt) : Bool :=
  shadowDiffers t.entry (s.shadowWord t.slot) ||
  (List.range (replicas (pteZ t.entry))).any (fun i => s.readW (t.slot + 0x1000 + 8 * i) != s.shadowWord t.slot)

/-- The kernel that claims the page of a slot (R262). -/
def State.claimant (s : State) (slot : Nat) : Option Nat :=
  (s.kernels.find? (fun e => e.2.claims.any (fun c => c.slot == slot))).map (·.1)

/-- Flat address of the start of a frame, where the target memory has flat frames. -/
def frameFlat (e : Word) : Nat :=
  match leafTarget e 0 with
  | .hbm pa _ => pa
  | .lm c off => lmFlat c off
  | .peer m a _ => peerFlat m a
  | .host a => hostFlat a
  | .mmio pa => pa

/-- SW set or cleared in every replica of a shadow word (R320, R321). -/
def State.setShadow (s : State) (slot z : Nat) (v : Word) : State :=
  (List.range (replicas z)).foldl (fun acc i => acc.write (slot + 0x1000 + 8 * i) 8 v.toNat) s

/-- Every cached copy of the lines of a frame dropped, written bytes written back first, in every cluster (R215). -/
def State.dropFrame (s : State) (lo n : Nat) : State :=
  (s.caches.foldl (fun acc e =>
    e.2.foldl (fun acc l => if lo ≤ 64 * l.1 ∧ 64 * l.1 < lo + n then acc.dropLine e.1 l.1 else acc) acc) s).forgetRange lo n

/-- n bytes of a frame copied into another; of a unit in error the copy is poisoned (R407, R408). -/
def State.copyFrame (s : State) (src dst n : Nat) : State :=
  let s1 : State := { s with mem := memCopy s.mem src dst n }
  if s.badUnits = [] ∧ s.poisoned = [] then s1
  else
    let there (a u : Nat) : Bool := decide (a ≤ u ∧ u < a + n)
    { s1 with badUnits := s.badUnits.filter (fun u => !there dst u)
              poisoned := ((s.badUnits ++ s.poisoned).filter (there src)).map (fun u => u - src + dst) ++
                s.poisoned.filter (fun u => !there dst u) }

/-- The first claiming write to a page: the live frame is copied to the shadow frame and SW set, in one step (R320). An instruction
that writes the page in several pieces claims it once. -/
def State.claimFrame (s : State) (kid : Nat) (live : Word) (slot : Nat) : State :=
  if (s.kernel kid).claims.any (fun c => c.slot == slot) then s else
  let sh := s.shadowWord slot
  let n := pageSize (pteZ live)
  let s1 := (s.dropFrame (frameFlat live) n).dropFrame (frameFlat sh) n
  let s3 := (s1.copyFrame (frameFlat live) (frameFlat sh) n).setShadow slot (pteZ live) (setBits sh 8 8 1)
  let k := s3.kernel kid
  s3.setKernel kid { k with claims := ⟨slot, frameFlat live, frameFlat sh, n⟩ :: k.claims }

/-! ## A translation (R143) -/

/-- A translated access: its target, the translation used, and the claim a write has still to make. -/
structure Xlat where
  va    : Word
  tgt   : Target
  ent   : TlbEnt
  claim : Bool
  deriving DecidableEq, Repr

/-- A translation of a context that covers an address. -/
def TlbEnt.hits (t : TlbEnt) (ctx : Nat) (va : Word) : Bool :=
  t.ctx == ctx && decide (t.base ≤ va.toNat ∧ va.toNat < t.base + pageSize t.z)

/-- The piece of 256 MiB of a larger page that an address lies in; 0 in a smaller page (R316). -/
def TlbEnt.piece (t : TlbEnt) (va : Word) : Nat := if t.z ≤ 8 then 0 else va.toNat / 2 ^ 28

/-- The cached translation that a core uses for an address: its own, its cluster's, its die's (R316). -/
def State.tlbFind (s : State) (core ctx : Nat) (va : Word) : Option TlbEnt :=
  match (s.core core).tlb.find? (·.hits ctx va) with
  | some t => some t
  | none =>
    match (AMap.get [] s.clusterTlb (clusterOf core)).find? (·.hits ctx va) with
    | some t => some t
    | none => ((AMap.get [] s.dieTlb (dieOf core)).find? (fun e => e.1.hits ctx va && e.2 == e.1.piece va)).map (·.1)

/-- The leaf for an address: from the translations cached for the core, else by a walk. -/
def State.leafFor (s : State) (core : Nat) (va : Word) : Except (Nat × Nat × Word) TlbEnt :=
  let ctx := s.ctxOf core
  if canonVa va ≠ va then .error (1, 0, 0)
  else
    match s.tlbFind core ctx va with
    | some t => .ok t
    | none =>
      match walk s ctx va with
      | .leaf e level slot z => .ok { ctx := ctx, base := va.toNat / pageSize z * pageSize z, z := z, entry := e,
                                      level := level, slot := slot }
      | .stop c l e => .error (c, l, e)

/-- A CAUSE of an ECC error (R318). -/
def eccCode (cause : Nat) : Bool := decide (27 ≤ cause ∧ cause ≤ 31)

/-- The ENTRY of a record for a stop of a walk: 0 where an error ended it, for the word is then the address of what was read. -/
def stopEntry (cause : Nat) (e : Word) : Word := if eccCode cause then 0 else e

/-- The trap of a translation's CAUSE (R318). Of a walk that an ECC error ends the word is the entry's address, and ENTRY is 0. -/
def xlatTrap (cause level : Nat) (e va : Word) (k : Acc) : Trap :=
  let t : Trap := { code := if cause ≤ 3 then .page else .access, cause := cause, va := va, kind := k.code, level := level, entry := e }
  if eccCode cause then { t with code := .ecc, entry := 0, hurt := if cause = 28 then (e.toNat, 8) else (0, 0) } else t

/-- Writes of a replayable kernel without a shadow frame, claims, and a malformed shadow word that the access would use
(R262, R315, R320). -/
def State.shadowCause (s : State) (kern : Option Nat) (t : TlbEnt) (k : Acc) : Option Nat :=
  if k = .fetch ∨ pteSync t.entry then none
  else
    match s.claimant t.slot with
    | some o =>
      if kern = some o then (if s.shadowBad t then some 3 else none)
      else if k.writes then some 7 else none
    | none =>
      match kern with
      | some kid =>
        if !k.writes || !(s.kernel kid).replay then none
        else if !pteSp t.entry then some 6
        else if s.shadowBad t then some 3
        else if pteSw (s.shadowWord t.slot) then some 7
        else none
      | none => none

/-- The CAUSE with which the leaf of a page refuses an access, in the order of R143, or none. -/
def State.leafCause (s : State) (p : Priv) (kern : Option Nat) (t : TlbEnt) (va : Word) (k : Acc)
    (al : Allow) : Option Nat :=
  let tgt := leafTarget t.entry (va.toNat - t.base)
  if !rightsOk t.entry k p then some 4
  else if !al.ok tgt then some 5
  else
    match tgt with
    | .lm c _ => if s.inAllot t.ctx c then none else some 33
    | .peer m _ _ => if (s.route m).isNone then some 32 else State.shadowCause s kern t k
    | .hbm _ _ => State.shadowCause s kern t k
    | _ => none

/-- The kernel of a strand. -/
def Strand.kern (st : Strand) : Option Nat := st.job.map (·.1)

/-- The translation of one access that lies within one page, made on a core with a privilege for a kernel (R143). -/
def State.xlatFor (s : State) (core : Nat) (p : Priv) (kern : Option Nat) (va : Word) (k : Acc) (al : Allow) :
    Except Trap Xlat :=
  match s.leafFor core va with
  | .error (c, l, e) => .error (xlatTrap c l e va k)
  | .ok t =>
    match s.leafCause p kern t va k al with
    | some c => .error (xlatTrap c t.level t.entry va k)
    | none =>
      let off := va.toNat - t.base
      let own := match kern with
        | some kid => k != .fetch && (s.kernel kid).replay && !pteSync t.entry && (pteTT t.entry == 1 || pteTT t.entry == 3)
        | none => false
      let claimed := s.claimant t.slot == kern && kern.isSome
      let e := if own && (claimed || k.writes) then s.shadowWord t.slot else t.entry
      .ok { va := va, tgt := leafTarget e off, ent := t, claim := own && k.writes && !claimed }

/-- The translation of one access of a strand (R143). -/
def State.translate (s : State) (w : Who) (va : Word) (k : Acc) (al : Allow) : Except Trap Xlat :=
  s.xlatFor w.core (s.strand w).priv (s.strand w).kern va k al

/-- A list with an entry at its head; a full one loses its oldest (assumption 4). -/
def tlbPush {α : Type} [BEq α] (cap : Nat) (l : List α) (e : α) : List α := if l.contains e then l else (e :: l).take cap

/-- A translation is held by its core, its cluster and its die (R316). -/
def State.holdXlat (s : State) (core : Nat) (t : TlbEnt) (va : Word) : State :=
  let c := s.core core
  let cl := clusterOf core
  let d := dieOf core
  let s1 := s.setCore core { c with tlb := tlbPush Config.coreTlb c.tlb t }
  { s1 with
    clusterTlb := AMap.put s1.clusterTlb cl (tlbPush Config.clusterTlb (AMap.get [] s1.clusterTlb cl) t)
    dieTlb := AMap.put s1.dieTlb d (tlbPush Config.dieTlb (AMap.get [] s1.dieTlb d) (t, t.piece va)) }

/-- The state after an access has translated: the translation is held (R316), and a first claiming write has filled the
shadow frame (R320). -/
def State.useXlat (s : State) (w : Who) (x : Xlat) : State :=
  let s1 := if (s.core w.core).tlb.contains x.ent then s else s.holdXlat w.core x.ent x.va
  match x.claim, (s.strand w).kern with
  | true, some kid => s1.claimFrame kid x.ent.entry x.ent.slot
  | _, _ => s1

/-! ## LM offsets (R284) -/

/-- The physical LM byte of an offset for a strand's holdings; none for a window position that is not held, or beyond
the window. -/
def lmPhys (h : Holdings) (off : Nat) : Option Nat :=
  if off < 0x20000 then some off
  else (h.lmg[(off - 0x20000) / 0x1000]?).map (fun g => 0x1000 * g + off % 0x1000)

/-- The strand of a group on a core (R154, R284): the one that runs for the same kernel and group. -/
def State.groupStrand (s : State) (core : Nat) (job : Option (Nat × Nat)) : Option Nat :=
  match job with
  | none => none
  | some j => (List.range 4).find? (fun n =>
      let st := (s.live core).strand n
      st.job == some j && st.run == .running)

/-- A byte range of a hinge-set block that only the Hinge engine writes (R355, R356). -/
def HSlot.covers (h : HSlot) (off n : Nat) : Bool :=
  h.state != .closed &&
  decide (off < h.block.toNat + 128 + 24 * (16 * bits h.attr0 7 0) ∧ h.block.toNat < off + n)

/-- Some block of the core covers physical LM bytes. -/
def CoreCtx.hingeCovers (l : CoreCtx) (off n : Nat) : Bool :=
  (List.range 4).any (fun k => (AMap.get HSlot.closed l.hslots k).covers off n)

end Sys2Proof.Machine
end

