-- ==== Sys2Proof/Machine/Pod.lean ====
section
/-!
DEFINITION. Links, the module table and module time as state (R333-R343, R349): what a link, a module and the lock are, and
how the table follows routes and locks.
-/
namespace Sys2Proof.Machine

/-! ## Links (R333, R334) -/

/-- Key of a Plyneel port in the table of links. -/
def portKey (p : Nat) : Nat := 2 ^ 20 + p

/-- Key of the mesh link of a core in a direction, 0 toward +x, 1 toward -x, 2 toward +y, 3 toward -y; none at a package edge.
Both ends name one link. -/
def meshKey (core dir : Nat) : Option Nat :=
  match dir with
  | 0 => if coreX core < 255 then some (4 * core) else none
  | 1 => if 0 < coreX core then some (4 * (core - 1)) else none
  | 2 => if coreY core < 127 then some (4 * core + 2) else none
  | _ => if 0 < coreY core then some (4 * (core - 256) + 2) else none

/-- A key that names a link of the part. -/
def isMeshKey (k : Nat) : Bool :=
  isCore (k / 4) && (k % 4 == 0 || k % 4 == 2) && meshKey (k / 4) (k % 4) == some k
def isPortKey (k : Nat) : Bool := decide (portKey 0 ≤ k ∧ k < portKey 32)

/-- The two cores that a mesh link joins. -/
def meshEnds (k : Nat) : Nat × Nat := (k / 4, k / 4 + (if k % 4 = 0 then 1 else 256))

/-- A mesh link between two dies. -/
def isSeam (k : Nat) : Bool := dieOf (meshEnds k).1 != dieOf (meshEnds k).2

/-- A link that no event has touched: ABSENT for a port with no partner, DOWN at reset, TRAINING for a mesh or seam link once
reset has been released (R334, R335). -/
def State.linkReset (s : State) (k : Nat) : Link :=
  { state := if isPortKey k then (if Config.portFitted (k - portKey 0) then .down else .absent)
             else if s.released then .training else .down
    trains := 0, retry := 0, crcerr := 0, fecOk := 0, fecBad := 0, flitAt := none, fails := 0, tries := 0, since := none,
    nmod := 0, nport := 0 }

def State.link (s : State) (k : Nat) : Link := AMap.get (s.linkReset k) s.links k
def State.setLink (s : State) (k : Nat) (l : Link) : State := { s with links := AMap.put s.links k l }

/-! ## Where a path leads (R20, R337, R338) -/

/-- The stack of a physical address of HBM, and the die that a stack is attached to: stacks 2d and 2d + 1 to die d (R20, R311). -/
def stackOf (pa : Nat) : Nat := pa / 2 ^ 36
def stackDie (k : Nat) : Nat := k / 2
/-- The die of a port: ports 4d to 4d + 3 are on die d (R20, R333). -/
def portDie (p : Nat) : Nat := p / 4

/-- The entry cores (R338): of a stack's home slice, of a port, of the host link, of a block of the MMIO range. -/
def stackEntry (k : Nat) : Nat :=
  coreAt (64 * (stackDie k % 4) + (if k % 2 = 0 then 16 else 48)) (64 * (stackDie k / 4) + 32)
def portEntry (p : Nat) : Nat := coreAt (64 * (portDie p % 4) + 8 + 16 * (p % 4)) (64 * (portDie p / 4) + 8)
def hostEntry : Nat := coreAt 0 0
def mmioEntry (pa : Nat) : Nat :=
  if mmioBase ≤ pa ∧ pa < dieBlock 8 then
    let d := (pa - mmioBase) / 0x1_0000_0000
    coreAt (64 * (d % 4)) (64 * (d / 4))
  else coreAt 0 0

/-- The links of the hops from one column to another in a row, and from one row to another in a column, in their order. -/
def hopsX (y x x1 : Nat) : List Nat :=
  if x ≤ x1 then (List.range (x1 - x)).map (fun i => 4 * coreAt (x + i) y)
  else (List.range (x - x1)).map (fun i => 4 * coreAt (x - 1 - i) y)
def hopsY (x y y1 : Nat) : List Nat :=
  if y ≤ y1 then (List.range (y1 - y)).map (fun i => 4 * coreAt x (y + i) + 2)
  else (List.range (y - y1)).map (fun i => 4 * coreAt x (y - 1 - i) + 2)

/-- Half of the way from one coordinate to another, truncated toward the first. -/
def midway (a b : Nat) : Nat := if a ≤ b then a + (b - a) / 2 else a - (a - b) / 2

/-- The mesh links of a path from one core to another (R337). -/
def meshRoute (path src dst : Nat) : List Nat :=
  let (xs, ys, xt, yt) := (coreX src, coreY src, coreX dst, coreY dst)
  if path = 0 then hopsX ys xs xt ++ hopsY xt ys yt
  else if path = 1 then hopsY xs ys yt ++ hopsX yt xs xt
  else if path = 2 then hopsY xs ys (midway ys yt) ++ hopsX (midway ys yt) xs xt ++ hopsY xt (midway ys yt) yt
  else hopsX ys xs (midway xs xt) ++ hopsY (midway xs xt) ys yt ++ hopsX yt (midway xs xt) xt

/-- A link that carries traffic (R334). -/
def State.linkUp (s : State) (k : Nat) : Bool := (s.link k).state == .up

/-- Every mesh link of a path carries traffic, and no droop holds what leaves its core (R420). -/
def State.meshCarries (s : State) (path src dst : Nat) : Bool := !s.drooping src && (meshRoute path src dst).all s.linkUp

/-! ## Module time (R341) -/

/-- The module number of the time source. -/
def State.timeSource (s : State) : Nat := bits (s.ctl (moduleBlock + 8)) 15 0

/-- The module is in lock: at all times for the time source. -/
def State.inLock (s : State) : Bool := s.timeSource == s.module_.toNat || s.lock

/-! ## The module table (R342) -/

def State.modEnt (s : State) (m : Nat) : ModEnt := AMap.get ⟨.unknown, 0, false, none⟩ s.modules m
def State.setMod (s : State) (m : Nat) (e : ModEnt) : State := { s with modules := AMap.put s.modules m e }
def State.modUp (s : State) (m : Nat) : Bool := (s.modEnt m).state == .up

/-- The ports of a route entry in use, in list order (R340). -/
def routePorts (v : Word) : List Nat := (List.range (bits v 49 48 + 1)).map (fun k => bits v (5 * k + 4) (5 * k))

/-- At least one route to a module is UP. Retraining of a port changes time and counters alone (R336), so it keeps a route. -/
def State.routeUp (s : State) (m : Nat) : Bool :=
  match s.route m with
  | some v => (routePorts v).any (fun p => (s.link (portKey p)).state == .up || (s.link (portKey p)).state == .retraining)
  | none => false

/-- The ports that the route table gives for a module. -/
def State.portsTo (s : State) (m : Nat) : List Nat := ((s.route m).map routePorts).getD []

/-- The ports of a list in the order in which the flits of one of them try them: the next after it first (R339). -/
def portsAfter (ps : List Nat) (p : Nat) : List Nat :=
  let i := ps.idxOf p
  ps.drop (i + 1) ++ ps.take (i + 1)

/-- The port of a list that carries what goes by one of it: that one, unless it has left UP for DOWN or DISABLED, then the next UP port
of the list (R339); while none is UP it is the one that it was. -/
def State.portNow (s : State) (ps : List Nat) (q : Nat) : Nat :=
  let st := (s.link (portKey q)).state
  if st = .up ∨ st = .retraining then q else ((portsAfter ps q).find? (fun k => s.linkUp (portKey k))).getD q

/-- The port that a path takes to a module: port n mod c of the entry's list (R338, R340), or the one that stands in for it (R339). -/
def State.portFor (s : State) (m path : Nat) : Option Nat :=
  let ps := s.portsTo m
  (ps[path % ps.length]?).map (s.portNow ps)

/-- The port of a packet once links have changed (R339, R340): of the list that it had at its issue. -/
def State.reroute (s : State) (p : Packet) : Packet := { p with port := p.port.map (s.portNow p.ports) }

/-- A packet's own module is the sender's. -/
def State.fromHere (s : State) (p : Packet) : Bool := p.smodule == s.module_.toNat

/-- The core that a packet goes to on this module (R338): the entry core of its port, of its stack, of the host link, or the core
whose LM it reaches. -/
def Packet.target (p : Packet) : Nat :=
  match p.port with
  | some q => portEntry q
  | none => match p.kind with
    | .store _ | .load | .amo _ _ => if isHbm p.flat then stackEntry (stackOf p.flat) else p.core
    | _ => p.core

/-- A droop holds what goes into the LM, the inbox or a Hinge block of a packet's target core (R420). -/
def State.held (s : State) (p : Packet) : Bool :=
  s.drooping p.core && (isLm p.flat || match p.kind with
    | .msg | .push => true
    | _ => false)

/-- A near access: it goes through the crossbar of its cluster (R17). -/
def Packet.near (p : Packet) : Bool :=
  match p.kind with
  | .near | .nearLoad => true
  | _ => false

/-- The links of a packet's path carry it to its target (R334, R337-R339, R420). One of another module has crossed its port. A near
access needs none, and a droop, which holds crossings to the mesh and to the cluster cache, does not hold it (R17). An operation without
a path of its own, a background push among them (R358 promises none), takes path 0 (DESIGN CHOICE, assumption 93). -/
def State.carried (s : State) (p : Packet) : Bool :=
  p.near || !(p.port.isNone && s.held p) && (!s.fromHere p ||
    (s.meshCarries (p.path.getD 0) p.src.core p.target && (match p.port with
      | some q => s.linkUp (portKey q)
      | none => p.module_.isNone)))

/-- The links of a path to a core or to a module carry traffic. -/
def State.pathUp (s : State) (path src : Nat) (m : Option Nat) (core : Nat) : Bool :=
  match m with
  | none => s.meshCarries path src core && !s.drooping core
  | some m => match s.portFor m path with
    | some q => s.meshCarries path src (portEntry q) && s.linkUp (portKey q)
    | none => false

/-- The entry of a module follows its routes and its lock: JOINING to UP once it is reachable in lock, UP to JOINING on the loss
of either; each entry into UP adds 1 to EPOCH. The time source is in lock at all times (R341). -/
def State.settleMod (s : State) (m : Nat) (e : ModEnt) : ModEnt :=
  let r := s.routeUp m
  let ok := r && (e.lock || m == s.timeSource)
  let e1 := { e with downAt := if r then none else some (e.downAt.getD s.time.toNat) }
  match e.state with
  | .joining => if ok then { e1 with state := .up, epoch := e.epoch + 1 } else e1
  | .up => if ok then e1 else { e1 with state := .joining }
  | _ => e1

def State.settleModules (s : State) : State :=
  { s with modules := AMap.mapVals s.modules s.settleMod, net := AMap.mapVals s.net (fun _ p => s.reroute p) }

/-- MFAILNS. -/
def State.mfailns (s : State) : Nat := (s.ctl moduleBlock).toNat

end Sys2Proof.Machine
end

