-- ==== Sys2Proof/Machine/Mmio.lean ====
section
/-!
DEFINITION. Control registers as the control cores, the host and strands read and write them (R226, R246, R276, R340-R342,
R404, R406, R409, R411, R414-R416, R425), and the fault rings (R409).
-/
namespace Sys2Proof.Machine

/-! ## States of a context (R219, R220) -/

/-- A context is RUNNING: a core of its allotment is RESTORING, ACTIVE or SAVING for it (R219). -/
def Ctx.running (c : Ctx) : Bool := c.cores.any (fun e => e.2 != .away)
/-- Some context of some partition is RUNNING. -/
def State.anyRunning (s : State) : Bool := s.contexts.any (fun e => e.2.alive && e.2.running)

/-! ## Fault rings (R409) -/

def State.ringBase (s : State) (d : Nat) : Nat := (s.ctl (dieBlock d + 0x20)).toNat
def State.ringCap (s : State) (d : Nat) : Nat := (s.ctl (dieBlock d + 0x28)).toNat
def State.ringHead (s : State) (d : Nat) : Nat := (s.ctl (dieBlock d + 0x30)).toNat
def State.ringTail (s : State) (d : Nat) : Nat := (s.ctl (dieBlock d + 0x38)).toNat
/-- TAIL - HEAD equals the capacity. -/
def State.ringFull (s : State) (d : Nat) : Bool := s.ringTail d == s.ringHead d + s.ringCap d

/-- Entries written at TAIL, in order, while the ring has room; those left over. -/
def State.ringWrite (s : State) (d : Nat) : List (BitVec 512 × BitVec 512) → State × List (BitVec 512 × BitVec 512)
  | [] => (s, [])
  | e :: t =>
    if s.ringFull d then (s, e :: t)
    else
      let a := s.ringBase d + 128 * (s.ringTail d % s.ringCap d)
      let s1 := (s.write a 64 e.1.toNat).write (a + 64) 64 e.2.toNat
      (s1.setCtl (dieBlock d + 0x38) (BitVec.ofNat 64 (s.ringTail d + 1))).ringWrite d t

/-- The reports that wait for a ring, written as far as it has room. -/
def State.drainRing (s : State) (d : Nat) : State :=
  let (s1, left) := s.ringWrite d (AMap.get [] s.reports d)
  { s1 with reports := AMap.put s1.reports d left }

/-- What an entry of a fault ring says (R317, R409). -/
structure Report where
  kind   : Nat
  cause  : Nat := 0
  va     : Word := 0
  pc     : Word := 0
  eng    : Nat := 0
  strand : Nat := 0
  eslot  : Nat := 0
  ctx    : Nat := 0
  core   : Nat := 0
  level  : Nat := 0
  entry  : Word := 0
  prog1  : Word := 0
  prog2  : Word := 0
  deriving DecidableEq, Repr

/-- A report to the fault ring of a die: it is written at once, or waits its turn (R409). -/
def State.report (s : State) (die : Nat) (r : Report) : State :=
  let t : Trap := { code := .illop, cause := r.cause, va := r.va, kind := r.kind, level := r.level, entry := r.entry,
                    prog1 := r.prog1, prog2 := r.prog2 }
  let e := (faultRecord t r.pc r.ctx r.core r.strand r.eng r.eslot, trapTail 0xFF 0 0 0)
  { s with reports := AMap.put s.reports die (AMap.get [] s.reports die ++ [e]) }.drainRing die

/-- A refused control write (KIND 13). -/
def State.refuse (s : State) (die pa : Nat) : State := s.report die { kind := 13, va := BitVec.ofNat 64 pa }

/-! ## Gang-switch plans (R226, R227) -/

def State.planHead (s : State) (d : Nat) : Nat := (s.ctl (dieBlock d + 0x58)).toNat
def State.planTail (s : State) (d : Nat) : Nat := (s.ctl (dieBlock d + 0x50)).toNat
def State.planCap (s : State) (d : Nat) : Nat := (s.ctl (dieBlock d + 0x48)).toNat
/-- Physical address of entry n. -/
def State.planAddr (s : State) (d n : Nat) : Nat := (s.ctl (dieBlock d + 0x40)).toNat + 64 * (n % s.planCap d)
def State.planRect (s : State) (d n : Nat) : Nat := s.read (s.planAddr d n + 0x10) 4

/-- What the partition table has given a partition (R423): nothing to one that it does not list. -/
def State.part (s : State) (p : Nat) : PartRow := AMap.get ⟨BitVec.ofNat 4 p, [], [], []⟩ s.parts p

/-- A rectangle of cores in a partition (R423; the rectangles are those of the partition's boot record). -/
def State.inPart (s : State) (part c : Nat) : Bool := (s.part part).rects.any (fun r => inRect r.toNat c)

/-- An entry the control cores accept: a rectangle of the die, in the partition of each context that it names; R227 says 'the partition'
(DESIGN CHOICE, assumption 85). -/
def State.planOk (s : State) (d n : Nat) : Bool :=
  let r := s.planRect d n
  let w := s.readW (s.planAddr d n + 8)
  let names := [bits w 15 0, bits w 31 16].filter (fun c => c != 0xFFFF)
  decide (field r 7 0 ≤ field r 23 16 ∧ field r 15 8 ≤ field r 31 24 ∧ field r 31 24 < 128) &&
  (rectCores r).all (fun c => dieOf c == d && names.all (fun x => s.inPart (s.ctxPart x) c))

/-- PLANHEAD advances past the entries on which every core has acted (R226). -/
def State.advancePlan (s : State) (d : Nat) : Nat → State
  | 0 => s
  | n + 1 =>
    let h := s.planHead d
    if h < s.planTail d ∧ !(s.plans.any (fun p => p.die == d && p.n == h)) then
      (s.setCtl (dieBlock d + 0x58) (BitVec.ofNat 64 (h + 1))).advancePlan d n
    else s

/-- Entries from PLANTAIL on posted, each checked (R226, R227). One whose T has passed on arrival is late. A refused entry is
reported as a discarded control write with its address: the spec names no report for it (DESIGN CHOICE, assumption 57). -/
def State.postPlans (s : State) (d n : Nat) : Nat → State
  | 0 => s
  | k + 1 =>
    let late := decide (s.readW (s.planAddr d n) < s.time)
    let s1 : State := if s.planOk d n then { s with plans := s.plans ++ [{ die := d, n := n, late := late, acted := [] }] }
                      else s.refuse d (s.planAddr d n)
    s1.postPlans d (n + 1) k

/-! ## The map (R415) -/

/-- A control register. -/
inductive CReg where
  | die (d off : Nat)
  | trapReg (d off : Nat)
  | watch (core off : Nat)
  | cluster (cl off : Nat)
  | doorbell (d k : Nat)
  | module_ (off : Nat)
  | nothing
  deriving DecidableEq, Repr

/-- The register of a dword of the MMIO range. -/
def cregAt (pa : Nat) : CReg :=
  if mmioBase ≤ pa ∧ pa < dieBlock 8 then
    let d := (pa - mmioBase) / 0x1_0000_0000
    let o := (pa - mmioBase) % 0x1_0000_0000
    if o < 0x60 then .die d o
    else if 0x1000 ≤ o ∧ o < 0x1200 then .trapReg d (o - 0x1000)
    else if 0x10_0000 ≤ o ∧ o < 0x14_0000 then
      let i := (o - 0x10_0000) / 0x40
      if o % 0x40 < 0x20 then .watch (coreAt (d % 4 * 64 + i % 64) (d / 4 * 64 + i / 64)) (o % 0x40) else .nothing
    else if 0x20_0000 ≤ o ∧ o < 0x20_4000 then
      let i := (o - 0x20_0000) / 0x40
      .cluster (clusterOf (coreAt (d % 4 * 64 + i % 4 * 16) (d / 4 * 64 + i / 4))) (o % 0x40)
    else if 0x30_0000 ≤ o ∧ o < 0x30_0400 then .doorbell d ((o - 0x30_0000) / 0x10)
    else .nothing
  else if moduleBlock ≤ pa ∧ pa < moduleBlock + 0x900 then
    let o := pa - moduleBlock
    if o < 0x18 ∨ 0x100 ≤ o then .module_ o else .nothing
  else .nothing

/-- MARGIN and LIFE as measured: a free value where no scan has refreshed them (R414). -/
def measured (n : Nat) : Word := setBits (Config.freeValue n) 63 48 0

/-- A dword of the MMIO range as read: zero where there is no register (R311). -/
def State.mmioRead (s : State) (pa : Nat) : Word :=
  match cregAt pa with
  | .nothing => 0
  | .doorbell _ _ => 0
  | .cluster _ 0 => AMap.get (measured pa) s.mmio pa
  | .module_ 0x10 => BitVec.ofNat 64 s.feature2.toNat
  | _ => s.ctl pa

/-- A value in a range, or refused. -/
def State.ranged (s : State) (ring pa : Nat) (v : Word) (ok : Bool) : State := if ok then s.setCtl pa v else s.refuse ring pa

/-- A power of two between two bounds. -/
def isPow2 (v lo hi : Nat) : Bool := decide (lo ≤ v ∧ v ≤ hi) && v == 2 ^ Nat.log2 v

/-- The ports a route entry names are distinct among the first c (R340). -/
def routeOk (v : Word) : Bool :=
  let c := bits v 49 48 + 1
  let ps := (List.range c).map (fun k => bits v (5 * k + 4) (5 * k))
  bits v 62 50 == 0 && bits v 31 20 == 0 && ps.eraseDups.length == c

/-- FEATREQ (R425): accepted while no context is RUNNING; every unit of FEATURE1 is present. -/
def State.featReq (s : State) (ring pa : Nat) (v : Word) : State :=
  if bits v 63 8 ≠ 0 ∨ s.anyRunning then s.refuse ring pa else { s with feature2 := v.setWidth 8 }

/-- PLANTAIL (R226). -/
def State.writePlanTail (s : State) (ring d pa : Nat) (v : Word) : State :=
  let t := s.planTail d
  if v.toNat < t ∨ s.planHead d + s.planCap d < v.toNat then s.refuse ring pa
  else ((s.setCtl pa v).postPlans d t (v.toNat - t)).advancePlan d (v.toNat - s.planHead d)

/-- A base or capacity of a fault ring (R409): only while the ring is empty; HEAD and TAIL become 0. -/
def State.ringConfig (s : State) (ring d pa : Nat) (v : Word) (ok : Bool) : State :=
  if s.ringHead d ≠ s.ringTail d ∨ !ok then s.refuse ring pa
  else (((s.setCtl pa v).setCtl (dieBlock d + 0x30) 0).setCtl (dieBlock d + 0x38) 0).drainRing d

/-- HEAD of a fault ring (R409). -/
def State.ringHeadWrite (s : State) (ring d pa : Nat) (v : Word) : State :=
  if v.toNat < s.ringHead d ∨ s.ringTail d < v.toNat then s.refuse ring pa else (s.setCtl pa v).drainRing d

/-- A dword written to the MMIO range (R415). `ring` is the die whose ring a refused write to the module block is
reported to; a write that comes over the host link gives 0 for every block. -/
def State.mmioWrite (s : State) (ring : Option Nat) (wdie pa : Nat) (v : Word) : State :=
  match cregAt pa with
  | .die d o =>
    let rg := ring.getD d
    match o with
    | 0x00 =>
      if 1000 ≤ v.toNat ∧ v.toNat ≤ 1000000 then
        { s with tslice := AMap.put s.tslice d (AMap.get (s.ctl pa).toNat s.tslice d), mmio := AMap.put s.mmio pa v }
      else s.refuse rg pa
    | 0x08 => s.ranged rg pa v (decide (1 ≤ v.toNat ∧ v.toNat ≤ 100))
    | 0x10 => s.ranged rg pa v (decide (20000 ≤ v.toNat ∧ v.toNat ≤ 1000000))
    | 0x18 => s.ranged rg pa v (decide (v.toNat ≤ 4095))
    | 0x20 => s.ringConfig rg d pa v true
    | 0x28 => s.ringConfig rg d pa v (isPow2 v.toNat 64 (2 ^ 20))
    | 0x30 => s.ringHeadWrite rg d pa v
    | 0x40 => s.setCtl pa v
    | 0x48 => s.ranged rg pa v (isPow2 v.toNat 16 4096)
    | 0x50 => s.writePlanTail rg d pa v
    | _ => s
  | .trapReg d o => s.ranged (ring.getD d) pa v (if o % 0x10 = 0 then v.toNat % 0x1000 == 0 else v.toNat % 0x100_0000 == 0)
  | .watch c o =>
    s.ranged (ring.getD (dieOf c)) pa v
      (o % 0x10 == 0 || (bits v 56 6 == 0 && decide (2 ≤ bits v 5 0 ∧ bits v 5 0 ≤ 56)))
  | .cluster cl o =>
    let rg := ring.getD (dieOf (clusterCore cl 0))
    match o with
    | 0x00 => if bits v 63 48 ≠ 0 then s.refuse rg pa else s
    | 0x18 =>
      if bits v 47 16 ≠ 0 then s.refuse rg pa else s.setCtl pa (setBits (s.ctl pa) 15 0 (bits v 15 0))
    | 0x20 => s.setCtl pa v
    | 0x28 =>
      if bits v 63 16 = 0 ∧ 550 ≤ v.toNat ∧ v.toNat ≤ 850 ∧ v.toNat % 10 = 0 then (s.setCtl pa v).commitVolts cl v.toNat
      else s.refuse rg pa
    | 0x38 =>
      if bits v 63 48 ≠ 0 ∨ bits v 31 18 ≠ 0 then s.refuse rg pa
      else if bit v 17 then s else s.setPow cl 17 17 0
    | _ => s
  | .doorbell d _ => s.report (ring.getD d) { kind := 15, va := BitVec.ofNat 64 pa }
  | .module_ o =>
    let rg := ring.getD wdie
    match o with
    | 0x00 => s.ranged rg pa v (decide (1000 ≤ v.toNat ∧ v.toNat ≤ 1000000000))
    | 0x08 => (s.ranged rg pa v (bits v 63 16 == 0)).settleModules
    | 0x10 => s.featReq rg pa v
    | _ => (s.ranged rg pa v (routeOk v)).settleModules
  | .nothing =>
    let d := if mmioBase ≤ pa ∧ pa < dieBlock 8 then (pa - mmioBase) / 0x1_0000_0000 else wdie
    s.refuse (ring.getD d) pa

/-- BAR0 exposes the windows that Roloskar has granted to the host, BAR2 the doorbells (R422). -/
def State.hostSees (s : State) (pa : Nat) : Bool :=
  s.hostWindows.any (fun e => decide (e.1.toNat ≤ pa ∧ pa < e.1.toNat + e.2.toNat)) || match cregAt pa with
    | .doorbell _ _ => true
    | _ => false

/-- A dword written to the MMIO range by a core of a die, or over the host link, which reaches what it exposes. -/
def State.mmioFrom (s : State) (die : Nat) (host : Bool) (pa : Nat) (v : Word) : State :=
  if host then (if s.hostSees pa then s.mmioWrite (some 0) die pa v else s) else s.mmioWrite none die pa v

/-- The n bytes from pa of the MMIO range read, within one dword. -/
def State.mmioGet (s : State) (pa n : Nat) : Nat := (s.mmioRead (pa / 8 * 8)).toNat / 2 ^ (8 * (pa % 8)) % 2 ^ (8 * n)

/-- n bytes written at pa, within one dword: the other bytes of the register are those it reads (assumption 22). -/
def State.mmioPut (s : State) (core pa n v : Nat) : State :=
  let lo := 8 * (pa % 8)
  s.mmioWrite none (dieOf core) (pa / 8 * 8) (setBits (s.mmioRead (pa / 8 * 8)) (lo + 8 * n - 1) lo v)

/-! ## Watchpoints (R406) -/

/-- Base and control of watchpoint i of a core. -/
def watchAddr (core i : Nat) : Nat :=
  dieBlock (dieOf core) + 0x10_0000 + 0x40 * (64 * (coreY core % 64) + coreX core % 64) + 0x10 * i

/-- A strand's access of n bytes from an address touches an armed range: kind 57 read, 58 write, 59 fetch. -/
def State.watched (s : State) (w : Who) (va : Word) (n kind : Nat) : Bool :=
  [0, 1].any (fun i =>
    let ctl := s.ctl (watchAddr w.core i + 8)
    let size := 2 ^ bits ctl 5 0
    let base := (s.ctl (watchAddr w.core i)).toNat / size * size
    bit ctl kind && bit ctl (60 + w.strand) && decide (va.toNat < base + size ∧ base < va.toNat + n))

def Trap.watch (va : Word) (kind : Nat) : Trap := { code := .watch, va := va, kind := kind }

end Sys2Proof.Machine
end

