-- ==== Sys2Proof/Machine/Access.lean ====
section
/-!
DEFINITION. Accesses of strands (R143-R153, R158-R161, R284, R356, R407, R408): places, their checks, storage errors, reads
and writes at a place, early readings (R209-R213), remote operations on their way, and what a sync object covers (R148-R151, R168).
-/
namespace Sys2Proof.Machine

/-! ## Storage errors (R407, R408) -/

/-- The CAUSE a read of a unit meets, as a strand of a cluster reads it: in the cluster's cache where it may be there, else at its home. A
line of the cache in error whose home is in error too came so from there; any other is a written one (R407). -/
def State.unitCause (s : State) (cl : Nat) (cached : Bool) (u : Nat) : Option Nat :=
  let home := s.homeCause u 1
  match if isLm u then none else s.line cl (u / 64) with
  | none => home
  | some l =>
    if cached || l.dirty != 0 then (if l.bad then (if s.badUnits.contains u then some 28 else some 31) else if cached then none else home)
    else home

/-- The CAUSE a read of n bytes meets: of the first unit in error. -/
def State.eccCause (s : State) (cl flat n : Nat) (cached : Bool := false) : Option Nat :=
  if s.badUnits = [] ∧ s.poisoned = [] ∧ !(s.cache cl).any (fun l => l.2.bad) then none
  else (unitsOf flat n).findSome? (s.unitCause cl cached)

/-- A write of n bytes clears the errors of the units it covers whole (R408). -/
def State.clearUnits (s : State) (flat n : Nat) : State :=
  if s.badUnits = [] ∧ s.poisoned = [] then s
  else
    let k := if isLm flat then 8 else 64
    let whole (u : Nat) : Bool := decide (flat ≤ u ∧ u + k ≤ flat + n)
    { s with badUnits := s.badUnits.filter (fun u => !whole u), poisoned := s.poisoned.filter (fun u => !whole u) }

/-- A store narrower than its word into an LM word in error (R407). -/
def State.narrowBad (s : State) (flat n : Nat) : Bool :=
  isLm flat && (unitsOf flat n).any (fun u => s.badUnits.contains u && !decide (flat ≤ u ∧ u + 8 ≤ flat + n))

/-! ## Places -/

/-- Where the bytes of an access lie for the accessing strand. -/
inductive Place where
  | lm (flat : Nat)
  | away (core off : Nat)
  | hbm (pa : Nat) (sync : Bool)
  | host (flat : Nat)
  | peer (m flat : Nat) (sync : Bool)
  | mmio (pa : Nat)
  deriving DecidableEq, Repr

/-- A name, among flat addresses, of an LM offset of a core as operations on their way carry it: window offsets, whose
physical byte is found at the target, stand apart. -/
def awayFlat (c off : Nat) : Nat := lmFlat c (if off < 0x20000 then off else 0x80000 + off)

/-- The state of a context on a core: the live one, or the one kept while it is away. -/
def State.ctxCore (s : State) (ctx core : Nat) : CoreCtx :=
  if (s.core core).ctx = some ctx then s.live core else AMap.get CoreCtx.fresh s.saved (2 ^ 16 * core + ctx)

/-- The flat address that names a sync object at a place for every strand (R148, R168): of an LM window position, the physical
byte that the strand of the group holds there; where none holds it, the name of the offset. -/
def State.objFlat (s : State) (w : Who) (p : Place) : Nat :=
  match p with
  | .lm f => f
  | .away c off =>
    if off < 0x20000 then lmFlat c off
    else
      let l := s.ctxCore (s.ctxOf w.core) c
      match (s.strand w).job with
      | none => awayFlat c off
      | some j => match (List.range 4).find? (fun n => (l.strand n).job == some j && (l.strand n).run == .running) with
        | some n => ((lmPhys (l.strand n).hold off).map (lmFlat c)).getD (awayFlat c off)
        | none => awayFlat c off
  | .hbm pa _ => pa
  | .host f => f
  | .peer _ f _ => f
  | .mmio pa => pa

/-- The flat address of a place. -/
def Place.flat : Place → Nat
  | .lm f => f
  | .away c o => awayFlat c o
  | .hbm pa _ => pa
  | .host f => f
  | .peer _ f _ => f
  | .mmio pa => pa

/-- The place of a target; none for a position of the strand's own window that is not held (R284). -/
def State.place (s : State) (w : Who) : Target → Option Place
  | .lm c off => if c = w.core then (lmPhys (s.strand w).hold off).map (fun p => .lm (lmFlat c p)) else some (.away c off)
  | .hbm pa sy => some (.hbm pa sy)
  | .peer m a sy => some (.peer m (peerFlat m a) sy)
  | .host a => some (.host (hostFlat a))
  | .mmio pa => some (.mmio pa)

/-- One piece of an access: its address, its length, its translation, its place. -/
structure Piece where
  va    : Word
  n     : Nat
  x     : Xlat
  at_   : Place
  deriving DecidableEq, Repr

/-- A place in the memory of a FAILED module (R343). -/
def State.deadPeer (s : State) (p : Place) : Bool :=
  match p with
  | .peer m _ _ => (s.modEnt m).state == .failed
  | _ => false

/-- Nothing is filled for a page of a FAILED module: the store fails its service (R320, R343). -/
def State.unclaimed (s : State) (p : Piece) : Piece := if s.deadPeer p.at_ then { p with x := { p.x with claim := false } } else p

/-- Every page translated, in the order of the list (R143). -/
def State.translateAll (s : State) (w : Who) (k : Acc) (al : Allow) : List (Word × Nat) → Except Trap (List (Word × Nat × Xlat))
  | [] => .ok []
  | (va, n) :: t =>
    match s.translate w va k al with
    | .error e => .error e
    | .ok x =>
      match s.translateAll w k al t with
      | .error e => .error e
      | .ok r => .ok ((va, n, x) :: r)

/-- Pieces in ascending order of address. -/
def vaInsert (x : Word × Nat) : List (Word × Nat) → List (Word × Nat)
  | [] => [x]
  | y :: t => if x.1.toNat ≤ y.1.toNat then x :: y :: t else y :: vaInsert x t
def vaSort (ps : List (Word × Nat)) : List (Word × Nat) := ps.foldr vaInsert []

/-- The pieces of an access that translates in ascending order of address and then finds its window and no Hinge block
(R143, R284, R356). -/
def State.places (s : State) (w : Who) (k : Acc) (al : Allow) (ps : List (Word × Nat)) : Except Trap (List Piece) :=
  match ps.find? (fun p => canonVa p.1 != p.1) with
  | some p => .error (xlatTrap 1 0 0 p.1 k)
  | none =>
  match s.translateAll w k al (vaSort ps) with
  | .error e => .error e
  | .ok _ =>
    match s.translateAll w k al ps with
    | .error e => .error e
    | .ok xs =>
      match xs.find? (fun x => (s.place w x.2.2.tgt).isNone) with
      | some x => .error (xlatTrap 8 x.2.2.ent.level x.2.2.ent.entry x.1 k)
      | none =>
        let r := xs.filterMap (fun x => (s.place w x.2.2.tgt).map (fun p => { va := x.1, n := x.2.1, x := x.2.2, at_ := p : Piece }))
        match r.find? (fun p => k.writes && match p.at_ with
            | .lm f => (s.live w.core).hingeCovers (f - lmFlat w.core 0) p.n
            | _ => false) with
        | some p => .error (xlatTrap 11 p.x.ent.level p.x.ent.entry p.va k)
        | none => .ok (r.map s.unclaimed)

/-- Pieces that no armed watchpoint matches (R406). -/
def State.unwatched (s : State) (w : Who) (k : Acc) (r : List Piece) : Except Trap (List Piece) :=
  match r.find? (fun p => s.watched w p.va p.n (if k.writes then 58 else 57) || (k == .atomic && s.watched w p.va p.n 57)) with
  | some p => .error (.watch p.va k.code)
  | none => .ok r

/-- The pieces of an access with every check that comes before ECC. -/
def State.pieces (s : State) (w : Who) (k : Acc) (al : Allow) (ps : List (Word × Nat)) : Except Trap (List Piece) :=
  match s.places w k al ps with
  | .error e => .error e
  | .ok r => s.unwatched w k r

/-- Every piece lies in the executing core's own LM. -/
def allLm (ps : List Piece) : Bool := ps.all (fun p => match p.at_ with | .lm _ => true | _ => false)
/-- Class 3 or class 4 (R142). -/
def memEu (ps : List Piece) : Nat := if allLm ps then 4 else 40

/-- The state once the pieces have translated. -/
def State.useAll (s : State) (w : Who) (ps : List Piece) : State := ps.foldl (fun acc p => acc.useXlat w p.x) s

/-! ## What is on its way (R145, R159, R160) -/

/-- Two ranges share a byte; a window offset of a core and another offset of it may name one byte. -/
def overlap (f1 n1 f2 n2 : Nat) : Bool :=
  if isLm f1 && isLm f2 && lmCore f1 == lmCore f2 &&
      (decide (0x80000 ≤ f1 % 2 ^ 20) ^^ decide (0x80000 ≤ f2 % 2 ^ 20)) then true
  else decide (f1 < f2 + n2 ∧ f2 < f1 + n1)

/-- A kind of operation that writes its target. -/
def PktKind.isStore : PktKind → Bool
  | .store _ | .near | .row => true
  | _ => false

/-- The operations of a strand of a start, on their way, that have not been acknowledged. -/
def State.mineOf (s : State) (w : Who) (b : Nat) : List (Nat × Packet) :=
  s.net.filter (fun e => e.2.src == w && e.2.birth == b && e.2.smodule == s.module_.toNat)
def State.mine (s : State) (w : Who) : List (Nat × Packet) := s.mineOf w (s.strand w).birth

/-- A load that has not read overlaps some bytes. -/
def State.loadAhead (s : State) (w : Who) (flat n : Nat) : Bool :=
  (s.strand w).loads.any (fun l => l.pkt.isNone && l.val.isNone && overlap l.flat l.bytes flat n)

/-- An access of a strand to some bytes, on its way, that a later one of it waits for (R145): a read waits for the acknowledgement of a
remote store, a write until that store has landed; either waits for an atomic or a load that has not read. -/
def Packet.ahead (p : Packet) (write : Bool) (flat n : Nat) : Bool :=
  overlap p.flat p.bytes flat n && match p.kind with
    | .store _ | .near | .row => !write || !p.landed
    | .load | .nearLoad | .amo _ _ => !p.landed
    | _ => false

/-- An earlier access of a strand to the same bytes that has not performed (R145). -/
def State.behind (s : State) (w : Who) (write : Bool) (flat n : Nat) : Bool :=
  (s.mine w).any (fun e => e.2.ahead write flat n) || s.loadAhead w flat n

/-- The xfer operations of a strand that may still read their sources (R214). -/
def State.xfersOf (s : State) (w : Who) : List XferRec :=
  (s.live w.core).xfers.filterMap (fun e => match e.2 with
    | some r => if r.strand = w.strand ∧ r.left.isNone then some r else none
    | none => none)

/-- The flat ranges that n bytes from a virtual address of a context map to, live frame and claimed shadow frame. -/
def State.rangesOf (s : State) (ctx : Nat) : Nat → Nat → Nat → List (Nat × Nat)
  | 0, _, _ => []
  | fuel + 1, va, n =>
    if n = 0 then []
    else
      match walk s ctx (BitVec.ofNat 64 va) with
      | .leaf e _ slot z =>
        let sz := pageSize z
        let off := va % sz
        let k := min n (sz - off)
        let at_ (e : Word) : Nat := match leafTarget e off with
          | .lm c o => awayFlat c o
          | _ => frameFlat e + off
        let rest := s.rangesOf ctx fuel (va + k) (n - k)
        if pteSp e then (at_ e, k) :: (at_ (s.shadowWord slot), k) :: rest else (at_ e, k) :: rest
      | .stop _ _ _ =>
        let k := min n (4096 - va % 4096)
        s.rangesOf ctx fuel (va + k) (n - k)

/-- An xfer of the strand may still read some bytes: a later load of them waits, so that it returns nothing older than the
xfer has read (R209, R214). -/
def State.xferReads (s : State) (w : Who) (flat n : Nat) : Bool :=
  (s.xfersOf w).any (fun r =>
    let sp := (LRec.of r.src).range
    (s.rangesOf (s.ctxOf w.core) (sp.2 / 4096 + 2) sp.1 sp.2).any (fun x => overlap x.1 x.2 flat n))

/-- An access that performs where it issues must wait for an earlier one of its strand to the same bytes (R145, R214). -/
def State.mustWait (s : State) (w : Who) (write : Bool) (flat n : Nat) : Bool :=
  s.behind w write flat n || (!write && s.xferReads w flat n)

/-- The same for a write that leaves as a remote operation: stores to the same bytes land in order at their target (R160). -/
def State.mustWaitSend (s : State) (w : Who) (flat n : Nat) : Bool :=
  (s.mine w).any (fun e => overlap e.2.flat e.2.bytes flat n && !e.2.landed &&
    match e.2.kind with
    | .load | .nearLoad | .amo _ _ => true
    | _ => false) ||
  s.loadAhead w flat n

/-- The number of operations outstanding on a path, and those acknowledged (R105). -/
def Strand.pack (st : Strand) (n : Nat) : Word :=
  if n = 0 then st.pack0 else if n = 1 then st.pack1 else if n = 2 then st.pack2 else st.pack3
def Strand.setPack (st : Strand) (n : Nat) (v : Word) : Strand :=
  if n = 0 then { st with pack0 := v } else if n = 1 then { st with pack1 := v }
  else if n = 2 then { st with pack2 := v } else { st with pack3 := v }
def packOut (v : Word) : Nat := bits v 63 32
def packAck (v : Word) : Nat := bits v 31 0

/-- AdaptivePath: the path with the smallest OUT, the lowest on a tie (R159). -/
def Strand.adaptive (st : Strand) : Nat :=
  (List.range 4).foldl (fun b n => if packOut (st.pack n) < packOut (st.pack b) then n else b) 0

/-- The links from a strand's core to the home of a place do not carry its operations now on a path (R334, R337-R339). -/
def State.cutOn (s : State) (path : Nat) (w : Who) (p : Place) : Bool :=
  match p with
  | .hbm pa _ => !s.meshCarries path w.core (stackEntry (stackOf pa))
  | .host _ => !s.meshCarries path w.core hostEntry
  | .mmio pa => !s.meshCarries path w.core (mmioEntry pa)
  | .peer m _ _ => !s.pathUp path w.core (some m) 0
  | _ => false

/-- The same on its adaptive path. -/
def State.cut (s : State) (w : Who) (p : Place) : Bool := s.cutOn (s.strand w).adaptive w p

/-- A flat address of a peer module's memory. -/
def isPeer (flat : Nat) : Bool := decide (2 ^ 64 ≤ flat ∧ flat < 2 ^ 90)

/-- The home of a line of a cluster cache. -/
def homeOf (flat : Nat) : Place :=
  if isHbm flat then .hbm flat false else if isPeer flat then .peer (flat / 2 ^ 64 - 1) flat false else .host flat

/-- A written line of a strand's cluster that cannot go home now: its links do not carry it, and its module has not FAILED (R335, R343). -/
def State.lineCut (s : State) (w : Who) (ln : Nat) : Bool :=
  (s.line (clusterOf w.core) ln).any (fun l => l.dirty != 0) && s.cut w (homeOf (64 * ln)) && !s.deadPeer (homeOf (64 * ln))

/-- A line that a cluster does not hold cannot come into its cache now: its links do not carry it, or the line that is to make room for it
cannot go home (R335). -/
def State.fillCut (s : State) (w : Who) (p : Place) : Bool :=
  (s.line (clusterOf w.core) (p.flat / 64)).isNone && (s.cut w p || (s.victim (clusterOf w.core)).any (s.lineCut w))

/-- The same for a write at a place; one that performs at its issue waits for its links too, one that stays in the cluster cache (R153)
for its line and the crossing to it (R335, R420). -/
def State.mustWaitAt (s : State) (w : Who) (p : Place) (n : Nat) : Bool :=
  match p with
  | .away _ _ | .peer _ _ _ => s.mustWaitSend w p.flat n
  | .mmio _ => s.mustWait w true p.flat n || s.cut w p
  | .hbm _ false | .host _ => s.mustWait w true p.flat n || s.drooping w.core || s.fillCut w p
  | .hbm _ true => s.mustWait w true p.flat n || (!(s.strand w).late && s.cut w p)
  | _ => s.mustWait w true p.flat n

/-- The same for a write that performs at a home, past the cluster cache (R163, R167). -/
def State.mustWaitHome (s : State) (w : Who) (p : Place) (n : Nat) : Bool :=
  match p with
  | .away _ _ | .peer _ _ _ => s.mustWaitSend w p.flat n
  | _ => s.mustWait w true p.flat n

/-- The same for a piece of a write; one that claims its page stores at home with the fill, over its links (R320). -/
def State.pieceWaits (s : State) (w : Who) (p : Piece) (n : Nat) : Bool := s.mustWaitAt w p.at_ n || (p.x.claim && s.cut w p.at_)

/-- OUT rises by 1 on a path. -/
def State.packUp (s : State) (w : Who) (n : Nat) : State :=
  let st := s.strand w
  s.setStrand w (st.setPack n (setBits (st.pack n) 63 32 (packOut (st.pack n) + 1)))
/-- OUT falls and ACK rises by 1, modulo 2^32. -/
def State.packDown (s : State) (w : Who) (n : Nat) : State :=
  let st := s.strand w
  let v := setBits (st.pack n) 63 32 (packOut (st.pack n) - 1)
  s.setStrand w (st.setPack n (setBits v 31 0 (packAck v + 1)))
/-- OUT falls: an offer is withdrawn (R159). -/
def State.packBack (s : State) (w : Who) (n : Nat) : State :=
  let st := s.strand w
  s.setStrand w (st.setPack n (setBits (st.pack n) 63 32 (packOut (st.pack n) - 1)))

/-- A packet of a strand with the fields every kind fills. -/
def State.packet (s : State) (w : Who) (kind : PktKind) (path : Option Nat) : Packet :=
  let st := s.strand w
  { kind := kind, va := 0, ent := .none_, points := st.points, port := none, ports := [],
    ctx := s.ctxOf w.core, gang := s.ctxGang (s.ctxOf w.core), smodule := s.module_.toNat, src := w,
    job := st.job, seq := st.seq, birth := st.birth, path := path, pc := st.pc, module_ := none, core := 0, off := 0, flat := 0, bytes := 0,
    data := 0, cmp := 0, ret := false, landed := false, held := false, full := false, refused := false, poison := 0, hseq := 0,
    hid := 0, expiry := 0, mass := 0, expo := 0, vals := [] }

/-- A packet to a position of its own core's LM names the physical byte that its strand holds there (R284). -/
def State.ownByte (s : State) (w : Who) (p : Packet) : Packet :=
  if isLm p.flat ∧ p.core = w.core ∧ 0x20000 ≤ p.off then
    match lmPhys (s.strand w).hold p.off with
    | some q => { p with flat := lmFlat w.core q }
    | none => p
  else p

/-- What leaves for another module has its port and its list of ports from then on (R338-R340); without a path of its own it goes as path 0
does (assumption 93). -/
def State.routed (s : State) (p : Packet) : Packet :=
  match p.module_ with
  | some m => { p with port := s.portFor m (p.path.getD 0), ports := s.portsTo m }
  | none => p

/-- An operation leaves the core: it is counted on its path (R158, R159). -/
def State.send (s : State) (w : Who) (p : Packet) : State :=
  let p1 := s.routed (if p.module_.isNone then s.ownByte w p else p)
  let s1 : State := { s with net := AMap.put s.net s.nextId p1, nextId := s.nextId + 1 }
  let st := s1.strand w
  let s2 := s1.setStrand w { st with seq := st.seq + 1 }
  match p.path with
  | some n => s2.packUp w n
  | none => s2

/-- A packet aimed at a place. -/
def Packet.aim (p : Packet) (a : Place) (n : Nat) : Packet :=
  match a with
  | .away c o => { p with core := c, off := o, flat := awayFlat c o, bytes := n }
  | .peer m f _ => { p with module_ := some m, flat := f, bytes := n }
  | a => { p with flat := a.flat, bytes := n }

/-! ## Homes -/

/-- The lines of a range leave the executing cluster's cache, written bytes first: an access that bypasses it (R153). -/
def State.bypass (s : State) (cl flat n : Nat) : State :=
  if isLm flat then s
  else (List.range ((flat + n - 1) / 64 + 1 - flat / 64)).foldl (fun acc i => acc.dropLine cl (flat / 64 + i)) s

/-- A line that another cluster owns is recalled, and that cluster's counter for it rises (R165). -/
def State.recall (s : State) (cl flat : Nat) : State :=
  match s.owners.lookup (flat / 64) with
  | some o =>
    if o = cl then s
    else
      let t := AMap.get [] s.predict o
      let i := flat / 64 % 256
      let v := AMap.get (0 : BitVec 2) t i
      { s with owners := AMap.del s.owners (flat / 64),
               predict := AMap.put s.predict o (AMap.put t i (if v = 3 then 3 else v + 1)) }
  | none => s

/-! ## Early readings and release points (R150, R151, R209-R213)

A strand may have read a line early: until it takes the line in, its plain loads return what it read then. A write that such a reading
has missed reaches it where a chain of release points and acquire points leads from the write to the strand, each of them covering the
line (R210): the reading holds the strands behind which such a write stands, and what they have released. -/

/-- What a plain load of n bytes of one line returns early through a virtual line, with the release points to whose sequences those bytes
belonged. -/
def State.earlyOf (s : State) (w : Who) (va : Word) (flat n : Nat) : Option (Nat × List Nat) :=
  match (s.strand w).early.lookup (flat / 64) with
  | some e =>
    if e.line = va.toNat / 64 then
      some (lineBytes e.val (flat % 64) n, (List.range n).flatMap (fun k => AMap.get [] e.heads (flat % 64 + k)))
    else none
  | none => none

/-- The release points of a value that a strand has read. -/
def State.learnIds (s : State) (w : Who) (ids : List Nat) : State :=
  if ids = [] then s else s.setStrand w { s.strand w with known := (ids ++ (s.strand w).known).eraseDups }

/-- The release points to whose sequences the values of n bytes belong, at their home, or in a line of a cluster's cache. -/
def State.headsAt (s : State) (flat n : Nat) : List Nat :=
  if s.heads = [] then [] else (List.range n).flatMap (fun k => AMap.get [] s.heads (flat + k))
def State.headsIn (s : State) (cl flat n : Nat) : List Nat :=
  match s.line cl (flat / 64) with
  | some l => (List.range n).flatMap (fun k => AMap.get [] l.heads (flat % 64 + k))
  | none => s.headsAt flat n

/-- A strand reads bytes: it knows the release points to whose sequences their values belong (R150, R151). -/
def State.learn (s : State) (w : Who) (flat n : Nat) : State := s.learnIds w (s.headsAt flat n)

/-- A write of a strand through a virtual address, or through none, at the home of n bytes. -/
def State.wrote (s : State) (w : Who) (via : Via) (flat n : Nat) : State :=
  ((s.forget w flat n).setHeads (s.strand w).points false flat n).missed (s.strand w).birth via flat n

/-- The start of a packet's strand, among those of all modules. -/
def State.bearer (s : State) (p : Packet) : Nat := if s.fromHere p then p.birth else 2 ^ 64 * (1 + p.smodule) + p.birth

/-- A core lies in the scope of another: pod scope reaches the cores of modules that are UP alone, with the module's own (R212, R342). -/
def State.inScope (s : State) (sc : Scope) (own c : Nat) : Bool := sc.has own c && (c < farCore 0 || s.modUp (c - farCore 0))

/-- The virtual line of a packet's operation; near accesses, rows and messages have none. -/
def State.pktVia (s : State) (p : Packet) : Via :=
  match p.kind with
  | .store _ | .amo _ _ => if s.fromHere p then some (p.ctx, p.va.toNat / 64) else none
  | _ => none

/-- What the strand of another module has released before an operation of it that arrives here: its release points with pod scope, which
stand in the packet with those of other strands that it has paired with before (R210, R212). -/
def State.farRelease (s : State) (p : Packet) : State :=
  if s.fromHere p || p.points.isEmpty then s
  else
    let b := s.bearer p
    let far := farCore p.smodule
    s.mapEarly (fun _ st => st.early.map (fun e =>
      let e1 := ((e.2.seen.filter (fun q => p.points.contains q.id && s.inScope q.scope q.core far)).map (·.via)).foldl
        (fun (a : Early) v => a.behind ⟨b, v⟩) e.2
      let new := (e1.carry.filter (fun c => c.birth == b)).flatMap (fun c => p.points.filter (fun i => decide (2 ^ 64 ≤ i)) |>.map (fun id =>
        (⟨id, far, .pod, c.via⟩ : Seen)))
      (e.1, { e1 with seen := new ++ e1.seen })))

/-- The n bytes that a packet has written belong to the sequences of its strand's release points (R150). -/
def State.wroteFor (s : State) (p : Packet) (flat n : Nat) : State :=
  ((s.farRelease p).setHeads p.points false flat n).missed (s.bearer p) (s.pktVia p) flat n

/-! ## Reads and writes at a place -/

/-- The n bytes at a place that a strand of a core reads without waiting, and the state after: LM, HBM, HOST, MMIO. -/
def State.readAt (s : State) (core : Nat) (p : Place) (n : Nat) : Nat × State :=
  let cl := clusterOf core
  match p with
  | .lm f => (s.read f n, s)
  | .hbm pa false => s.cachedRead cl pa n
  | .hbm pa true => let s1 := (s.bypass cl pa n).recall cl pa; (s1.read pa n, s1)
  | .host f => s.cachedRead cl f n
  | .mmio pa => (s.mmioGet pa n, s)
  | .away c o => (s.read (lmFlat c o) n, s)
  | .peer _ f _ => (s.read f n, s)

/-- A place that a load reads through the cluster cache. -/
def Place.cached : Place → Bool
  | .hbm _ sy => !sy
  | .host _ => true
  | _ => false

/-- What a plain load at a place returns early. -/
def State.earlyAt (s : State) (w : Who) (va : Word) (p : Place) (n : Nat) : Option (Nat × List Nat) :=
  match p with
  | .hbm _ _ | .host _ | .peer _ _ _ => s.earlyOf w va p.flat n
  | _ => none

/-- An early reading has been returned. A load of a page with SYNC performs at the home slice, so that one serves a single load (R153). -/
def State.earlyUsed (s : State) (w : Who) (p : Place) : State :=
  match p with
  | .hbm pa true => s.keepEarly w (fun e => e.1 != pa / 64)
  | _ => s

/-- A plain load of a strand through a virtual address: the bytes at a place, or what it read of their line early. It ends an early reading
of the line through another address (R209). -/
def State.loadAt (s : State) (w : Who) (va : Word) (p : Place) (n : Nat) : Nat × State :=
  match s.earlyAt w va p n with
  | some e => (e.1, (s.learnIds w e.2).earlyUsed w p)
  | none =>
    let r := (s.forget w p.flat n).readAt w.core p n
    match p with
    | .lm f => (r.1, r.2.learn w f n)
    | .hbm pa true => (r.1, r.2.learn w pa n)
    | .hbm pa false => (r.1, r.2.learnIds w (r.2.headsIn (clusterOf w.core) pa n))
    | .host f => (r.1, r.2.learnIds w (r.2.headsIn (clusterOf w.core) f n))
    | .peer _ f _ => (r.1, r.2.learn w f n)
    | _ => r

/-- A strand's next store, release or quiet atomic is to perform later, or not. -/
def State.setLate (s : State) (w : Who) (b : Bool) : State :=
  if (s.strand w).late = b then s else s.setStrand w { s.strand w with late := b }

/-- A write of a strand goes on its way to a place, on a path or on none. -/
def State.sendStore (s : State) (w : Who) (p : Place) (n v : Nat) (va : Word) (ent : TlbEnt) (path : Option Nat) : State :=
  s.send w { (s.packet w (.store false) path).aim p n with va := va, ent := ent, data := BitVec.ofNat 512 v }

/-- A write of n bytes that performs at a home past the writer's cluster cache. -/
def State.writeHome (s : State) (w : Who) (flat n v : Nat) (va : Word) : State :=
  let cl := clusterOf w.core
  ((((s.wrote w (s.via w va) flat n).bypass cl flat n).recall cl flat).write flat n v).clearUnits flat n

/-- n bytes written at a place by a strand (R144, R153): at the LM port, in the cluster cache, at the home slice, at a
control register, or sent on its way. A store to a SYNC page may perform later than the strand's next ones (R426). -/
def State.writeAt (s : State) (w : Who) (p : Place) (n v : Nat) (va : Word := 0) (ent : TlbEnt := .none_) : State :=
  let cached (f : Nat) : State :=
    ((s.forget w f n).missed (s.strand w).birth (s.via w va) f n).cachedWrite (clusterOf w.core) f n v (s.strand w).points (s.via w va)
  match p with
  | .lm f => ((s.wrote w none f n).write f n v).clearUnits f n
  | .hbm pa false => cached pa
  | .host f => cached f
  | .hbm pa true =>
    if (s.strand w).late then (s.forget w pa n).sendStore w p n v va ent none else s.writeHome w pa n v va
  | .mmio pa => s.mmioPut w.core pa n v
  | .peer _ f _ => (s.forget w f n).sendStore w p n v va ent (some (s.strand w).adaptive)
  | .away _ _ => s.sendStore w p n v va ent (some (s.strand w).adaptive)

/-- The store just sent has performed in one step with the fill of the frame that it claims (R320); its acknowledgement is to come. -/
def State.storedWithFill (s : State) (v : Nat) : State :=
  match s.net.lookup (s.nextId - 1) with
  | none => s
  | some p =>
    let s1 := ((s.write p.flat p.bytes v).clearUnits p.flat p.bytes).wroteFor p p.flat p.bytes
    { s1 with net := AMap.put s1.net (s.nextId - 1) { p with landed := true } }

/-- A piece of an access written: what is sent carries its address and translation for a report (R317). One that claims its page
stands at its home from then on, with the fill (R320). -/
def State.storeAt (s : State) (w : Who) (p : Piece) (v : Nat) : State :=
  let s1 := s.writeAt w p.at_ p.n v p.va p.x.ent
  if p.x.claim then
    match p.at_ with
    | .peer _ _ _ => s1.storedWithFill v
    | a => s1.writeBack (clusterOf w.core) (a.flat / 64)
  else s1

/-! ## What a sync object covers (R148-R151, R168) -/

/-- The flat ranges of some entries of a context's bind table. -/
def State.bindRanges (s : State) (ctx : Nat) (bs : List (Nat × Nat × Nat)) : List (Nat × Nat) :=
  bs.flatMap (fun b => s.rangesOf ctx (b.2.1 / 4096 + 2) b.1 b.2.1)

/-- The entries of a context's bind table for an object, or for any object. -/
def State.bindsOf (s : State) (ctx : Nat) (obj : Option Nat) : List (Nat × Nat × Nat) :=
  (s.ctxRec ctx).binds.filter (fun b => obj == none || obj == some b.2.2)

/-- What a release or an acquire point takes in: the bytes bound to an object, to any object, the bytes of some entries of
the bind table as they stood, or every byte. -/
inductive Cover where
  | object (flat : Nat)
  | bound
  | ranges (bs : List (Nat × Nat × Nat))
  | all
  deriving DecidableEq, Repr

/-- A range of bytes that a point takes in. -/
def State.covers (s : State) (ctx : Nat) (c : Cover) : Nat → Nat → Bool :=
  let inside (rs : List (Nat × Nat)) : Nat → Nat → Bool := fun f n => rs.any (fun r => overlap r.1 r.2 f n)
  match c with
  | .all => fun _ _ => true
  | .bound => inside (s.bindRanges ctx (s.bindsOf ctx none))
  | .object o => inside (s.bindRanges ctx (s.bindsOf ctx (some o)))
  | .ranges bs => inside (s.bindRanges ctx bs)

/-- The entries of a context's bind table that a point takes in. -/
def State.coverBinds (s : State) (ctx : Nat) : Cover → List (Nat × Nat × Nat)
  | .all => []
  | .bound => s.bindsOf ctx none
  | .object o => s.bindsOf ctx (some o)
  | .ranges bs => bs

/-- A point takes in an access to n bytes through a virtual line of its context: only the virtual range is tied to an object (R168). Where the
access names no virtual line of that context its bytes decide. -/
def State.coversVia (s : State) (ctx : Nat) (c : Cover) (via : Via) (flat n : Nat) : Bool :=
  match c, via with
  | .all, _ => true
  | c, some (x, v) =>
    if x = ctx then (s.coverBinds ctx c).any (fun b => decide (b.1 ≤ 64 * v ∧ 64 * v < b.1 + b.2.1)) else s.covers ctx c flat n
  | c, none => s.covers ctx c flat n

/-- An earlier load or atomic of the strand has not read. -/
def State.readsBusy (s : State) (w : Who) : Bool :=
  !(s.strand w).loads.isEmpty || (s.mine w).any (fun e => !e.2.landed && match e.2.kind with
    | .amo _ _ | .load | .nearLoad => true
    | _ => false)

/-- A scope that holds a core outside a cluster. -/
def Scope.beyond (sc : Scope) (cl : Nat) : Bool :=
  match sc with
  | .own => false
  | .rect r => !decide (field r 15 8 = cl / 16 ∧ field r 31 24 = cl / 16 ∧ field r 7 0 / 16 = cl % 16 ∧ field r 23 16 / 16 = cl % 16)
  | _ => true

/-- A written line that a test of its bytes names cannot go home now. -/
def State.anyCut (s : State) (w : Who) (cov : Nat → Nat → Bool) : Bool :=
  (s.cache (clusterOf w.core)).any (fun l => l.2.dirty != 0 && cov (64 * l.1) 64 && s.lineCut w l.1)

/-- An acquire point that covers some bytes cannot drop their written lines now. -/
def State.takeCut (s : State) (w : Who) (c : Cover) : Bool := s.anyCut w (s.covers (s.ctxOf w.core) c)

/-- What a release point waits for: a covered earlier write of the strand that has not been acknowledged, an explicit push of it
that has not been settled (R148, R160, R367), and an earlier load, atomic or xfer of it that has not read: none of them may
return a write that the release comes before (R209, R210, R214). Written bytes of the cluster that are to go home wait for their links. -/
def State.relBusy (s : State) (w : Who) (c : Cover) (sc : Scope) : Bool :=
  let ctx := s.ctxOf w.core
  s.readsBusy w || !(s.xfersOf w).isEmpty ||
  (s.mine w).any (fun e => match e.2.kind with
    | .store _ | .near | .amo _ _ => s.coversVia ctx c (s.pktVia e.2) e.2.flat e.2.bytes
    | .push | .reply _ => e.2.path.isSome
    | _ => false) ||
  s.anyCut w (fun f n => s.covers ctx c f n && (sc.beyond (clusterOf w.core) || isPeer f))

/-- A release point of a strand is noted in the early readings that have missed a write behind the strand which it covers (R151, R210). -/
def State.markEarly (s : State) (w : Who) (c : Cover) (sc : Scope) : State :=
  let ctx := s.ctxOf w.core
  let own := (s.strand w).birth
  let hits (x : Who) (e : Nat × Early) : List Via :=
    if x = w then [] else (e.2.carry.filter (fun b => b.birth == own && s.coversVia ctx c b.via (64 * e.1) 64)).map (·.via)
  if s.cores.any (fun k => k.2.live.strands.any (fun x => x.2.early.any (fun e => !(hits ⟨k.1, x.1⟩ e).isEmpty))) then
    let id := s.nextId
    let s1 := s.mapEarly (fun x st => st.early.map (fun e =>
      (e.1, { e.2 with seen := (hits x e).map (fun v => ⟨id, w.core, sc, v⟩) ++ e.2.seen })))
    let s2 : State := { s1 with nextId := id + 1 }
    s2.setStrand w { s2.strand w with points := id :: (s2.strand w).points }
  else s

/-- The covered written bytes of the executing cluster go home where a scope reaches beyond the cluster; bytes of PEER pages do so
whatever the scope (R148, R212). -/
def State.sendHome (s : State) (w : Who) (c : Cover) (sc : Scope) : State :=
  let cov := s.covers (s.ctxOf w.core) c
  let cl := clusterOf w.core
  (s.cache cl).foldl (fun acc l =>
    if cov (64 * l.1) 64 && (sc.beyond cl || isPeer (64 * l.1)) then acc.writeBack cl l.1 else acc) s

/-- A release point (R148, R171, R212). -/
def State.publish (s : State) (w : Who) (c : Cover) (sc : Scope) : State := (s.sendHome w c sc).markEarly w c sc

/-- The executing cluster drops its copies of the covered bytes, written bytes first (R151). -/
def State.dropCovered (s : State) (w : Who) (c : Cover) : State :=
  let cl := clusterOf w.core
  let cov := s.covers (s.ctxOf w.core) c
  (s.cache cl).foldl (fun acc l => if cov (64 * l.1) 64 then acc.dropLine cl l.1 else acc) s

/-- A strand's acquire point ends those of its early readings that a test names, and the writes that it takes in stand behind the
strand from then on (R210). -/
def State.takes (s : State) (w : Who) (own : Nat × Early → Bool) (taken : Nat × Early → List Via) : State :=
  let b := (s.strand w).birth
  (s.keepEarly w (fun e => !own e)).mapEarly (fun x st =>
    if x = w then st.early else st.early.map (fun e => (e.1, (taken e).foldl (fun (a : Early) v => a.behind ⟨b, v⟩) e.2)))

/-- A point of a strand takes in an access of the strand itself through the line of an early reading. -/
def State.coversOwn (s : State) (w : Who) (c : Cover) (e : Nat × Early) : Bool :=
  s.coversVia (s.ctxOf w.core) c (some (s.ctxOf w.core, e.2.line)) (64 * e.1) 64

/-- An acquire point that takes in everything it covers (R151). -/
def State.takeIn (s : State) (w : Who) (c : Cover) : State :=
  let ctx := s.ctxOf w.core
  (s.dropCovered w c).takes w (s.coversOwn w c)
    (fun e => (e.2.carry.filter (fun b => s.coversVia ctx c b.via (64 * e.1) 64)).map (·.via))

/-- A release point that a strand on a core pairs with at an acquire point: it knows the point, and each of the two cores lies in the
other's scope (R151, R212). -/
def State.pairs (s : State) (p : Seen) (known : List Nat) (core : Nat) (sc : Scope) : Bool :=
  known.contains p.id && p.scope.has p.core core && s.inScope sc core p.core

/-- An acquire point with a scope (R149, R151, R212): it takes in the covered writes that a release point which it pairs with has
published, and so ends the early readings that have missed one. -/
def State.takeScoped (s : State) (w : Who) (c : Cover) (sc : Scope) : State :=
  let ctx := s.ctxOf w.core
  let known := (s.strand w).known
  let got (e : Nat × Early) : List Via :=
    (e.2.seen.filter (fun p => s.pairs p known w.core sc && s.coversVia ctx c p.via (64 * e.1) 64)).map (·.via)
  (s.dropCovered w c).takes w (fun e => s.coversOwn w c e && !(got e).isEmpty) got

/-- Strands of other clusters behind which written bytes of a line may stand that have not gone home. -/
def State.dirtyFor (s : State) (cl line : Nat) : List Behind :=
  s.caches.flatMap (fun c =>
    let vias := if c.1 = cl then [] else (c.2.filter (fun l => l.1 == line && l.2.dirty != 0)).flatMap (·.2.vias)
    vias.flatMap (fun v => s.cores.flatMap (fun k => if clusterOf k.1 = c.1 then k.2.live.strands.map (fun x => ⟨x.2.birth, v⟩) else [])))

/-- An access of a strand to some bytes is on its way, or a load or an xfer of it has still to read them. -/
def State.underWay (s : State) (w : Who) (flat n : Nat) : Bool :=
  (s.mine w).any (fun e => overlap e.2.flat e.2.bytes flat n) ||
  (s.strand w).loads.any (fun l => overlap l.flat l.bytes flat n) || s.xferReads w flat n

/-- A strand reads a line early (R209, R213), of HBM, host or peer memory, over links that carry it: not while an access of it to the line is
on its way, since it must return no older value than that one (R145, R209). -/
def State.readEarly (s : State) (w : Who) (va : Word) : State :=
  match s.translate w va .load .tile with
  | .error _ => s
  | .ok x =>
    match s.place w x.tgt with
    | some p =>
      let cl := clusterOf w.core
      let ln := p.flat / 64
      let far : Bool := match p with
        | .hbm _ _ | .host _ | .peer _ _ _ => true
        | _ => false
      if !far || s.deadPeer p || s.cut w p || s.lineCut w ln then s
      else
        let s1 := (s.useXlat w x).dropLine cl ln
        if (s1.eccCause cl (64 * ln) 64).isSome ∨ (s.strand w).run ≠ .running ∨ s.underWay w (64 * ln) 64 then s
        else
          let st := s1.strand w
          s1.setStrand w { st with early := AMap.put st.early ln {
            line := va.toNat / 64, val := BitVec.ofNat 512 (s1.read (64 * ln) 64), heads := s1.homeHeads ln
            carry := s1.dirtyFor cl ln, seen := [] } }
    | none => s

/-! ## Holding an instruction back -/

/-- The instruction issues again once something has happened. -/
def State.holdBack (s : State) (w : Who) (kind : WaitKind) : Except Trap Ans :=
  .ok (.hold (s.waiting w (mkWait kind true 0 0)))

/-- Every strand with a wait that ends by issuing again, on a core where its context is ACTIVE, is a candidate for issue once more;
it waits until then (R271). -/
def State.wake (s : State) : State :=
  { s with cores := AMap.mapVals s.cores (fun _ c =>
      if c.st == .active && c.live.strands.any (fun e => match e.2.wait with | some v => v.retry && !v.woken | none => false) then
        { c with live := { c.live with strands := AMap.mapVals c.live.strands (fun _ st =>
            match st.wait with
            | some v => if v.retry then { st with wait := some { v with woken := true } } else st
            | none => st) } }
      else c) }

/-! ## Loads and stores as bodies -/

/-- A load that has issued (R147). -/
def State.pushLoad (s : State) (w : Who) (l : PLoad) : State :=
  let st := s.strand w
  s.setStrand w { st with loads := st.loads ++ [l] }

/-- The record of a load of a piece (R147). -/
def State.loadOf (s : State) (w : Who) (d : Reg) (m : Nat) (ty : Ty) (p : Piece) : PLoad :=
  { pc := (s.strand w).pc, va := p.va, d := d, n := m, ty := ty, flat := p.at_.flat, bytes := p.n, acq := none, pkt := none,
    sync := false, val := none, poison := 0, kind := 0, ent := p.x.ent }

/-- The value of a returned load written to its registers. -/
def State.putLoad (s : State) (w : Who) (d : Reg) (m : Nat) (ty : Ty) (n v : Nat) : State :=
  if m = 0 then s.setReg w d (loadExtend (v % 2 ^ (8 * n)) ty)
  else s.setRegs w d.toNat ((List.range m).map (fun k => BitVec.ofNat 64 (v / 2 ^ (64 * k))))

/-- A load leaves as a remote operation on a path (R147, R158). -/
def State.sendLoad (s : State) (w : Who) (kind : PktKind) (a : Place) (l : PLoad) (path : Nat) : State :=
  (s.send w { (s.packet w kind (some path)).aim a l.bytes with va := l.va, ent := l.ent }).pushLoad w { l with pkt := some s.nextId }

/-- A load of one value, or of m dwords, into registers from d on: it performs at the LM port or at a control register, or
retires with its data to come (R146, R147, R153). One that meets an error in the core's own LM has read all the same, and one of a
PEER page that its strand has read early returns with its reply what was read then. -/
def State.startLoad (s : State) (w : Who) (d : Reg) (m : Nat) (ty : Ty) (p : Piece) (path : Option Nat) : State :=
  let l := s.loadOf w d m ty p
  match p.at_ with
  | .lm f =>
    match s.eccCause (clusterOf w.core) f p.n with
    | some c => s.pushLoad w { l with val := some 0, poison := c }
    | none => let r := s.loadAt w p.va (.lm f) p.n; r.2.putLoad w d m ty p.n r.1
  | .mmio pa => s.putLoad w d m ty p.n (s.mmioGet pa p.n)
  | .hbm _ sy => s.pushLoad w { l with sync := sy }
  | .host _ => s.pushLoad w l
  | .peer _ _ _ => match s.earlyAt w p.va p.at_ p.n with
    | some e => (s.learnIds w e.2).sendLoad w .load p.at_ { l with val := some (BitVec.ofNat 512 e.1) } (path.getD (s.strand w).adaptive)
    | none => s.sendLoad w .load p.at_ l (path.getD (s.strand w).adaptive)
  | a => s.sendLoad w .load a l (path.getD (s.strand w).adaptive)

/-- The physical LM byte on another core that an access of a strand's job reaches: positions beyond 0x1FFFF lie in the
window of the strand of its group there (R154, R284). -/
def State.awayPhys (s : State) (job : Option (Nat × Nat)) (core off : Nat) : Option Nat :=
  if off < 0x20000 then some off
  else match s.groupStrand core job with
    | some n => lmPhys ((s.live core).strand n).hold off
    | none => none

/-- An operation that performs while its strand has not issued past it: its reply counts on its path at once (R159). -/
def State.ackNow (s : State) (w : Who) : State :=
  let n := (s.strand w).adaptive
  (s.packUp w n).packDown w n

/-- An access that performs while its strand waits cannot reach its place now: the context is not ACTIVE on the core that it
names, or the links of its path do not carry it (R161, R334, R339). -/
def State.unreached (s : State) (w : Who) (p : Place) : Bool :=
  let path := (s.strand w).adaptive
  match p with
  | .away c _ => !s.isActive (s.ctxOf w.core) c || !s.pathUp path w.core none c
  | .peer m _ _ => !s.pathUp path w.core (some m) 0
  | _ => false

/-- A load of HBM or host memory that needs links which do not carry it: it reads neither in the cluster cache, to which a droop lets it
not cross (R420), nor what it has read early. -/
def State.missCut (s : State) (w : Who) (va : Word) (p : Place) : Bool :=
  (s.earlyAt w va p 1).isNone && match p with
  | .hbm _ false | .host _ => s.drooping w.core || s.fillCut w p
  | .hbm _ true => s.cut w p
  | _ => false

/-- The trap of an access to a FAILED module (R343). -/
def Piece.dead (p : Piece) (k : Acc) : Trap := xlatTrap 9 p.x.ent.level p.x.ent.entry p.va k

/-- An access to a control register whose links do not carry it (R335). -/
def State.mmioCut (s : State) (w : Who) (p : Place) : Bool :=
  match p with
  | .mmio _ => s.cut w p
  | _ => false

/-- A plain load or store of one value (R152). -/
def memAccess (s : State) (w : Who) (k : Acc) (ea : Word) (n : Nat) (go : State → Piece → Except Trap Ans) : Except Trap Ans :=
  if ea.toNat % n ≠ 0 then .error (.align ea k.code)
  else
    match s.pieces w k .all [(ea, n)] with
    | .error t => .error t
    | .ok [p] =>
      if (if k.writes then s.pieceWaits w p n else s.mustWait w false p.at_.flat n) then s.holdBack w .operand
      else if s.mmioCut w p.at_ then s.holdBack w .remote
      else if k.writes && s.narrowBad p.at_.flat n then .error { code := .ecc, cause := 27, va := ea, kind := k.code }
      else go (s.useXlat w p.x) p
    | .ok _ => s.holdBack w .operand

end Sys2Proof.Machine
end

