-- ==== Sys2Proof/Machine/Float.lean ====
section
/-!
DEFINITION. Number formats and arithmetic (R62-R71, R76-R80, R86, R182): floating layouts, exact results, RoundToFormat
and its flags, the correctly rounded functions, MX blocks, XACC and the pair tree.
-/
namespace Sys2Proof.Machine

/-! ## Layouts (R62, R63) -/

/-- A floating format: width, fraction bits, bias; `ocp` marks E4M3, which has no infinity. -/
structure Fmt where
  w    : Nat
  fb   : Nat
  bias : Nat
  ocp  : Bool
  deriving DecidableEq, Repr

def fmtOf : Ty → Fmt
  | .bf16 => ⟨16, 7, 127, false⟩
  | .f16 => ⟨16, 10, 15, false⟩
  | .e4m3 => ⟨8, 3, 7, true⟩
  | .e5m2 => ⟨8, 2, 15, false⟩
  | _ => ⟨32, 23, 127, false⟩

/-- Precision P. -/
def Fmt.p (f : Fmt) : Nat := f.fb + 1
/-- Emin. -/
def Fmt.emin (f : Fmt) : Int := 1 - (f.bias : Int)
/-- The all-ones exponent field. -/
def Fmt.eAll (f : Fmt) : Nat := 2 ^ (f.w - 1 - f.fb) - 1
/-- The encoding of the largest finite value, without its sign. -/
def Fmt.maxBits (f : Fmt) : Nat := if f.ocp then 0x7E else f.eAll * 2 ^ f.fb - 1
/-- The encoding of infinity, without its sign. -/
def Fmt.infBits (f : Fmt) : Nat := f.eAll * 2 ^ f.fb
/-- The canonical quiet NaN (R64). -/
def Fmt.nan (f : Fmt) : Nat := if f.ocp then 0x7F else f.eAll * 2 ^ f.fb + 2 ^ (f.fb - 1)
def Fmt.signBit (f : Fmt) : Nat := 2 ^ (f.w - 1)

def fSign (f : Fmt) (x : Nat) : Bool := x / f.signBit % 2 == 1
def fMag (f : Fmt) (x : Nat) : Nat := x % f.signBit
def fIsNan (f : Fmt) (x : Nat) : Bool := if f.ocp then fMag f x == 0x7F else decide (f.infBits < fMag f x)
/-- A signalling NaN: the most significant fraction bit is 0; E4M3 has none. -/
def fIsSnan (f : Fmt) (x : Nat) : Bool := !f.ocp && fIsNan f x && decide (fMag f x % 2 ^ f.fb < 2 ^ (f.fb - 1))
def fIsInf (f : Fmt) (x : Nat) : Bool := !f.ocp && fMag f x == f.infBits
/-- A subnormal: exponent field zero, fraction not. -/
def fIsSub (f : Fmt) (x : Nat) : Bool := decide (0 < fMag f x ∧ fMag f x < 2 ^ f.fb)

/-- FIn on encodings: with FZ a subnormal is replaced by the zero of its sign (R69). -/
def fIn (f : Fmt) (fz : Bool) (x : Nat) : Nat :=
  let x := x % 2 ^ f.w
  if fz && fIsSub f x then x - fMag f x else x

/-! ## Exact values -/

/-- A value of real arithmetic: a finite one is m × 2^e, or lies strictly between that and (m + 1) × 2^e when `rest`. -/
inductive Num where
  | nan (sig : Bool)
  | inf (neg : Bool)
  | zero (neg : Bool)
  | fin (neg : Bool) (m : Nat) (e : Int) (rest : Bool)
  deriving DecidableEq, Repr

/-- The value of an encoding (R62, R63). -/
def fVal (f : Fmt) (x : Nat) : Num :=
  let s := fSign f x
  let g := fMag f x
  if fIsNan f x then .nan (fIsSnan f x)
  else if fIsInf f x then .inf s
  else if g = 0 then .zero s
  else
    let ef := g / 2 ^ f.fb
    if ef = 0 then .fin s g (1 - (f.bias : Int) - f.fb) false
    else .fin s (g % 2 ^ f.fb + 2 ^ f.fb) ((ef : Int) - f.bias - f.fb) false

/-- The value of an integer. -/
def Num.ofInt (i : Int) : Num := if i = 0 then .zero false else .fin (decide (i < 0)) i.natAbs 0 false

def Num.neg? : Num → Bool
  | .inf n | .zero n => n
  | .fin n _ _ _ => n
  | .nan _ => false

/-- A finite value times 2^k. -/
def Num.scale (x : Num) (k : Int) : Num :=
  match x with
  | .fin n m e r => .fin n m (e + k) r
  | v => v

/-- A finite value, without `rest`, as an integer over 2^e. -/
def Num.at (x : Num) (e : Int) : Int :=
  match x with
  | .fin n m k _ => if n then -((m * 2 ^ (k - e).toNat : Nat) : Int) else ((m * 2 ^ (k - e).toNat : Nat) : Int)
  | _ => 0

/-- The exponent a finite value stands over. -/
def Num.exp (x : Num) (d : Int) : Int :=
  match x with
  | .fin _ _ e _ => e
  | _ => d

/-! ## Flags (R68, R96): NV 16, DZ 8, OF 4, UF 2, NX 1 -/

abbrev FFlags := BitVec 5
def fNV : FFlags := 16
def fDZ : FFlags := 8
def fOF : FFlags := 4
def fUF : FFlags := 2
def fNX : FFlags := 1

/-- NV for a signalling operand. -/
def Num.sigFlag : Num → FFlags
  | .nan true => fNV
  | _ => 0
def Num.isNan : Num → Bool
  | .nan _ => true
  | _ => false

/-! ## Exact operations (R68, R122, R123) -/

/-- The zero of an exact sum of operands with opposite signs. -/
def cancelZero (mode : Nat) : Num := .zero (mode == 3)

/-- x + y of operands that are not NaN. -/
def addReal (mode : Nat) (x y : Num) : Num × FFlags :=
  match x, y with
  | .inf a, .inf b => if a = b then (.inf a, 0) else (.nan false, fNV)
  | .inf a, _ => (.inf a, 0)
  | _, .inf b => (.inf b, 0)
  | .zero a, .zero b => if a = b then (.zero a, 0) else (cancelZero mode, 0)
  | .zero _, v => (v, 0)
  | v, .zero _ => (v, 0)
  | x, y =>
    let e := min (x.exp 0) (y.exp 0)
    let r := x.at e + y.at e
    if r = 0 then (cancelZero mode, 0) else (.fin (decide (r < 0)) r.natAbs e false, 0)

/-- x × y of operands that are not NaN. -/
def mulReal (x y : Num) : Num × FFlags :=
  let s := x.neg? ^^ y.neg?
  match x, y with
  | .inf _, .zero _ => (.nan false, fNV)
  | .zero _, .inf _ => (.nan false, fNV)
  | .inf _, _ => (.inf s, 0)
  | _, .inf _ => (.inf s, 0)
  | .fin _ m e _, .fin _ n k _ => (.fin s (m * n) (e + k) false, 0)
  | _, _ => (.zero s, 0)

/-- x ÷ y of operands that are not NaN. -/
def divReal (x y : Num) : Num × FFlags :=
  let s := x.neg? ^^ y.neg?
  match x, y with
  | .inf _, .inf _ => (.nan false, fNV)
  | .zero _, .zero _ => (.nan false, fNV)
  | .inf _, _ => (.inf s, 0)
  | _, .inf _ => (.zero s, 0)
  | .zero _, _ => (.zero s, 0)
  | .fin _ m e _, .fin _ n k _ =>
    let g := 64 + Nat.log2 n
    (.fin s (m * 2 ^ g / n) (e - k - g) (m * 2 ^ g % n != 0), 0)
  | _, _ => (.inf s, fDZ)

/-- The integer square root of v below 2^(2n). -/
def isqrtFrom (v : Nat) : Nat → Nat → Nat
  | 0, r => r
  | n + 1, r => if (r + 2 ^ n) * (r + 2 ^ n) ≤ v then isqrtFrom v n (r + 2 ^ n) else isqrtFrom v n r
def isqrt (v : Nat) : Nat := isqrtFrom v (Nat.log2 v / 2 + 1) 0

/-- The square root of an operand that is not NaN. -/
def sqrtReal (x : Num) : Num × FFlags :=
  match x with
  | .zero n => (.zero n, 0)
  | .inf false => (.inf false, 0)
  | .fin false m e _ =>
    let odd := e % 2 = 1
    let v := m * 2 ^ (if odd then 161 else 160)
    let k := ((if odd then e - 1 else e) - 160) / 2
    (.fin false (isqrt v) k (isqrt v * isqrt v != v), 0)
  | _ => (.nan false, fNV)

/-- An operation with its NaN operands: canonical NaN, NV for a signalling one. -/
def withNans (xs : List Num) (r : Num × FFlags) : Num × FFlags :=
  if xs.any Num.isNan then (.nan false, xs.foldl (fun f x => f ||| x.sigFlag) 0) else r

def numAdd (mode : Nat) (x y : Num) : Num × FFlags := withNans [x, y] (addReal mode x y)
def Num.flip : Num → Num
  | .inf n => .inf !n
  | .zero n => .zero !n
  | .fin n m e r => .fin (!n) m e r
  | v => v
def numSub (mode : Nat) (x y : Num) : Num × FFlags := withNans [x, y] (addReal mode x y.flip)
def numMul (x y : Num) : Num × FFlags := withNans [x, y] (mulReal x y)
def numDiv (x y : Num) : Num × FFlags := withNans [x, y] (divReal x y)
def numSqrt (x : Num) : Num × FFlags := withNans [x] (sqrtReal x)

/-- x × y + z with one rounding to come (R123, R179). -/
def numFma (mode : Nat) (x y z : Num) : Num × FFlags :=
  match x, y with
  | .inf _, .zero _ => (.nan false, fNV)
  | .zero _, .inf _ => (.nan false, fNV)
  | _, _ => withNans [x, y, z] (addReal mode (mulReal x y).1 z)

/-! ## RoundInt and RoundToFormat (R65-R69) -/

/-- The number of whole units 2^u nearest a finite value under a mode, and whether the value is no whole number of them. -/
def roundUnits (neg : Bool) (m : Nat) (e : Int) (rest : Bool) (u : Int) (mode : Nat) : Nat × Bool :=
  if u ≤ e ∧ rest = false then (m * 2 ^ (e - u).toNat, false)
  else
    let d := (u - e).toNat
    let q := m / 2 ^ d
    let r := m % 2 ^ d
    let inexact := r != 0 || rest
    let up := match mode with
      | 0 => decide (2 ^ d < 2 * r) || (decide (2 * r = 2 ^ d) && d != 0 && (rest || q % 2 == 1))
      | 1 => false
      | 2 => !neg && inexact
      | _ => neg && inexact
    (if up then q + 1 else q, inexact)

/-- OverflowResult (R67), as an encoding. -/
def overflowBits (f : Fmt) (neg : Bool) (mode : Nat) : Nat :=
  let s := if neg then f.signBit else 0
  if f.ocp then s + f.maxBits
  else match mode with
    | 0 => s + f.infBits
    | 1 => s + f.maxBits
    | 2 => if neg then s + f.maxBits else f.infBits
    | _ => if neg then s + f.infBits else f.maxBits

/-- RoundToFormat (R66): the encoding, and the flags. -/
def roundTo (f : Fmt) (mode : Nat) (flush : Bool) (v : Num) : Nat × FFlags :=
  match v with
  | .nan _ => (f.nan, 0)
  | .inf n => if f.ocp then (f.nan, fNV) else ((if n then f.signBit else 0) + f.infBits, 0)
  | .zero n => (if n then f.signBit else 0, 0)
  | .fin n m e rest =>
    let s := if n then f.signBit else 0
    let top := (Nat.log2 m : Int) + e
    let free := top - f.fb
    let u := max free (f.emin - f.fb)
    let (y, inexact) := roundUnits n m e rest u mode
    let bits := ((u + f.fb + f.bias - 1).toNat) * 2 ^ f.fb + y
    let (t, _) := roundUnits n m e rest free mode
    let tiny := decide (free + (Nat.log2 (max t 1) : Int) < f.emin)
    let nx : FFlags := if inexact then fNX else 0
    let uf : FFlags := if tiny && inexact then fUF else 0
    if f.maxBits < bits then (overflowBits f n mode, fOF ||| fNX)
    else if flush && y != 0 && decide (bits < 2 ^ f.fb) then (s, fUF ||| fNX)
    else (s + bits, nx ||| uf)

/-- A finite value rounded to an integer (RoundInt of R65), and whether it changed. -/
def roundInt (mode : Nat) (v : Num) : Int × Bool :=
  match v with
  | .fin n m e r =>
    let (q, x) := roundUnits n m e r 0 mode
    (if n then -(q : Int) else q, x)
  | _ => (0, false)

/-- The mode and the flush bit of a value of FCTL (R96). -/
def fctlMode (c : Word) : Nat := bits c 1 0
def fctlFz (c : Word) : Bool := bit c 2
/-- The flags that trap FPE under a value of FCTL (R96, R98). -/
def fctlTraps (c : Word) : FFlags := (c >>> 4).setWidth 5

/-- An operation on values, rounded to a format under FCTL, with all its flags. -/
def rounded (f : Fmt) (c : Word) (r : Num × FFlags) : Nat × FFlags :=
  let (b, fl) := roundTo f (fctlMode c) (fctlFz c) r.1
  (b, r.2 ||| fl)

/-- An encoding read under FCTL. -/
def readF (f : Fmt) (c : Word) (x : Nat) : Num := fVal f (fIn f (fctlFz c) x)

/-! ## Order of values of one format (R122, R124) -/

/-- Position of an encoding, not a NaN, in the order of values, -0 below +0. -/
def fKey (f : Fmt) (x : Nat) : Int := if fSign f x then -(fMag f x : Int) - 1 else fMag f x
/-- The same with -0 equal to +0. -/
def fKeyEq (f : Fmt) (x : Nat) : Int := if fSign f x then -(fMag f x : Int) else fMag f x

/-- The rule of fmin and fmax (R122), on flushed encodings. -/
def fMinMax (f : Fmt) (isMax : Bool) (x y : Nat) : Nat × FFlags :=
  let fl : FFlags := if fIsSnan f x || fIsSnan f y then fNV else 0
  let r :=
    if fIsNan f x && fIsNan f y then f.nan
    else if fIsNan f x then y
    else if fIsNan f y then x
    else if isMax then (if fKey f x < fKey f y then y else x)
    else (if fKey f y < fKey f x then y else x)
  (r, fl)

/-- The comparisons eq, ne, lt, le, gt, ge, un (R124), on flushed encodings. -/
def fCompare (f : Fmt) (cond : Nat) (x y : Nat) : Bool × FFlags :=
  let nan := fIsNan f x || fIsNan f y
  let sig := fIsSnan f x || fIsSnan f y
  let kx := fKeyEq f x
  let ky := fKeyEq f y
  let quiet := cond == 0 || cond == 1 || cond == 6
  let fl : FFlags := if (if quiet then sig else nan) then fNV else 0
  let r := match cond with
    | 0 => !nan && kx == ky
    | 1 => nan || kx != ky
    | 2 => !nan && decide (kx < ky)
    | 3 => !nan && decide (kx ≤ ky)
    | 4 => !nan && decide (ky < kx)
    | 5 => !nan && decide (ky ≤ kx)
    | _ => nan
  (r, fl)

/-- ClassMask (R122). -/
def fClass (f : Fmt) (x : Nat) : Nat :=
  let s := fSign f x
  if fIsNan f x then (if fIsSnan f x then 2 ^ 8 else 2 ^ 9)
  else if fIsInf f x then (if s then 1 else 2 ^ 7)
  else if fMag f x = 0 then (if s then 2 ^ 3 else 2 ^ 4)
  else if fIsSub f x then (if s then 2 ^ 2 else 2 ^ 5)
  else (if s then 2 else 2 ^ 6)

/-- frnd (R122): the value rounded to an integral value, on a flushed encoding. -/
def fRound (f : Fmt) (mode : Nat) (x : Nat) : Nat × FFlags :=
  if fIsNan f x then (f.nan, if fIsSnan f x then fNV else 0)
  else if fIsInf f x then (x, 0)
  else
    let (i, inexact) := roundInt mode (fVal f x)
    let s := if fSign f x then f.signBit else 0
    let (b, _) := roundTo f 1 false (Num.ofInt (i.natAbs : Int))
    (s + b, if inexact then fNX else 0)

/-! ## Conversions (R71, R125, R184) -/

/-- A floating value to an integer type. -/
def numToInt (mode : Nat) (t : Ty) (v : Num) : Int × FFlags :=
  match v with
  | .nan _ => (0, fNV)
  | .inf n => (if n then intLoOf t else intHiOf t, fNV)
  | _ =>
    let (i, x) := roundInt mode v
    if i < intLoOf t then (intLoOf t, fNV)
    else if intHiOf t < i then (intHiOf t, fNV)
    else (i, if x then fNX else 0)
where
  intLoOf (t : Ty) : Int := if isSigned t then -((2 ^ (intWidth t - 1) : Nat) : Int) else 0
  intHiOf (t : Ty) : Int :=
    if isSigned t then ((2 ^ (intWidth t - 1) - 1 : Nat) : Int) else ((2 ^ intWidth t - 1 : Nat) : Int)

/-- A value converted to a floating format: a NaN is canonical, NV for a signalling one. -/
def numToF (f : Fmt) (c : Word) (v : Num) : Nat × FFlags := rounded f c (v, v.sigFlag)

/-! ## The special functions (R182) -/

/-- Bits after the point in the fixed-point work of the special functions. -/
def fixBits : Nat := 640

/-- Sum of z^(2k+1) / (2k+1) from k on, z as a fixed-point number with square z2 and current power p. -/
def atanhFrom (z2 : Nat) : Nat → Nat → Nat → Nat
  | 0, _, _ => 0
  | n + 1, k, p => p / (2 * k + 1) + atanhFrom z2 n (k + 1) (p * z2 / 2 ^ fixBits)
/-- 2 atanh z for 0 ≤ z ≤ 1/3, in fixed point. -/
def twiceAtanh (z : Nat) : Nat := 2 * atanhFrom (z * z / 2 ^ fixBits) 210 0 z
/-- ln 2 in fixed point: 2 atanh (1/3). -/
def ln2Fix : Nat := twiceAtanh (2 ^ fixBits / 3)

/-- The exponential series from term k on: t is the current term. -/
def expFrom (y : Nat) : Nat → Nat → Nat → Nat
  | 0, _, _ => 0
  | n + 1, k, t => t + expFrom y n (k + 1) (t * y / 2 ^ fixBits / (k + 1))
/-- e^y for 0 ≤ y < 1, in fixed point. -/
def expFix (y : Nat) : Nat := expFrom y 130 0 (2 ^ fixBits)

/-- 2^x of a finite x. -/
def exp2Real (n : Bool) (m : Nat) (e : Int) : Num :=
  if 12 < (Nat.log2 m : Int) + e then .fin false 1 (if n then -4000 else 4000) true
  else if 0 ≤ e then .fin false 1 (if n then -((m * 2 ^ e.toNat : Nat) : Int) else ((m * 2 ^ e.toNat : Nat) : Int)) false
  else
    let d : Nat := 2 ^ (-e).toNat
    let i : Int := (if n then -(m : Int) else m) / (d : Int)
    let r : Nat := ((if n then -(m : Int) else m) % (d : Int)).toNat
    if r = 0 then .fin false 1 i false
    else .fin false (expFix (r * ln2Fix / d)) (i - fixBits) true

/-- log2 of a positive finite x. -/
def log2Real (m : Nat) (e : Int) : Num :=
  let g := Nat.log2 m
  let whole : Int := (g : Int) + e
  if m = 2 ^ g then Num.ofInt whole
  else
    let one := 2 ^ fixBits
    let z := (m - 2 ^ g) * one / (m + 2 ^ g)
    let frac := twiceAtanh z * one / ln2Fix
    let v := whole * (one : Int) + frac
    .fin (decide (v < 0)) v.natAbs (-(fixBits : Int)) true

/-- 1 / √x of a positive finite x. -/
def rsqrtReal (m : Nat) (e : Int) : Num :=
  let odd := e % 2 = 1
  let v := if odd then 2 * m else m
  let k := if odd then e - 1 else e
  let q := isqrt (2 ^ 400 / v)
  .fin false q (-(k / 2) - 200) (q * q * v != 2 ^ 400)

/-- tanh of a non-zero finite magnitude. -/
def tanhReal (m : Nat) (e : Int) : Nat × Int :=
  let top := (Nat.log2 m : Int) + e
  if top < -100 then (m * 2 ^ 64 - 1, e - 64)
  else if 5 < top then (2 ^ 64 - 1, -64)
  else
    let one := 2 ^ fixBits
    let y := 2 * m * 2 ^ (e + fixBits).toNat
    let k := y / ln2Fix
    let ex := expFix (y - k * ln2Fix) * 2 ^ k
    ((ex - one) * one / (ex + one), -(fixBits : Int))

/-- The five functions, by the order of their opcodes: texp2, tlog2, trcp, trsqrt, ttanh. -/
def special (fn : Nat) (x : Num) : Num × FFlags :=
  match x with
  | .nan sig => (.nan false, if sig then fNV else 0)
  | .inf n =>
    match fn with
    | 0 => (if n then .zero false else .inf false, 0)
    | 1 => if n then (.nan false, fNV) else (.inf false, 0)
    | 2 => (.zero n, 0)
    | 3 => if n then (.nan false, fNV) else (.zero false, 0)
    | _ => (.fin n 1 0 false, 0)
  | .zero n =>
    match fn with
    | 0 => (.fin false 1 0 false, 0)
    | 1 => (.inf true, fDZ)
    | 2 => (.inf n, fDZ)
    | 3 => (.inf n, fDZ)
    | _ => (.zero n, 0)
  | .fin n m e _ =>
    match fn with
    | 0 => (exp2Real n m e, 0)
    | 1 => if n then (.nan false, fNV) else (log2Real m e, 0)
    | 2 => divReal (.fin false 1 0 false) (.fin n m e false)
    | 3 => if n then (.nan false, fNV) else (rsqrtReal m e, 0)
    | _ =>
      let r := tanhReal m e
      (.fin n r.1 r.2 true, 0)

/-! ## MX blocks (R76-R78) -/

/-- The value of an element of an MX block with scale code s (R77). -/
def mxValue (f : Fmt) (s code : Nat) : Num :=
  if s = 0xFF then .nan false else (fVal f code).scale ((s : Int) - 127)

/-- ClipRound (R78): an encoding with its sign, NX where a value clips or is inexact, never OF. -/
def clipRound (f : Fmt) (c : Word) (v : Num) : Nat × FFlags :=
  let (b, fl) := roundTo f (fctlMode c) (fctlFz c) v
  if fl &&& fOF != 0 then ((if v.neg? then f.signBit else 0) + f.maxBits, fNX) else (b, fl)

/-- floor(log2 of the greatest magnitude); none where every value is zero. -/
def topExp (xs : List Num) : Option Int :=
  xs.foldl (fun a x => match x with
    | .fin _ m e _ => some (match a with | some t => max t ((Nat.log2 m : Int) + e) | none => (Nat.log2 m : Int) + e)
    | _ => a) none

/-- MxQuantise (R78): scale code, element codes, flags. -/
def mxQuantise (f : Fmt) (c : Word) (xs : List Num) : Nat × List Nat × FFlags :=
  if xs.any (fun x => match x with | .nan _ | .inf _ => true | _ => false) then (0xFF, xs.map (fun _ => 0), fNV)
  else
    match topExp xs with
    | none => (0x7F, xs.map (fun _ => 0), 0)
    | some t =>
      let x := t - (if f.ocp then 8 else 15)
      if x < -127 then (0x00, xs.map (fun _ => 0), fUF)
      else
        let k := min x 127
        let rs := xs.map (fun v => clipRound f c (v.scale (-k)))
        ((k + 127).toNat, rs.map (·.1), rs.foldl (fun a r => a ||| r.2) (if 127 < x then fOF else 0))

/-! ## XACC (R79, R80) -/

/-- XaccAdd on the 128 bits of an XACC. -/
def xaccAdd (loc : Nat) (v : Nat) : Nat :=
  let sticky := if field loc 119 119 = 1 then loc else loc + 2 ^ 119
  let w : Int := (field loc 127 120 : Int) - 187
  match fVal (fmtOf .f32) v with
  | .nan _ | .inf _ => sticky
  | .zero _ => loc
  | .fin n m e _ =>
    let sh := e - w
    let whole := if 0 ≤ sh then true else m % 2 ^ (-sh).toNat == 0
    let k := if 0 ≤ sh then m * 2 ^ sh.toNat else m / 2 ^ (-sh).toNat
    if !whole ∨ 2 ^ 117 ≤ k then sticky
    else
      let f := field loc 118 0
      let f' := if n then (f + 2 ^ 119 - k) % 2 ^ 119 else (f + k) % 2 ^ 119
      loc - f + f'

/-! ## The pair tree (R86) -/

/-- One level of the tree. -/
def pairLevel {α : Type} (op : α → α → α) : List (Option α) → List (Option α)
  | x :: y :: t => (match x, y with
      | some a, some b => some (op a b)
      | none, some b => some b
      | a, none => a) :: pairLevel op t
  | l => l

/-- PairTree: `fuel` levels suffice for up to 2^fuel values. -/
def pairTree {α : Type} (op : α → α → α) : Nat → List (Option α) → Option α
  | 0, l => l.headD none
  | n + 1, l =>
    match l with
    | [] => none
    | [x] => x
    | l => pairTree op n (pairLevel op l)

end Sys2Proof.Machine
end

