-- ==== Sys2Proof/Machine/Flags.lean ====
section
/-!
DEFINITION. FFLAG and the FPE trap (R97-R98).
-/
namespace Sys2Proof.Machine

/-- Flags set in the FFLAG of a strand, sticky (R98). -/
def State.raise (s : State) (w : Who) (fl : FFlags) : State :=
  let st := s.strand w
  s.setStrand w { st with fflag := st.fflag ||| fl.setWidth 64 }

/-- The FPE trap of a set of flags, where one is enabled in the captured FCTL; the record holds every flag (R98). -/
def fpeTrap (fctl : Word) (fl : FFlags) : Option Trap :=
  if fl &&& fctlTraps fctl = 0 then none else some { code := .fpe, info := fl.toNat }

/-- A result with its flags: it traps FPE, or the flags are set and the result is written by k. -/
def State.withFlags (s : State) (w : Who) (fl : FFlags) (eu : Nat) (k : State → State) : Except Trap Ans :=
  match fpeTrap (s.strand w).fctl fl with
  | some t => .error t
  | none => .ok (.retire (k (s.raise w fl)) eu)

end Sys2Proof.Machine
end

