-- ==== Sys2Proof/Machine/Fp.lean ====
section
/-!
DEFINITION. Scalar floating-point instructions (R122-R125); class 1, 3 eu (R113).
-/
namespace Sys2Proof.Machine

/-- A floating instruction with one result register: the low bits of the operands, read under the captured FCTL, give an
encoding and flags. -/
def fpOp (f : Form) (ty : Ty) (ops : List Opnd) (d : Reg) (r : State → Who → Fmt → Word → Nat × FFlags) (s : State) :
    Host.Outcome State Fault Refusal :=
  runInstr f (.dst d :: ops) (fun s w =>
    let c := (s.strand w).fctl
    let (v, fl) := r s w (fmtOf ty) c
    s.withFlags w fl 3 (fun s => s.setReg w d (BitVec.ofNat 64 v))) s

/-- fadd, fsub, fmul, fdiv: the exact result, rounded (R122). -/
def fpArith (f : Form) (ty : Ty) (d a : Reg) (b : Src) (g : Nat → Num → Num → Num × FFlags) (s : State) :
    Host.Outcome State Fault Refusal :=
  fpOp f ty (.status 0 :: .src a :: srcOps b) d (fun s w fm c =>
    rounded fm c (g (fctlMode c) (readF fm c (s.reg w a).toNat) (readF fm c (s.src w b).toNat))) s

def execFadd (f : Form) (ty : Ty) (d a : Reg) (b : Src) (s : State) : Host.Outcome State Fault Refusal :=
  fpArith f ty d a b numAdd s
def execFsub (f : Form) (ty : Ty) (d a : Reg) (b : Src) (s : State) : Host.Outcome State Fault Refusal :=
  fpArith f ty d a b numSub s
def execFmul (f : Form) (ty : Ty) (d a : Reg) (b : Src) (s : State) : Host.Outcome State Fault Refusal :=
  fpArith f ty d a b (fun _ => numMul) s
def execFdiv (f : Form) (ty : Ty) (d a : Reg) (b : Src) (s : State) : Host.Outcome State Fault Refusal :=
  fpArith f ty d a b (fun _ => numDiv) s
def execFsqrt (f : Form) (ty : Ty) (d a : Reg) (_lit : BitVec 32) (s : State) : Host.Outcome State Fault Refusal :=
  fpOp f ty [.status 0, .src a] d (fun s w fm c => rounded fm c (numSqrt (readF fm c (s.reg w a).toNat))) s
def execFmin (f : Form) (ty : Ty) (d a : Reg) (b : Src) (s : State) : Host.Outcome State Fault Refusal :=
  fpOp f ty (.status 0 :: .src a :: srcOps b) d (fun s w fm c =>
    fMinMax fm false (fIn fm (fctlFz c) (s.reg w a).toNat) (fIn fm (fctlFz c) (s.src w b).toNat)) s
def execFmax (f : Form) (ty : Ty) (d a : Reg) (b : Src) (s : State) : Host.Outcome State Fault Refusal :=
  fpOp f ty (.status 0 :: .src a :: srcOps b) d (fun s w fm c =>
    fMinMax fm true (fIn fm (fctlFz c) (s.reg w a).toNat) (fIn fm (fctlFz c) (s.src w b).toNat)) s
def execFclass (f : Form) (ty : Ty) (d a : Reg) (_lit : BitVec 32) (s : State) : Host.Outcome State Fault Refusal :=
  fpOp f ty [.src a] d (fun s w fm _ => (fClass fm (s.reg w a).toNat, 0)) s
def execFrnd (f : Form) (ty : Ty) (d a : Reg) (_lit : BitVec 32) (s : State) : Host.Outcome State Fault Refusal :=
  fpOp f ty [.status 0, .src a] d (fun s w fm c => fRound fm (fctlMode c) (fIn fm (fctlFz c) (s.reg w a).toNat)) s
/-- fma (R123): one rounding of the exact value. -/
def execFma (f : Form) (ty : Ty) (d a b e : Reg) (s : State) : Host.Outcome State Fault Refusal :=
  fpOp f ty [.status 0, .src a, .src b, .src e] d (fun s w fm c =>
    rounded fm c (numFma (fctlMode c) (readF fm c (s.reg w a).toNat) (readF fm c (s.reg w b).toNat)
      (readF fm c (s.reg w e).toNat))) s

/-- fcmp (R124). -/
def execFcmp (f : Form) (ty : Ty) (cond : BitVec 3) (p : Pred) (a : Reg) (b : Src) (s : State) :
    Host.Outcome State Fault Refusal :=
  runInstr f (.status 0 :: .src a :: srcOps b) (fun s w =>
    let c := (s.strand w).fctl
    let fm := fmtOf ty
    let (r, fl) := fCompare fm cond.toNat (fIn fm (fctlFz c) (s.reg w a).toNat) (fIn fm (fctlFz c) (s.src w b).toNat)
    s.withFlags w fl 3 (fun s => s.setPred w p r)) s

/-- A value of a floating or integer type in the low bits of a number, as fcvt and tcvt read it (R125). -/
def convVal (t : Ty) (c : Word) (x : Nat) : Num :=
  if t.isInt then Num.ofInt (opVal (BitVec.ofNat 64 x) t) else readF (fmtOf t) c x

/-- A value of a type `from_` converted to a type: the result as Extend or the zero-extended encoding leaves it, and the flags
(R71, R125). An integer that does not fit an integer type saturates without a flag. -/
def convTo (from_ t : Ty) (c : Word) (v : Num) : Nat × FFlags :=
  if t.isInt then
    let (i, fl) := numToInt (fctlMode c) t v
    ((extend i t).toNat, if from_.isInt then 0 else fl)
  else numToF (fmtOf t) c v

def execFcvt (f : Form) (dty sty : Ty) (d a : Reg) (s : State) : Host.Outcome State Fault Refusal :=
  fpOp f dty (.src a :: fctlOps (!dty.isInt || !sty.isInt)) d (fun s w _ c => convTo sty dty c (convVal sty c (s.reg w a).toNat)) s

end Sys2Proof.Machine
end

