-- ==== Sys2Proof/Machine/Tile.lean ====
section
/-!
DEFINITION. Tile instructions (R173-R190): EltOp, element arithmetic, conversions and MX blocks, reductions,
rearrangement, LUT4 and bit planes. Class 5, 48 eu (R176). bsget.t is in BitStream.lean.
-/
namespace Sys2Proof.Machine

/-! ## Elements (R174) -/

/-- Element j of a row at width w. -/
def elem (r : Row) (w j : Nat) : Nat := r.toNat / 2 ^ (w * j) % 2 ^ w
/-- A row from its elements at width w. -/
def rowOf (w : Nat) (es : List Nat) : Row := BitVec.ofNat 512 (es.foldr (fun e acc => e % 2 ^ w + 2 ^ w * acc) 0)
/-- Element j of row i of a tile. -/
def Rows.elem (t : Rows) (w i j : Nat) : Nat := Machine.elem (t.row i) w j

/-- The type 0x0 stands for in an entry (R174). -/
def tyOr (t d : Ty) : Ty := if t = .i64 then d else t

/-- Some element of a tile of width w is inactive (R94), or none is. -/
def Strand.coversTile (st : Strand) (w : Nat) : Bool :=
  decide (st.rows = 16) && st.mask == 0xFFFF && decide (512 / w ≤ st.cols)

/-- EltOp on rows: F on each active element, the old value elsewhere; and the flags of all (R94, R175). -/
def eltRows (st : Strand) (w : Nat) (old : Rows) (g : Nat → Nat → Nat × FFlags) : Rows × FFlags :=
  let n := 512 / w
  let rs := (List.range 16).map (fun i =>
    if st.rowActive i then
      let es := (List.range n).map (fun j => if j < st.cols then g i j else (old.elem w i j, 0))
      (rowOf w (es.map (·.1)), es.foldl (fun a e => a ||| e.2) (0 : FFlags))
    else (old.row i, 0))
  (rs.map (·.1), rs.foldl (fun a e => a ||| e.2) 0)

/-- An instruction that writes one tile: the sources are read whole, then the destination is written with tag 0, unless an
enabled flag traps (R175). -/
def tileOp (f : Form) (d : Tile) (ops : List Opnd) (g : State → Who → Rows × FFlags) (s : State) :
    Host.Outcome State Fault Refusal :=
  runInstr f (.tdst d :: ops) (fun s w =>
    let (rows, fl) := g s w
    s.withFlags w fl 48 (fun s => s.setTile w d rows 0)) s

/-- EltOp (R175). -/
def eltOp (f : Form) (width : Nat) (d : Tile) (ops : List Opnd) (g : State → Who → Nat → Nat → Nat × FFlags)
    (s : State) : Host.Outcome State Fault Refusal :=
  tileOp f d (shapeOps ++ if (s.strand s.cur).coversTile width then .twhole d :: ops else ops)
    (fun s w => eltRows (s.strand w) width (s.tile w d) (g s w)) s

/-! ## Two-operand operations (R178) -/

/-- An integer element of a type. -/
def intElem (t : Ty) (x : Nat) : Int := if isSigned t then sval t.tileWidth x else (x : Int)
/-- An exact integer as an element: clamped to the type's range with .sat, else wrapped. -/
def putElem (t : Ty) (sat : Bool) (v : Int) : Nat :=
  let w := t.tileWidth
  let lo : Int := if isSigned t then -((2 ^ (w - 1) : Nat) : Int) else 0
  let hi : Int := if isSigned t then ((2 ^ (w - 1) - 1 : Nat) : Int) else ((2 ^ w - 1 : Nat) : Int)
  wrap w (if sat then max lo (min v hi) else v)

/-- An arithmetic operation of two elements: floating or integer. -/
def elt2 (ty : Ty) (sat : Bool) (c : Word) (g : Nat → Num → Num → Num × FFlags) (h : Int → Int → Int) (x y : Nat) :
    Nat × FFlags :=
  let t := tyOr ty .f32
  if ty.isFT then rounded (fmtOf t) c (g (fctlMode c) (readF (fmtOf t) c x) (readF (fmtOf t) c y))
  else (putElem t sat (h (intElem t x) (intElem t y)), 0)

/-- The smaller or larger of two elements. -/
def eltMinMax (ty : Ty) (isMax : Bool) (c : Word) (x y : Nat) : Nat × FFlags :=
  let t := tyOr ty .f32
  if ty.isFT then fMinMax (fmtOf t) isMax (fIn (fmtOf t) (fctlFz c) x) (fIn (fmtOf t) (fctlFz c) y)
  else
    let less := decide (intElem t x < intElem t y)
    (if isMax then (if less then y else x) else (if less then x else y), 0)

/-- A two-source element instruction; `fp` says that it reads FCTL. -/
def tile2 (f : Form) (ty : Ty) (fp : Bool) (d a b : Tile) (g : Word → Nat → Nat → Nat × FFlags) (s : State) :
    Host.Outcome State Fault Refusal :=
  let wd := ty.tileWidth
  eltOp f wd d (.tsrc a :: .tsrc b :: fctlOps fp) (fun s w i j =>
    g (s.strand w).fctl ((s.tile w a).elem wd i j) ((s.tile w b).elem wd i j)) s

def execTadd (f : Form) (ty : Ty) (sat : Bool) (d a b : Tile) (s : State) : Host.Outcome State Fault Refusal :=
  tile2 f ty ty.isFT d a b (fun c => elt2 ty sat c numAdd (· + ·)) s
def execTsub (f : Form) (ty : Ty) (sat : Bool) (d a b : Tile) (s : State) : Host.Outcome State Fault Refusal :=
  tile2 f ty ty.isFT d a b (fun c => elt2 ty sat c numSub (· - ·)) s
def execTmul (f : Form) (ty : Ty) (sat : Bool) (d a b : Tile) (s : State) : Host.Outcome State Fault Refusal :=
  tile2 f ty ty.isFT d a b (fun c => elt2 ty sat c (fun _ => numMul) (· * ·)) s
def execTmin (f : Form) (ty : Ty) (d a b : Tile) (s : State) : Host.Outcome State Fault Refusal :=
  tile2 f ty ty.isFT d a b (eltMinMax ty false) s
def execTmax (f : Form) (ty : Ty) (d a b : Tile) (s : State) : Host.Outcome State Fault Refusal :=
  tile2 f ty ty.isFT d a b (eltMinMax ty true) s
def execTand (f : Form) (ty : Ty) (d a b : Tile) (s : State) : Host.Outcome State Fault Refusal :=
  tile2 f ty false d a b (fun _ x y => (x &&& y, 0)) s
def execTor (f : Form) (ty : Ty) (d a b : Tile) (s : State) : Host.Outcome State Fault Refusal :=
  tile2 f ty false d a b (fun _ x y => (x ||| y, 0)) s
def execTxor (f : Form) (ty : Ty) (d a b : Tile) (s : State) : Host.Outcome State Fault Refusal :=
  tile2 f ty false d a b (fun _ x y => (x ^^^ y, 0)) s

/-- Operands and count of tshl and tshr. -/
def shiftOps : TShift → List Opnd
  | .tile b => [.tsrc b]
  | .imm _ => []
def shiftBy (s : State) (w : Who) (k : TShift) (wd i j : Nat) : Nat :=
  match k with
  | .tile b => (s.tile w b).elem wd i j
  | .imm n => n.toNat

def execTshl (f : Form) (ty : Ty) (d a : Tile) (k : TShift) (s : State) : Host.Outcome State Fault Refusal :=
  let wd := ty.tileWidth
  eltOp f wd d (.tsrc a :: shiftOps k) (fun s w i j =>
    let n := shiftBy s w k wd i j
    (if wd ≤ n then 0 else (s.tile w a).elem wd i j * 2 ^ n % 2 ^ wd, 0)) s
def execTshr (f : Form) (ty : Ty) (d a : Tile) (k : TShift) (s : State) : Host.Outcome State Fault Refusal :=
  let t := tyOr ty .i32
  let wd := t.tileWidth
  eltOp f wd d (.tsrc a :: shiftOps k) (fun s w i j =>
    let n := min (shiftBy s w k wd i j) wd
    (wrap wd (intElem t ((s.tile w a).elem wd i j) / ((2 ^ n : Nat) : Int)), 0)) s

/-- tfma (R179). -/
def execTfma (f : Form) (ty : Ty) (sat : Bool) (d a b c : Tile) (s : State) : Host.Outcome State Fault Refusal :=
  let t := tyOr ty .f32
  let wd := t.tileWidth
  eltOp f wd d (.tsrc a :: .tsrc b :: .tsrc c :: fctlOps ty.isFT) (fun s w i j =>
    let fc := (s.strand w).fctl
    let x := (s.tile w a).elem wd i j
    let y := (s.tile w b).elem wd i j
    let z := (s.tile w c).elem wd i j
    if ty.isFT then
      let fm := fmtOf t
      rounded fm fc (numFma (fctlMode fc) (readF fm fc x) (readF fm fc y) (readF fm fc z))
    else (putElem t sat (intElem t x * intElem t y + intElem t z), 0)) s

/-- The comparison of two elements (R180). -/
def eltCompare (ty : Ty) (cond : Nat) (c : Word) (x y : Nat) : Bool × FFlags :=
  let t := tyOr ty .f32
  if ty.isFT then fCompare (fmtOf t) cond (fIn (fmtOf t) (fctlFz c) x) (fIn (fmtOf t) (fctlFz c) y)
  else
    let a := intElem t x
    let b := intElem t y
    ((match cond with
      | 0 => a == b
      | 1 => a != b
      | 2 => decide (a < b)
      | 3 => decide (a ≤ b)
      | 4 => decide (b < a)
      | _ => decide (b ≤ a)), 0)

def execTcmp (f : Form) (ty : Ty) (cond : BitVec 3) (d a b : Tile) (s : State) : Host.Outcome State Fault Refusal :=
  tile2 f ty ty.isFT d a b (fun c x y =>
    let (r, fl) := eltCompare ty cond.toNat c x y
    (if r then 2 ^ ty.tileWidth - 1 else 0, fl)) s
def execTsel (f : Form) (ty : Ty) (d a b c : Tile) (s : State) : Host.Outcome State Fault Refusal :=
  let wd := ty.tileWidth
  eltOp f wd d [.tsrc a, .tsrc b, .tsrc c] (fun s w i j =>
    (if (s.tile w c).elem wd i j ≠ 0 then (s.tile w a).elem wd i j else (s.tile w b).elem wd i j, 0)) s

/-! ## Moves, fills, one-operand operations (R181-R183) -/

/-- A one-source element instruction; `fp` says that it reads FCTL. -/
def tile1 (f : Form) (ty : Ty) (fp : Bool) (d a : Tile) (g : Word → Nat → Nat × FFlags) (s : State) :
    Host.Outcome State Fault Refusal :=
  let wd := ty.tileWidth
  eltOp f wd d (.tsrc a :: fctlOps fp) (fun s w i j => g (s.strand w).fctl ((s.tile w a).elem wd i j)) s

def execTmov (f : Form) (ty : Ty) (d a : Tile) (s : State) : Host.Outcome State Fault Refusal :=
  tile1 f ty false d a (fun _ x => (x, 0)) s
def execTzero (f : Form) (ty : Ty) (d : Tile) (s : State) : Host.Outcome State Fault Refusal :=
  eltOp f ty.tileWidth d [] (fun _ _ _ _ => (0, 0)) s
def execTiota (f : Form) (ty : Ty) (d : Tile) (s8 : BitVec 8) (s : State) : Host.Outcome State Fault Refusal :=
  eltOp f ty.tileWidth d (fctlOps ty.isFT) (fun s w i j =>
    let v : Int := ((i * s8.toNat + j : Nat) : Int)
    if ty.isFT then rounded (fmtOf (tyOr ty .f32)) (s.strand w).fctl (Num.ofInt v, 0)
    else (putElem ty false v, 0)) s

/-- The sign of a floating element cleared or inverted (R181). -/
def fSignOp (f : Fmt) (c : Word) (x : Nat) (g : Bool → Bool) : Nat × FFlags :=
  let v := fIn f (fctlFz c) x
  if fIsNan f v then (f.nan, if fIsSnan f v then fNV else 0)
  else (fMag f v + (if g (fSign f v) then f.signBit else 0), 0)

def execTabs (f : Form) (ty : Ty) (sat : Bool) (d a : Tile) (s : State) : Host.Outcome State Fault Refusal :=
  tile1 f ty ty.isFT d a (fun c x =>
    if ty.isFT then fSignOp (fmtOf (tyOr ty .f32)) c x (fun _ => false)
    else (putElem ty sat ((intElem ty x).natAbs : Int), 0)) s
def execTneg (f : Form) (ty : Ty) (sat : Bool) (d a : Tile) (s : State) : Host.Outcome State Fault Refusal :=
  tile1 f ty ty.isFT d a (fun c x =>
    if ty.isFT then fSignOp (fmtOf (tyOr ty .f32)) c x (fun n => !n)
    else (putElem ty sat (-(intElem ty x)), 0)) s

/-- A special function of each element (R182). -/
def tileSpecial (f : Form) (fn : Nat) (ty : Ty) (d a : Tile) (s : State) : Host.Outcome State Fault Refusal :=
  tile1 f ty true d a (fun c x => rounded (fmtOf (tyOr ty .f32)) c (special fn (readF (fmtOf (tyOr ty .f32)) c x))) s

def execTexp2 (f : Form) (ty : Ty) (d a : Tile) (s : State) : Host.Outcome State Fault Refusal := tileSpecial f 0 ty d a s
def execTlog2 (f : Form) (ty : Ty) (d a : Tile) (s : State) : Host.Outcome State Fault Refusal := tileSpecial f 1 ty d a s
def execTrcp (f : Form) (ty : Ty) (d a : Tile) (s : State) : Host.Outcome State Fault Refusal := tileSpecial f 2 ty d a s
def execTrsqrt (f : Form) (ty : Ty) (d a : Tile) (s : State) : Host.Outcome State Fault Refusal := tileSpecial f 3 ty d a s
def execTtanh (f : Form) (ty : Ty) (d a : Tile) (s : State) : Host.Outcome State Fault Refusal := tileSpecial f 4 ty d a s

def execTbcast (f : Form) (ty : Ty) (d : Tile) (v : Src) (s : State) : Host.Outcome State Fault Refusal :=
  eltOp f ty.tileWidth d (srcOps v) (fun s w _ _ => ((s.src w v).toNat % 2 ^ ty.tileWidth, 0)) s

/-- A row with element j at width w replaced. -/
def setElem (r : Row) (w j v : Nat) : Row :=
  BitVec.ofNat 512 (r.toNat - elem r w j * 2 ^ (w * j) + v % 2 ^ w * 2 ^ (w * j))

def execTset (f : Form) (ty : Ty) (d : Tile) (row : BitVec 4) (col : BitVec 8) (v : Src) (s : State) :
    Host.Outcome State Fault Refusal :=
  tileOp f d (srcOps v) (fun s w =>
    let t := s.tile w d
    (t.set row.toNat (setElem (t.row row.toNat) ty.tileWidth col.toNat (s.src w v).toNat), 0)) s

/-! ## Conversions (R184, R185) -/

/-- The source element of destination element k of a plain tcvt, or none where it is not written (R184). -/
def tcvtFrom (ns nd p k : Nat) : Option Nat :=
  if nd ≤ ns then some (k + p * nd) else if p * ns ≤ k ∧ k < p * ns + ns then some (k - p * ns) else none

def tcvtPlain (f : Form) (dty sty : Ty) (d a : Tile) (p : Nat) (s : State) : Host.Outcome State Fault Refusal :=
  let dt := tyOr dty .f32
  let st := tyOr sty .f32
  let whole := decide (dt.perRow ≤ st.perRow) && (s.strand s.cur).coversTile dt.tileWidth
  tileOp f d (shapeOps ++ fctlOps (dt.isFT || st.isFT) ++ if whole then [.twhole d, .tsrc a] else [.tsrc a]) (fun s w =>
    let old := s.tile w d
    eltRows (s.strand w) dt.tileWidth old (fun i k =>
      match tcvtFrom st.perRow dt.perRow p k with
      | some j =>
        let c := (s.strand w).fctl
        let (v, fl) := convTo st dt c (convVal st c ((s.tile w a).elem st.tileWidth i j))
        (v % 2 ^ dt.tileWidth, fl)
      | none => (old.elem dt.tileWidth i k, 0))) s

/-- The 32 values of an element format at a width, from a row at element m on. -/
def blockVals (fm : Fmt) (c : Word) (r : Row) (m : Nat) : List Num :=
  (List.range 32).map (fun j => readF fm c (elem r fm.w (m + j)))

/-- tcvt .mx, encode (R185): codes to d, scales to sc. -/
def tcvtEnc (f : Form) (dty sty : Ty) (d a b sc : Tile) (s : State) : Host.Outcome State Fault Refusal :=
  runInstr f ([.tdst d, .tdst sc, .tsrc a, .tsrc b, .status 0] ++ shapeOps) (fun s w =>
    let st := s.strand w
    let fm := fmtOf sty
    let res := (List.range 16).map (fun i =>
      if st.rowActive i then
        let q0 := mxQuantise (fmtOf dty) st.fctl (blockVals fm st.fctl ((s.tile w a).row i) 0)
        let q1 := mxQuantise (fmtOf dty) st.fctl (blockVals fm st.fctl ((s.tile w b).row i) 0)
        (rowOf 8 (q0.2.1 ++ q1.2.1), BitVec.ofNat 512 (q0.1 + 256 * q1.1), q0.2.2 ||| q1.2.2)
      else ((s.tile w d).row i, (s.tile w sc).row i, (0 : FFlags)))
    s.withFlags w (res.foldl (fun x r => x ||| r.2.2) 0) 48 (fun s =>
      (s.setTile w d (res.map (·.1)) 0).setTile w sc (res.map (·.2.1)) 0)) s

/-- tcvt .mx, decode (R185): block 0 to d, block 1 to e. -/
def tcvtDec (f : Form) (dty sty : Ty) (d a sc e : Tile) (s : State) : Host.Outcome State Fault Refusal :=
  runInstr f ([.tdst d, .tdst e, .tsrc a, .tsrc sc, .status 0] ++ shapeOps) (fun s w =>
    let st := s.strand w
    let fm := fmtOf sty
    let half (i m : Nat) : List (Nat × FFlags) := (List.range 32).map (fun j =>
      let code := fIn fm (fctlFz st.fctl) ((s.tile w a).elem 8 i (32 * m + j))
      rounded (fmtOf dty) st.fctl (mxValue fm ((s.tile w sc).elem 8 i m) code, 0))
    let res := (List.range 16).map (fun i =>
      if st.rowActive i then
        let h0 := half i 0
        let h1 := half i 1
        (rowOf 16 (h0.map (·.1)), rowOf 16 (h1.map (·.1)), (h0 ++ h1).foldl (fun x r => x ||| r.2) (0 : FFlags))
      else ((s.tile w d).row i, (s.tile w e).row i, (0 : FFlags)))
    s.withFlags w (res.foldl (fun x r => x ||| r.2.2) 0) 48 (fun s =>
      (s.setTile w d (res.map (·.1)) 0).setTile w e (res.map (·.2.1)) 0)) s

def execTcvt (f : Form) (dty sty : Ty) (d a : Tile) (k : TcvtForm) (s : State) : Host.Outcome State Fault Refusal :=
  match k with
  | .plain p => tcvtPlain f dty sty d a p.toNat s
  | .enc b sc => tcvtEnc f dty sty d a b sc s
  | .dec sc e => tcvtDec f dty sty d a sc e s

/-! ## Reductions (R186) -/

/-- The combining type: ty, or its wide type. -/
def wideTy (ty : Ty) (wide : Bool) : Ty :=
  let t := tyOr ty .f32
  if !wide then t
  else if t.isFT then .f32 else if isSigned t then .i32 else .n32

/-- An element converted exactly to the combining type. -/
def widenElem (ty u : Ty) (c : Word) (x : Nat) : Nat :=
  let t := tyOr ty .f32
  if t = u then (if t.isFT then fIn (fmtOf t) (fctlFz c) x else x)
  else if t.isFT then (if fIsNan (fmtOf t) x then fMag (fmtOf u) (if fIsSnan (fmtOf t) x then 0x7F800001 else (fmtOf u).nan)
    else (roundTo (fmtOf u) 0 false (fVal (fmtOf t) (fIn (fmtOf t) (fctlFz c) x))).1)
  else putElem u false (intElem t x)

/-- An element as the reduction meets it: widened exactly, with the flag of a signalling NaN operand (R64). -/
def redIn (ty u : Ty) (c : Word) (x : Nat) : Nat × FFlags :=
  let t := tyOr ty .f32
  (widenElem ty u c x, if t.isFT && fIsSnan (fmtOf t) x then fNV else 0)

/-- One combination at the combining type, on elements with their flags so far. -/
def combine (op : Nat) (u : Ty) (c : Word) (x y : Nat × FFlags) : Nat × FFlags :=
  let (v, fl) := match op with
    | 0 => elt2 u false c numAdd (· + ·) x.1 y.1
    | 1 => eltMinMax u true c x.1 y.1
    | _ => eltMinMax u false c x.1 y.1
  (v, x.2 ||| y.2 ||| fl)

/-- A reduction's result as written: a NaN is canonical (R64). -/
def redOut (u : Ty) (x : Nat) : Nat := if u.isFT && fIsNan (fmtOf u) x then (fmtOf u).nan else x

/-- The empty result of a column. -/
def emptyRed (op : Nat) (u : Ty) : Nat :=
  let w := u.tileWidth
  match op with
  | 0 => 0
  | 1 => if u.isFT then (fmtOf u).signBit + (fmtOf u).infBits else if isSigned u then 2 ^ (w - 1) else 0
  | _ => if u.isFT then (fmtOf u).infBits else if isSigned u then 2 ^ (w - 1) - 1 else 2 ^ w - 1

def execTrowred (f : Form) (ty : Ty) (op : BitVec 2) (wide : Bool) (d a : Tile) (s : State) :
    Host.Outcome State Fault Refusal :=
  let u := wideTy ty wide
  let wd := ty.tileWidth
  tileOp f d (.tsrc a :: shapeOps ++ fctlOps ty.isFT) (fun s w =>
    let st := s.strand w
    let res := (List.range 16).map (fun i =>
      let old := (s.tile w d).row i
      if st.rowActive i then
        let vs := (List.range (512 / wd)).map (fun j =>
          if j < st.cols then some (redIn ty u st.fctl ((s.tile w a).elem wd i j)) else none)
        match pairTree (combine op.toNat u st.fctl) 7 vs with
        | some r => (setElem old u.tileWidth 0 (redOut u r.1), r.2)
        | none => (old, 0)
      else (old, 0))
    (res.map (·.1), res.foldl (fun x r => x ||| r.2) 0)) s

def execTcolred (f : Form) (ty : Ty) (op : BitVec 2) (wide : Bool) (d a : Tile) (s : State) :
    Host.Outcome State Fault Refusal :=
  let u := wideTy ty wide
  let wd := ty.tileWidth
  let nu := u.perRow
  tileOp f d (.tsrc a :: shapeOps ++ fctlOps ty.isFT) (fun s w =>
    let st := s.strand w
    let n := min st.cols (512 / wd)
    let cols := (List.range n).map (fun j =>
      let vs := (List.range 16).map (fun i =>
        if st.rowActive i then some (redIn ty u st.fctl ((s.tile w a).elem wd i j)) else none)
      (pairTree (combine op.toNat u st.fctl) 4 vs).getD (emptyRed op.toNat u, 0))
    let rows := (List.range 16).map (fun i =>
      rowOf u.tileWidth ((List.range nu).map (fun k =>
        match cols[i * nu + k]? with
        | some r => redOut u r.1
        | none => (s.tile w d).elem u.tileWidth i k)))
    (rows, cols.foldl (fun x r => x ||| r.2) 0)) s

/-! ## Rearrangement (R187) -/

def execTtrans (f : Form) (ty : Ty) (d a : Tile) (h : BitVec 8) (s : State) : Host.Outcome State Fault Refusal :=
  let wd := ty.tileWidth
  let base := 16 * h.toNat
  tileOp f d (if wd = 32 then [.twhole d, .tsrc a] else [.tsrc a]) (fun s w =>
    ((List.range 16).map (fun i => rowOf wd ((List.range (512 / wd)).map (fun j =>
      if base ≤ j ∧ j < base + 16 then (s.tile w a).elem wd (j - base) (base + i) else (s.tile w d).elem wd i j))), 0)) s

def execTperm (f : Form) (ty : Ty) (d a b : Tile) (s : State) : Host.Outcome State Fault Refusal :=
  let wd := ty.tileWidth
  eltOp f wd d [.tsrc a, .tsrc b] (fun s w i j =>
    let k := (s.tile w b).elem 8 i j
    (if k < 512 / wd then (s.tile w a).elem wd i k else 0, 0)) s

/-! ## LUT4 and bit planes (R72-R75, R188-R190) -/

/-- Entry c of a LUT4 table, a signed 8-bit integer (R72). -/
def lutEntry (lut : BitVec 128) (c : Nat) : Int := sval 8 (lut.toNat / 2 ^ (8 * c))

def execTlutload (f : Form) (a : Tile) (s : State) : Host.Outcome State Fault Refusal :=
  runInstr f [.feat 1, .tsrc a] (fun s w =>
    done (s.setLive w.core { s.live w.core with lut := ((s.tile w a).row 0).setWidth 128 }) 48) s

def execTlut (f : Form) (ty : Ty) (d a : Tile) (p : BitVec 8) (s : State) : Host.Outcome State Fault Refusal :=
  let t := tyOr ty .i8
  let wd := t.tileWidth
  eltOp f wd d [.feat 1, .tsrc a] (fun s w i k =>
    let v := lutEntry (s.live w.core).lut ((s.tile w a).elem 4 i (k + p.toNat * (512 / wd)))
    (if t.isFT then (roundTo (fmtOf t) 0 false (Num.ofInt v)).1 else putElem t false v, 0)) s

/-- A row of 64 bytes in the BPN layout (R74). -/
def toPlanes (r : Row) : Row :=
  rowOf 64 ((List.range 8).map (fun p =>
    (List.range 64).foldr (fun j acc => (if r.toNat.testBit (8 * j + 7 - p) then 1 else 0) + 2 * acc) 0))

/-- The value of element j of a BPN row read at depth k (R75). -/
def bpnVal (r : Row) (k j : Nat) : Int :=
  let u := (List.range k).foldl (fun acc p => 2 * acc + (if r.toNat.testBit (64 * p + j) then 1 else 0)) 0
  let q := sval k u
  if k < 8 then q * ((2 ^ (8 - k) : Nat) : Int) + ((2 ^ (7 - k) : Nat) : Int) else q

/-- An operation on whole active rows. -/
def rowOp (f : Form) (d a : Tile) (ops : List Opnd) (g : Row → Row) (s : State) : Host.Outcome State Fault Refusal :=
  let st := s.strand s.cur
  let whole : List Opnd := if st.rows = 16 ∧ st.mask = 0xFFFF then [.twhole d] else []
  tileOp f d (whole ++ .tsrc a :: shapeOps ++ ops) (fun s w =>
    ((List.range 16).map (fun i =>
      if (s.strand w).rowActive i then g ((s.tile w a).row i) else (s.tile w d).row i), 0)) s

def execTplanes (f : Form) (d a : Tile) (s : State) : Host.Outcome State Fault Refusal :=
  rowOp f d a [.feat 0] toPlanes s
def execTunplanes (f : Form) (k : BitVec 4) (d a : Tile) (s : State) : Host.Outcome State Fault Refusal :=
  rowOp f d a [.feat 0] (fun r => rowOf 8 ((List.range 64).map (fun j => wrap 8 (bpnVal r k.toNat j)))) s

end Sys2Proof.Machine
end

