-- ==== Sys2Proof/Machine/Memory.lean ====
section
/-!
DEFINITION. Plain loads and stores, near accesses, tile rows, prefetch and register spills (R152-R157), and the return of a
load's data (R147).
-/
namespace Sys2Proof.Machine

/-! ## ld, st (R152) -/

def execLd (f : Form) (ty : Ty) (d a : Reg) (imm : Imm) (s : State) : Host.Outcome State Fault Refusal :=
  runInstr f [.mem, .dst d, .src a] (fun s w =>
    memAccess s w .load (s.reg w a + imm) (memWidth ty) (fun s p =>
      .ok (.retire (s.startLoad w d 0 ty p none) (memEu [p])))) s

def execSt (f : Form) (ty : Ty) (d a : Reg) (imm : Imm) (s : State) : Host.Outcome State Fault Refusal :=
  runInstr f [.mem, .src d, .src a] (fun s w =>
    memAccess s w .store (s.reg w a + imm) (memWidth ty) (fun s p =>
      .ok (.retire ((s.storeAt w p (s.reg w d).toNat).setLate w false) (memEu [p])))) s

/-! ## ldn, stn (R154); an access to another core counts on an adaptive path, as R231 has it for stn (assumption 25) -/

/-- The peer of a rank in the executing core's cluster (R17). -/
def peerOf (core rank : Nat) : Nat := clusterCore (clusterOf core) rank

/-- The checks of a near access: alignment, the range, the allotment. -/
def nearTrap (s : State) (w : Who) (k : Acc) (l : Word) (n peer : Nat) : Option Trap :=
  if l.toNat % n ≠ 0 then some (.align l k.code)
  else if 0x30000 < l.toNat + n then some { code := .access, cause := 35, va := l, kind := k.code }
  else if !s.inAllot (s.ctxOf w.core) peer then some { code := .access, cause := 33, va := l, kind := k.code }
  else none

/-- A near access to the own rank: at the LM port, through the own window. -/
def ownNear (s : State) (w : Who) (k : Acc) (l : Word) (n : Nat) (go : State → Nat → State) : Except Trap Ans :=
  match lmPhys (s.strand w).hold l.toNat with
  | none => .error { code := .access, cause := 8, va := l, kind := k.code }
  | some p =>
    let flat := lmFlat w.core p
    if k.writes && (s.live w.core).hingeCovers p n then .error { code := .access, cause := 11, va := l, kind := k.code }
    else if s.mustWait w k.writes flat n then s.holdBack w .operand
    else if k.writes && s.narrowBad flat n then .error { code := .ecc, cause := 27, va := l, kind := k.code }
    else .ok (.retire (go s flat) 4)

def execLdn (f : Form) (ty : Ty) (rank : BitVec 4) (d a : Reg) (off : BitVec 16) (s : State) :
    Host.Outcome State Fault Refusal :=
  runInstr f [.mem, .dst d, .src a] (fun s w =>
    let n := memWidth ty
    let l := s.reg w a + off.signExtend 64
    let p := peerOf w.core rank.toNat
    match nearTrap s w .load l n p with
    | some t => .error t
    | none =>
      let piece (at_ : Place) : Piece := { va := l, n := n, x := ⟨l, .lm p l.toNat, .none_, false⟩, at_ := at_ }
      if p = w.core then ownNear s w .load l n (fun s flat => s.startLoad w d 0 ty (piece (.lm flat)) none)
      else if !s.isActive (s.ctxOf w.core) p then s.holdBack w .remote
      else if s.mustWait w false (awayFlat p l.toNat) n then s.holdBack w .operand
      else
        let at_ : Place := .away p l.toNat
        .ok (.retire (s.sendLoad w .nearLoad at_ (s.loadOf w d 0 ty (piece at_)) (s.strand w).adaptive) 40)) s

def execStn (f : Form) (ty : Ty) (rank : BitVec 4) (d a : Reg) (off : BitVec 16) (s : State) :
    Host.Outcome State Fault Refusal :=
  runInstr f [.mem, .src d, .src a] (fun s w =>
    let n := memWidth ty
    let l := s.reg w a + off.signExtend 64
    let p := peerOf w.core rank.toNat
    match nearTrap s w .store l n p with
    | some t => .error t
    | none =>
      if p = w.core then ownNear s w .store l n (fun s flat => s.writeAt w (.lm flat) n (s.reg w d).toNat)
      else if s.mustWaitSend w (awayFlat p l.toNat) n then s.holdBack w .operand
      else
        .ok (.retire (s.send w { (s.packet w .near (some (s.strand w).adaptive)).aim (.away p l.toNat) n with
          va := l, data := (s.reg w d).setWidth 512 }) 40)) s

/-! ## ldt, stt (R155) -/

/-- The addresses of the active rows, from a base with a pitch. -/
def Strand.rowVas (st : Strand) (base pitch : Word) : List (Nat × Word) :=
  ((List.range 16).filter st.rowActive).map (fun i => (i, base + BitVec.ofNat 64 i * pitch))

/-- The active rows, checked and translated one after another, each an access of 64 bytes. -/
def State.rowPlaces (s : State) (w : Who) (k : Acc) : List (Nat × Word) → Except Trap (List Piece)
  | [] => .ok []
  | r :: t =>
    if r.2.toNat % 64 ≠ 0 then .error (.align r.2 k.code)
    else
      match s.places w k .tile [(r.2, 64)] with
      | .error e => .error e
      | .ok ps =>
        match s.rowPlaces w k t with
        | .error e => .error e
        | .ok qs => .ok (ps ++ qs)

/-- The pieces of the active rows. -/
def State.rowPieces (s : State) (w : Who) (k : Acc) (rows : List (Nat × Word)) : Except Trap (List Piece) :=
  match s.rowPlaces w k rows with
  | .error t => .error t
  | .ok ps => s.unwatched w k ps

/-- A piece as it is read: its bytes where they lie, none for a window position of another core that is not held. -/
def State.rowPlace (s : State) (w : Who) (p : Piece) : Option Place :=
  match p.at_ with
  | .away c o => (s.awayPhys (s.strand w).job c o).map (fun q => .lm (lmFlat c q))
  | a => some a

/-- Pieces read one after another: each read with the state it leaves. -/
def State.readRows (s : State) (w : Who) : List Piece → Except Trap (List Nat × State)
  | [] => .ok ([], s)
  | p :: t =>
    match s.rowPlace w p with
    | none => .error (xlatTrap 8 p.x.ent.level p.x.ent.entry p.va .load)
    | some at_ =>
      if s.deadPeer at_ then .error (p.dead .load)
      else
        match s.eccCause (clusterOf w.core) at_.flat p.n at_.cached with
        | some c => .error { code := .ecc, cause := c, va := p.va, hurt := (at_.flat, p.n) }
        | none =>
          let (v, s1) := s.loadAt w p.va at_ p.n
          let s2 := match p.at_ with
            | .away _ _ | .peer _ _ _ => s1.ackNow w
            | _ => s1
          match s2.readRows w t with
          | .error e => .error e
          | .ok (vs, s3) => .ok (v :: vs, s3)

/-- A row that the strand cannot reach now: it waits for it, but not for a module that has FAILED. -/
def State.rowAway (s : State) (w : Who) (ps : List Piece) : Bool :=
  ps.any (fun p => (s.unreached w p.at_ && !s.deadPeer p.at_) || s.missCut w p.va p.at_ || s.mmioCut w p.at_)

def loadRows (s : State) (w : Who) (d : Tile) (base pitch : Word) (fin : State → State) : Except Trap Ans :=
  let rows := (s.strand w).rowVas base pitch
  match s.rowPieces w .load rows with
  | .error t => .error t
  | .ok ps =>
    if s.rowAway w ps then s.holdBack w .remote
    else if ps.any (fun p => s.mustWait w false p.at_.flat 64) then s.holdBack w .operand
    else
      match (s.useAll w ps).readRows w ps with
      | .error t => .error t
      | .ok (vs, s1) =>
        let tile := (rows.zip vs).foldl (fun (t : Rows) r => t.set r.1.1 (BitVec.ofNat 512 r.2)) (s.tile w d)
        .ok (.retire (fin (s1.setTile w d tile 0)) (memEu ps))

def storeRows (s : State) (w : Who) (d : Tile) (base pitch : Word) (fin : State → State) : Except Trap Ans :=
  let rows := (s.strand w).rowVas base pitch
  match s.rowPieces w .store rows with
  | .error t => .error t
  | .ok ps =>
    if ps.any (fun p => s.pieceWaits w p 64) then s.holdBack w .operand
    else
      let s1 := (rows.zip ps).foldl (fun acc r => acc.storeAt w r.2 ((s.tile w d).row r.1.1).toNat) (s.useAll w ps)
      .ok (.retire (fin (s1.setLate w false)) (memEu ps))

def tilePitch (s : State) (w : Who) (b : Reg) : Word := if b = 0 then 64 else s.reg w b
def ldtWhole (s : State) (d : Tile) : List Opnd :=
  let st := s.strand s.cur
  if st.rows = 16 ∧ st.mask = 0xFFFF then [.twhole d] else []

def execLdt (f : Form) (d : Tile) (a b : Reg) (imm : Imm) (s : State) : Host.Outcome State Fault Refusal :=
  runInstr f (ldtWhole s d ++ shapeOps ++ [.mem, .tdst d, .src a, .src b]) (fun s w =>
    loadRows s w d (s.reg w a + imm) (tilePitch s w b) id) s
def execStt (f : Form) (d : Tile) (a b : Reg) (imm : Imm) (s : State) : Host.Outcome State Fault Refusal :=
  runInstr f (shapeOps ++ [.mem, .tsrc d, .src a, .src b]) (fun s w =>
    storeRows s w d (s.reg w a + imm) (tilePitch s w b) id) s
/-- The step of a post-increment form. Where b names a register the literal of a 96-bit form is ignored: the spec reserves the
immediate there and says nothing of the literal (DESIGN CHOICE, assumption 54). -/
def tileStep (s : State) (w : Who) (b : Reg) (imm : Imm) : Word := if b = 0 then imm else s.reg w b
def execLdtPost (f : Form) (d : Tile) (a b : Reg) (imm : Imm) (s : State) : Host.Outcome State Fault Refusal :=
  runInstr f (ldtWhole s d ++ shapeOps ++ [.mem, .tdst d, .src a, .dst a, .src b]) (fun s w =>
    let base := s.reg w a
    let step := tileStep s w b imm
    loadRows s w d base 64 (fun s => s.setReg w a (base + step))) s
def execSttPost (f : Form) (d : Tile) (a b : Reg) (imm : Imm) (s : State) : Host.Outcome State Fault Refusal :=
  runInstr f (shapeOps ++ [.mem, .tsrc d, .src a, .dst a, .src b]) (fun s w =>
    let base := s.reg w a
    let step := tileStep s w b imm
    storeRows s w d base 64 (fun s => s.setReg w a (base + step))) s

/-! ## pref (R157) -/

/-- A line fetched into the cluster cache, where a load of it would be allowed and its links carry it; else skipped. -/
def State.prefetch (s : State) (w : Who) (va : Word) : State :=
  let get (p : Place) : State := if s.drooping w.core || s.fillCut w p then s else s.holdLine (clusterOf w.core) (p.flat / 64)
  match s.translate w va .load .tile with
  | .error _ => s
  | .ok x =>
    match x.tgt with
    | .hbm pa false => get (.hbm pa false)
    | .host a => get (.host (hostFlat a))
    | _ => s

def execPref (f : Form) (n1 : BitVec 6) (a : Reg) (hc : Bool) (off : BitVec 16) (s : State) :
    Host.Outcome State Fault Refusal :=
  runInstr f [.mem, .src a] (fun s w =>
    let ea := s.reg w a + off.signExtend 64
    let base := ea - BitVec.ofNat 64 (ea.toNat % 64)
    let s1 := if hc then s
      else (List.range (n1.toNat + 1)).foldl (fun acc i => acc.prefetch w (base + BitVec.ofNat 64 (64 * i))) s
    done s1 40) s

/-! ## pushm, popm (R103, R104, R156) -/

def spillPtr (v : Word) : Nat := bits v 17 0
def spillBase (v : Word) : Nat := bits v 35 18
def spillLimit (v : Word) : Nat := bits v 53 36

/-- The physical dwords of n dwords of the strand's own LM, with the trap of the first that cannot be reached. -/
def State.spillSlots (s : State) (w : Who) (k : Acc) (off n : Nat) : Except Trap (List Nat) :=
  let offs := (List.range n).map (fun i => off + 8 * i)
  match offs.find? (fun o => (lmPhys (s.strand w).hold o).isNone) with
  | some o => .error { code := .access, cause := 8, va := BitVec.ofNat 64 o, kind := k.code }
  | none =>
    let ps := offs.filterMap (lmPhys (s.strand w).hold)
    match ps.find? (fun p => (s.live w.core).hingeCovers p 8) with
    | some p => .error { code := .access, cause := 11, va := BitVec.ofNat 64 p, kind := k.code }
    | none => .ok ps

def regAt (a : Reg) (i : Nat) : Reg := BitVec.ofNat 6 (a.toNat + i)

def execPushm (f : Form) (a b : Reg) (s : State) : Host.Outcome State Fault Refusal :=
  let n := b.toNat + 1 - a.toNat
  runInstr f (.status 0x10 :: .mem :: srcRange a n) (fun s w =>
    let st := s.strand w
    let ptr := spillPtr st.spill
    if ptr < spillBase st.spill + 8 * n then .error { code := .access, cause := 34, kind := 1 }
    else
      match s.spillSlots w .store (ptr - 8 * n) n with
      | .error t => .error t
      | .ok ps =>
        if ps.any (fun p => s.mustWait w true (lmFlat w.core p) 8) then s.holdBack w .operand
        else
          let s1 := (ps.zip (List.range n)).foldl
            (fun acc p => acc.writeAt w (.lm (lmFlat w.core p.1)) 8 (s.reg w (regAt a p.2)).toNat) s
          done (s1.setStrand w { s1.strand w with spill := setBits st.spill 17 0 (ptr - 8 * n) }) 4) s

def execPopm (f : Form) (a b : Reg) (s : State) : Host.Outcome State Fault Refusal :=
  let n := b.toNat + 1 - a.toNat
  runInstr f (.status 0x10 :: .mem :: dstRange a n) (fun s w =>
    let st := s.strand w
    let ptr := spillPtr st.spill
    if spillLimit st.spill < ptr + 8 * n then .error { code := .access, cause := 34 }
    else
      match s.spillSlots w .load ptr n with
      | .error t => .error t
      | .ok ps =>
        if ps.any (fun p => s.mustWait w false (lmFlat w.core p) 8) then s.holdBack w .operand
        else
        match ps.findSome? (fun p => s.eccCause (clusterOf w.core) (lmFlat w.core p) 8) with
        | some c => .error { code := .ecc, cause := c, va := BitVec.ofNat 64 ptr }
        | none =>
          let s := ps.foldl (fun acc p => acc.learn w (lmFlat w.core p) 8) s
          let s1 := s.setRegs w a.toNat (ps.map (fun p => s.readW (lmFlat w.core p)))
          done (s1.setStrand w { s1.strand w with spill := setBits st.spill 17 0 (ptr + 8 * n) }) 4) s

/-! ## The return of data (R147) -/

/-- Load n of a strand gone from the list. -/
def State.dropLoad (s : State) (w : Who) (n : Nat) : State :=
  let st := s.strand w
  s.setStrand w { st with loads := st.loads.eraseIdx n }

/-- The value of a returned load written to its registers. -/
def State.loadDone (s : State) (w : Who) (l : PLoad) (v : Nat) : State := s.putLoad w l.d l.n l.ty l.bytes v

/-- The place that a load without a remote operation reads: the cluster cache, or the home slice of a SYNC page. -/
def PLoad.place (l : PLoad) : Place :=
  if isLm l.flat then .lm l.flat else if isHbm l.flat then .hbm l.flat l.sync else .host l.flat

/-- Load n of a strand reads, unless it has, and its registers are written (R147). -/
def State.returnLoad (s : State) (w : Who) (n : Nat) : State :=
  let st := s.strand w
  match st.loads[n]? with
  | none => s
  | some l =>
    match l.pkt, l.val with
    | none, some v => if l.poison ≠ 0 then s else (s.dropLoad w n).loadDone w l v.toNat
    | _, _ =>
      if l.pkt.isSome || s.missCut w l.va l.place || (st.loads.take n).any (fun e => overlap e.flat e.bytes l.flat l.bytes) ||
          (s.eccCause (clusterOf w.core) l.flat l.bytes !l.sync).isSome then s
      else
        let (v, s1) := s.loadAt w l.va l.place l.bytes
        (s1.dropLoad w n).loadDone w l v

end Sys2Proof.Machine
end

