-- ==== Sys2Proof/Machine/Fetch.lean ====
section
/-!
DEFINITION. Instruction fetch (R26-R29, R406): words at virtual addresses, with the right to fetch, and the words a strand
has fetched before.
-/
namespace Sys2Proof.Machine

/-- The flat address a fetch at a place reads; none where a remote core's window position is not held. -/
def State.fetchFlat (s : State) (w : Who) (p : Place) : Option Nat :=
  match p with
  | .away c o => (s.awayPhys (s.strand w).job c o).map (lmFlat c)
  | a => some a.flat

/-- A fetch of a word that no earlier fetch has left needs links which do not carry it: to its home, or to the cluster cache (R335, R420). -/
def State.fetchCut (s : State) (w : Who) (p : Place) : Bool :=
  match p with
  | .hbm _ _ | .host _ => s.drooping w.core || ((s.line (clusterOf w.core) (p.flat / 64)).isNone && s.cut w p)
  | .mmio _ => s.cut w p
  | _ => false

/-- The word at a flat address as memory shows it to a cluster: a register, on an MMIO page. -/
def State.wordAt (s : State) (cl flat : Nat) : BitVec 32 :=
  if mmioBase ≤ flat ∧ flat < dieBlock 8 then BitVec.ofNat 32 (s.mmioGet flat 4)
  else BitVec.ofNat 32 (natOfBytes ((List.range 4).map (fun k => s.peekByte cl (flat + k))))

/-- The values other than memory's that a fetch of a word may return (R29). -/
def Strand.fetched (st : Strand) (flat : Nat) : List (BitVec 32 × Bool) := AMap.get [] st.icache flat

/-- What a fetch of one word meets. -/
inductive Got where
  | word (v : BitVec 32) (s : State)
  | wait
  | trap (t : Trap)

/-- The word at an address is fetched (R28, R29): the first of the values kept for it, else what memory shows, which is kept. A fetch
waits while its context is away from the core whose LM holds the word, or no link carries it. A word in error, or poisoned, traps ECC,
ahead of a watchpoint of the same word: the spec names neither for a fetch (DESIGN CHOICE, assumption 53). -/
def State.fetchWord (s : State) (w : Who) (va : Word) : Got :=
  match s.translate w va .fetch .all with
  | .error t => .trap t
  | .ok x =>
    match s.place w x.tgt with
    | none => .trap (xlatTrap 8 x.ent.level x.ent.entry va .fetch)
    | some p =>
      if s.deadPeer p then .trap (xlatTrap 9 x.ent.level x.ent.entry va .fetch)
      else if s.unreached w p then .wait
      else
        match s.fetchFlat w p with
        | none => .trap (xlatTrap 8 x.ent.level x.ent.entry va .fetch)
        | some flat =>
          match s.eccCause (clusterOf w.core) flat 4 true with
          | some c => .trap { code := .ecc, cause := c, va := va, kind := 3, hurt := (flat, 4) }
          | none =>
            let s1 := s.useXlat w x
            match (s.strand w).fetched flat with
            | (v, _) :: _ => .word v s1
            | [] =>
              if s.fetchCut w p then .wait
              else
              let v := s.wordAt (clusterOf w.core) flat
              let st := s1.strand w
              .word v (s1.setStrand w { st with icache := AMap.put st.icache flat [(v, false)] })

/-- Length in bytes from the first word (R26). -/
def wordLen (v : BitVec 32) : Nat := lenBytes (v.extractLsb' 0 2)

/-- n words fetched from an address on. -/
inductive GotMany where
  | words (vs : List (BitVec 32)) (s : State)
  | wait
  | trap (t : Trap)

def State.fetchWords (s : State) (w : Who) (va : Word) : Nat → GotMany
  | 0 => .words [] s
  | n + 1 =>
    match s.fetchWord w va with
    | .trap t => .trap t
    | .wait => .wait
    | .word v s1 =>
      match s1.fetchWords w (va + 4) n with
      | .words vs s2 => .words (v :: vs) s2
      | r => r

/-- An instruction is fetched whole before it is decoded (R28). -/
def State.fetchInstr (s : State) (w : Who) (va : Word) : GotMany :=
  match s.fetchWord w va with
  | .trap t => .trap t
  | .wait => .wait
  | .word v s1 =>
    match s1.fetchWords w (va + 4) (wordLen v / 4 - 1) with
    | .words vs s2 => .words (v :: vs) s2
    | r => r

/-- Length of the instruction at an address for NEXTPC (R405): 4 where its first word cannot be fetched (assumption 23). -/
def State.lenAt (s : State) (w : Who) (va : Word) : Nat :=
  match s.fetchWord w va with
  | .word v _ => wordLen v
  | _ => 4

/-- A fence.full is executed: each kept value that is not what memory now shows has its first step of the two (R29). -/
def State.doomFetched (s : State) (w : Who) : State :=
  let st := s.strand w
  s.setStrand w { st with icache := st.icache.mapVals (fun flat vs =>
    vs.map (fun e => (e.1, e.2 || e.1 != s.wordAt (clusterOf w.core) flat))) }

/-- A jump is taken: the values that an earlier fence.full left for it to end are fetched no more (R29). -/
def Strand.freshened (m : AMap (List (BitVec 32 × Bool))) : AMap (List (BitVec 32 × Bool)) :=
  (m.map (fun e => (e.1, e.2.filter (fun v => !v.2)))).filter (fun e => !e.2.isEmpty)
def State.freshFetch (s : State) (w : Who) : State :=
  let st := s.strand w
  s.setStrand w { st with icache := Strand.freshened st.icache }

/-- What memory shows of a word is kept, as the value its next fetch returns (R29). -/
def State.keepWord (s : State) (w : Who) (flat : Nat) : State :=
  let st := s.strand w
  let v := s.wordAt (clusterOf w.core) flat
  s.setStrand w { st with icache := AMap.put st.icache flat ((v, false) :: (st.fetched flat).filter (fun e => e.1 != v)) }

/-- A strand fetches a word early: a later fetch of it may return the value that it has now (R29). -/
def State.fetchAhead (s : State) (w : Who) (va : Word) : State :=
  if (s.strand w).run ≠ .running then s
  else match s.translate w va .fetch .all with
    | .error _ => s
    | .ok x =>
      match s.fetchWord w va, (s.place w x.tgt).bind (s.fetchFlat w) with
      | .word _ s1, some flat => s1.keepWord w flat
      | _, _ => s

/-- Of the values kept for a word, the next fetch returns the next one: each fetch is of the old value or the new (R29). -/
def State.turnFetched (s : State) (w : Who) (flat : Nat) : State :=
  let st := s.strand w
  match st.fetched flat with
  | v :: vs => s.setStrand w { st with icache := AMap.put st.icache flat (vs ++ [v]) }
  | [] => s

end Sys2Proof.Machine
end

