-- ==== Sys2Proof/Machine/Control.lean ====
section
/-!
DEFINITION. Branches, calls, loops, waits and the breakpoint (R126-R130, R136-R138).
-/
namespace Sys2Proof.Machine

/-! ## br, jmp, call, ret (R126, R127) -/

/-- A jump: it is the second of the two steps of R29. -/
def jumpAns (s : State) (w : Who) (pc : Word) (eu : Nat) : Except Trap Ans := .ok (.jump (s.freshFetch w) pc eu)

/-- An offset in words of four bytes (R33). -/
def wordOff {n : Nat} (off : BitVec n) : Word := off.signExtend 64 * 4

def execBr (p : Pred) (ps : Bool) (off : BitVec 18) (s : State) : Host.Outcome State Fault Refusal :=
  runInstr ⟨0, 0, false⟩ (if p = 0 then [] else [.preds]) (fun s w =>
    let st := s.strand w
    if (st.pred p).xor ps then jumpAns s w (st.pc + wordOff off) 1 else done s 1) s

def execJmp (f : Form) (off : BitVec 24) (s : State) : Host.Outcome State Fault Refusal :=
  runInstr f [] (fun s w => jumpAns s w ((s.strand w).pc + wordOff off) 1) s

/-- The link register. -/
def linkReg : Reg := 15

def execCall (f : Form) (off : BitVec 24) (s : State) : Host.Outcome State Fault Refusal :=
  runInstr f [.dst linkReg] (fun s w =>
    let pc := (s.strand w).pc
    jumpAns (s.setReg w linkReg (pc + BitVec.ofNat 64 (lenBytes f.len))) w (pc + wordOff off) 1) s

/-- A jump to a register's value, which must be word-aligned (R27). No byte of memory fails, so the record's VA is 0 (R405). -/
def jumpReg (s : State) (w : Who) (t : Word) (go : State → State) : Except Trap Ans :=
  if t.toNat % 4 ≠ 0 then .error { code := .align } else jumpAns (go s) w t 1

def execJmpReg (f : Form) (a : Reg) (s : State) : Host.Outcome State Fault Refusal :=
  runInstr f [.src a] (fun s w => jumpReg s w (s.reg w a) id) s
def execCallReg (f : Form) (a : Reg) (s : State) : Host.Outcome State Fault Refusal :=
  runInstr f [.src a, .dst linkReg] (fun s w =>
    jumpReg s w (s.reg w a) (fun t => t.setReg w linkReg ((s.strand w).pc + BitVec.ofNat 64 (lenBytes f.len)))) s
def execRet (f : Form) (a : Reg) (s : State) : Host.Outcome State Fault Refusal :=
  let r : Reg := if a = 0 then linkReg else a
  runInstr f [.src r] (fun s w => jumpReg s w (s.reg w r) id) s

/-! ## loop (R128) -/

def Strand.loopRegs (st : Strand) (n : Nat) : LoopRegs :=
  if n = 0 then st.loop0 else if n = 1 then st.loop1 else if n = 2 then st.loop2 else st.loop3
def Strand.setLoop (st : Strand) (n : Nat) (r : LoopRegs) : Strand :=
  if n = 0 then { st with loop0 := r } else if n = 1 then { st with loop1 := r }
  else if n = 2 then { st with loop2 := r } else { st with loop3 := r }

/-- A loop level set up with a count, its three registers written whole (R407), after which the instruction retires with its LoopStep
(R102); a count of 0 skips the body, whose last instruction's length is fetched. -/
def setUpLoop (s : State) (w : Who) (lvl : BitVec 2) (count : Word) (end16 : BitVec 16) : Except Trap Ans :=
  let st := s.strand w
  let stop := st.pc + end16.setWidth 64 * 4
  let r : LoopRegs := { start := st.pc + 8, stop := stop, count := count }
  let level (s : State) : State := [0, 1, 2].foldl (fun (acc : State) k => acc.clearStatus w (4 + 3 * lvl.toNat + k))
    (s.setStrand w ((s.strand w).setLoop lvl.toNat r))
  if count = 0 then
    match s.fetchWord w stop with
    | .trap t => .error t
    | .wait => s.holdBack w .operand
    | .word v s1 =>
      .ok (.jump (level s1) (stop + BitVec.ofNat 64 (wordLen v)) 1)
  else done (level s) 1

def execLoop (f : Form) (lvl : BitVec 2) (a : Reg) (end16 : BitVec 16) (s : State) : Host.Outcome State Fault Refusal :=
  runInstr f [.src a] (fun s w => setUpLoop s w lvl (s.reg w a) end16) s
def execLoopImm (f : Form) (lvl : BitVec 2) (n : BitVec 12) (end16 : BitVec 16) (s : State) :
    Host.Outcome State Fault Refusal :=
  runInstr f [] (fun s w => setUpLoop s w lvl (n.setWidth 64) end16) s

/-! ## nop, pause, trap (R129, R130) -/

def execNop (f : Form) (s : State) : Host.Outcome State Fault Refusal := runInstr f [] (fun s _ => done s 1) s

/-- pause issues and stays for its span; the step pauseEnd ends it. -/
def execPause (f : Form) (s : State) : Host.Outcome State Fault Refusal :=
  runInstr f [] (fun s w => .ok (.hold (s.waiting w (mkWait .pause false (lenBytes f.len) 1)))) s

/-- Waking after an outcome. -/
def wakeAfter : Host.Outcome State Fault Refusal → Host.Outcome State Fault Refusal
  | .next s => .next s.wake
  | o => o

/-- The wait of a strand on a core where its context is ACTIVE, if it is of a kind. -/
def State.waitOf (s : State) (w : Who) (ks : List WaitKind) : Option Wait :=
  match (s.strand w).wait with
  | some v => if ks.contains v.kind && (s.core w.core).st == .active then some v else none
  | none => none

def execPauseEnd (core strand : Nat) (s : State) : Host.Outcome State Fault Refusal :=
  let w : Who := ⟨core, strand⟩
  match (s.strand w).wait with
  | some v => .next (if v.kind = .pause then (s.finish w v.len v.eu).wake else s)
  | none => .next s

/-- The breakpoint traps always (R130). -/
def execTrap (f : Form) (s : State) : Host.Outcome State Fault Refusal :=
  runInstr f [] (fun _ _ => .error { code := .break_ }) s

/-! ## rdtime, sleepns, waitns, waitns.v (R136-R138) -/

def execRdtime (f : Form) (d : Reg) (s : State) : Host.Outcome State Fault Refusal :=
  runInstr f [.dst d, .status 0x13] (fun s w => done (s.setReg w d s.time) 1) s

/-- A timed wait with its deadline: met, it retires at once. -/
def timedWait (f : Form) (s : State) (w : Who) (kind : WaitKind) (now deadline : Word) : Except Trap Ans :=
  if deadline.toNat ≤ now.toNat then done s 1
  else .ok (.hold (s.waiting w { mkWait kind false (lenBytes f.len) 1 with deadline := deadline }))

/-- TIME plus a span, at most the largest value (assumption 24). -/
def addSpan (t n : Word) : Word := if t.toNat + n.toNat < 2 ^ 64 then t + n else BitVec.allOnes 64

def execSleepns (f : Form) (a : Reg) (s : State) : Host.Outcome State Fault Refusal :=
  runInstr f [.src a, .status 0x13] (fun s w => timedWait f s w .timed s.time (addSpan s.time (s.reg w a))) s
def execWaitns (f : Form) (a : Reg) (s : State) : Host.Outcome State Fault Refusal :=
  runInstr f [.src a, .status 0x13] (fun s w => timedWait f s w .timed s.time (s.reg w a)) s
def execWaitnsV (f : Form) (a : Reg) (s : State) : Host.Outcome State Fault Refusal :=
  runInstr f [.src a, .status 0x14] (fun s w => timedWait f s w .vtimed (s.live w.core).vtime (s.reg w a)) s

/-- A timed wait whose deadline is met retires (R137): TIME, or VTIME for waitns.v. -/
def execTimedWaitDeadline (core strand : Nat) (s : State) : Host.Outcome State Fault Refusal :=
  let w : Who := ⟨core, strand⟩
  match s.waitOf w [.timed, .vtimed] with
  | some v =>
    let now := if v.kind = .timed then s.time else (s.live core).vtime
    .next (if v.deadline.toNat ≤ now.toNat then (s.finish w v.len v.eu).wake else s)
  | none => .next s

end Sys2Proof.Machine
end

