-- ==== Sys2Proof/Machine/Remote.lean ====
section
/-!
DEFINITION. Remote stores and loads, and what becomes of an operation on its way: arrival, diversion to the spill queue,
acknowledgement, service (R154, R158-R162, R230, R231, R284), and the deferred ECC trap (R147).
-/
namespace Sys2Proof.Machine

/-! ## rst, rld (R158) -/

/-- The address checks of rst and rld: a dword within one aligned 64-byte block. -/
def rstTrap (k : Acc) (ea : Word) (n : Nat) : Option Trap :=
  if ea.toNat % 8 ≠ 0 ∨ 8 < ea.toNat / 8 % 8 + n then some (.align ea k.code) else none

/-- n registers from d on, the first lowest. -/
def State.regBlock (s : State) (w : Who) (d : Reg) (n : Nat) : BitVec 512 :=
  BitVec.ofNat 512 ((List.range n).foldr (fun k acc => (s.reg w (regAt d k)).toNat + 2 ^ 64 * acc) 0)

/-- The path an instruction names, or the adaptive one (R158, R159). -/
def State.pathOf (s : State) (w : Who) (path : Option (BitVec 2)) : Nat :=
  match path with
  | some p => p.toNat
  | none => (s.strand w).adaptive

/-- The place of an rst or rld: one to the own core's LM goes the way of a remote operation too, by its LM offset. -/
def Piece.remote (p : Piece) : Place :=
  match p.x.tgt with
  | .lm c off => .away c off
  | _ => p.at_

/-- An rst that claims its page performs with the fill (R320): once its links carry it, and an ordered flag once no earlier store of its
strand is on its way (R160). -/
def State.fillWaits (s : State) (w : Who) (path : Nat) (of_ : Bool) (p : Place) : Bool :=
  s.cutOn path w p || (of_ && (s.mine w).any (fun e => e.2.kind.isStore && !e.2.landed))

def execRst (f : Form) (of_ : Bool) (n1 : BitVec 3) (d a : Reg) (path : Option (BitVec 2)) (s : State) :
    Host.Outcome State Fault Refusal :=
  let n := n1.toNat + 1
  runInstr f (.mem :: .src a :: srcRange d n) (fun s w =>
    let ea := s.reg w a
    match rstTrap .store ea n with
    | some t => .error t
    | none =>
      match s.pieces w .store .remote [(ea, 8 * n)] with
      | .error t => .error t
      | .ok [p] =>
        if s.mustWaitSend w p.remote.flat p.n || (p.x.claim && s.fillWaits w (s.pathOf w path) of_ p.at_) then s.holdBack w .operand
        else
          let s1 := (s.useXlat w p.x).forget w p.remote.flat p.n
          let s2 := s1.send w { (s1.packet w (.store of_) (some (s.pathOf w path))).aim p.remote p.n with
            va := ea, ent := p.x.ent, data := s.regBlock w d n }
          .ok (.retire (if p.x.claim then s2.storedWithFill ((s.regBlock w d n).toNat % 2 ^ (64 * n)) else s2) 40)
      | .ok _ => s.holdBack w .operand) s

def execRld (f : Form) (n1 : BitVec 3) (d a : Reg) (path : Option (BitVec 2)) (s : State) :
    Host.Outcome State Fault Refusal :=
  let n := n1.toNat + 1
  runInstr f (.mem :: .src a :: dstRange d n) (fun s w =>
    let ea := s.reg w a
    match rstTrap .load ea n with
    | some t => .error t
    | none =>
      match s.pieces w .load .remote [(ea, 8 * n)] with
      | .error t => .error t
      | .ok [p] =>
        if s.mustWait w false p.at_.flat p.n then s.holdBack w .operand
        else .ok (.retire ((s.useXlat w p.x).startLoad w d n .i64 { p with at_ := p.remote } (some (s.pathOf w path))) 40)
      | .ok _ => s.holdBack w .operand) s

/-! ## The spill queue (R230, R231) -/

def State.sqCap (s : State) (ctx : Nat) : Nat := (s.descW ctx 0x88).toNat
def State.sqHead (s : State) (ctx : Nat) : Nat := (s.descW ctx 0x90).toNat
def State.sqTail (s : State) (ctx : Nat) : Nat := (s.descW ctx 0x98).toNat
def State.sqAddr (s : State) (ctx n : Nat) : Nat := (s.descW ctx 0x80).toNat + 128 * (n % s.sqCap ctx)
def State.sqFull (s : State) (ctx : Nat) : Bool := decide (s.sqCap ctx ≤ s.sqTail ctx - s.sqHead ctx)
/-- The queue's page is not resident: it does not lie in HBM (R162). -/
def State.sqAbsent (s : State) (ctx : Nat) : Bool := !inHbm (s.descW ctx 0x80).toNat (128 * s.sqCap ctx)

/-- The key of what stands behind an entry: its number stays its own when system software moves or enlarges the queue (R230, R231). -/
def spillKey (ctx n : Nat) : Nat := 2 ^ 64 * ctx + n
def State.spillOf (s : State) (ctx n : Nat) : Spill := AMap.get ⟨[], none, 0, none⟩ s.spills (spillKey ctx n)

/-- An entry written at the tail. BYTES of a store of fewer than 8 bytes is its own width: the layout names 8 to 64 (DESIGN CHOICE,
assumption 58). -/
def State.sqWrite (s : State) (ctx kind core off bytes : Nat) (src smodule : Nat) (data : BitVec 512) (by_ : Spill) : State :=
  let a := s.sqAddr ctx (s.sqTail ctx)
  let w0 := 2 ^ 32 * src + 2 ^ 24 * coreY core + 2 ^ 16 * coreX core + 2 ^ 8 * bytes + kind
  let s1 := (s.write a 64 (w0 + 2 ^ 64 * (2 ^ 48 * smodule + off))).write (a + 64) 64 data.toNat
  State.write { s1 with spills := AMap.put s1.spills (spillKey ctx (s.sqTail ctx)) by_ } ((s.ctxRec ctx).desc + 0x98) 8 (s.sqTail ctx + 1)

/-- The KIND of a packet's entry. -/
def Packet.sqKind (p : Packet) : Nat :=
  match p.kind with
  | .store true => 1
  | .near => 2
  | .msg => 3
  | _ => 0

/-- A packet's store or message diverted for a context (R161, R230, R346); what its strand has released before it holds from then on. -/
def State.divert (s : State) (ctx off bytes : Nat) (p : Packet) : State :=
  (s.farRelease p).sqWrite ctx p.sqKind p.core off bytes p.src.core p.smodule p.data ⟨p.points, p.job, s.bearer p, s.pktVia p⟩

/-! ## Arrival of a store (R160-R162) -/

def State.pkt (s : State) (id : Nat) : Option Packet := s.net.lookup id
def State.setPkt (s : State) (id : Nat) (p : Packet) : State := { s with net := AMap.put s.net id p }
def State.delPkt (s : State) (id : Nat) : State := { s with net := AMap.del s.net id }

/-- A report about a packet's operation: its address and the entry of its translation (R317). -/
def Packet.report (p : Packet) (kind cause : Nat) : Report :=
  { kind := kind, cause := cause, va := p.va, pc := p.pc, strand := p.src.strand, ctx := p.ctx, core := p.src.core,
    level := p.ent.level, entry := p.ent.entry }

/-- A kind of operation that reads its target. -/
def PktKind.isRead : PktKind → Bool
  | .load | .nearLoad | .amo _ _ => true
  | _ => false

/-- Two operations with one destination: the LM of a core, or the home of one stack of a module's memory (R160, R338). -/
def Packet.sameDest (p q : Packet) : Bool :=
  if isLm p.flat || isLm q.flat then isLm p.flat && isLm q.flat && p.core == q.core
  else p.flat / 2 ^ 36 == q.flat / 2 ^ 36

/-- An earlier operation of the same strand that must land first: a store to overlapping bytes, a read of them where this one reads
or is a row (R145, R209), one to the same peer on the near path (R146), and for an ordered flag every earlier store to the same destination (R160). -/
def State.blocked (s : State) (p : Packet) (ordered : Bool) : Bool :=
  s.net.any (fun e => e.2.src == p.src && e.2.birth == p.birth && e.2.smodule == p.smodule && decide (e.2.seq < p.seq) && !e.2.landed &&
    (((e.2.kind.isStore || (e.2.kind.isRead && (p.kind.isRead || p.kind == .row))) && overlap e.2.flat e.2.bytes p.flat p.bytes) ||
     ((e.2.kind == .near || e.2.kind == .nearLoad) && (p.kind == .near || p.kind == .nearLoad) && e.2.core == p.core) ||
     (ordered && e.2.sameDest p && (match e.2.kind with
        | .store _ | .near => true
        | _ => false))))

/-- The physical LM byte of a packet's target core (R154, R284): on the sender's own core the one it held at the start. -/
def State.pktPhys (s : State) (p : Packet) : Option Nat :=
  let q := p.flat - lmFlat p.core 0
  if p.core = p.src.core ∧ p.smodule = s.module_.toNat then if q < 0x80000 then some q else none
  else s.awayPhys p.job p.core p.off

/-- An operation performs at the home of its target (R153, R165). -/
def State.atHome (s : State) (p : Packet) : State :=
  if isLm p.flat then s
  else
    let cl := clusterOf p.src.core
    if s.fromHere p then (s.bypass cl p.flat p.bytes).recall cl p.flat else s.recall (2 ^ 16) p.flat

/-- The bytes of a store written at its target: LM through the window of the strand's group, where a position that is not
held and a byte of a Hinge block take nothing (R284, R356); other memory at its home. -/
def State.landStore (s : State) (p : Packet) : State :=
  if isLm p.flat then
    match s.pktPhys p with
    | none => s
    | some q =>
      if (s.live p.core).hingeCovers q p.bytes then s
      else put s (lmFlat p.core q)
  else put (s.atHome p) p.flat
where
  put (s : State) (f : Nat) : State :=
    ((s.write f p.bytes (p.data.toNat % 2 ^ (8 * p.bytes))).clearUnits f p.bytes).wroteFor p f p.bytes

/-- A store whose word in LM is in error cannot merge (R407). -/
def State.storeBad (s : State) (p : Packet) : Bool :=
  isLm p.flat && match s.pktPhys p with
    | some q => s.narrowBad (lmFlat p.core q) p.bytes
    | none => false

/-- A remote store or stn reaches its target, where the links of its path carry it: it is held for an earlier store, diverted,
refused, or lands (R160-R162). An atomic with d = 0 is refused by another module in the same way. R162 names no CAUSE for the record of
what another module refuses: it has 9 (DESIGN CHOICE, assumption 68). -/
def State.storeArrive (s : State) (id : Nat) (refused : Bool) : State :=
  match s.pkt id with
  | none => s
  | some p =>
    match p.kind with
    | .store of_ =>
      if p.landed || p.refused || !(p.held || s.carried p) then s
      else if s.blocked p of_ then s.setPkt id { p with held := true }
      else go p
    | .near => if p.landed || p.refused || !s.carried p || s.blocked p false then s else go p
    | .amo _ _ =>
      if p.landed || p.refused || !s.carried p || s.blocked p false || p.ret || p.module_.isNone || !refused then s
      else (s.setPkt id { p with refused := true }).report (dieOf p.src.core) (p.report 2 9)
    | _ => s
where
  go (p : Packet) : State :=
    if isLm p.flat && !s.isActive p.ctx p.core then
      if s.sqAbsent p.ctx then
        (s.setPkt id { p with refused := true }).report (dieOf p.core) (p.report 1 2)
      else if s.sqFull p.ctx then
        if p.full then s else (s.setPkt id { p with full := true }).report (dieOf p.core) (p.report 19 0)
      else (s.divert p.ctx p.off p.bytes p).setPkt id { p with landed := true }
    else if (refused && p.module_.isSome) || s.storeBad p then
      (s.setPkt id { p with refused := true }).report (dieOf p.src.core) (p.report 1 (if p.module_.isSome then 9 else 27))
    else (s.landStore p).setPkt id { p with landed := true }

/-! ## Arrival of a load or an atomic (R161, R163) -/

/-- The strand an operation belongs to is on its core. -/
def State.home (s : State) (p : Packet) : Bool := (s.core p.src.core).ctx == some p.ctx

/-- The operation belongs to the strand that stands at its source now: the same start of it, on this module. -/
def State.ours (s : State) (p : Packet) : Bool :=
  s.home p && (s.strand p.src).birth == p.birth && p.smodule == s.module_.toNat

/-- The new value of an atomic, as w bytes; none where it writes nothing (R163, R164). The operations are numbered as fn6
has them: add, min, max, and, or, xor, swap, cas, fadd. -/
def amoNew (op : Nat) (ty : Ty) (old b dv : Nat) : Option Nat :=
  let bw := 8 * (if ty = .i32 ∨ ty = .n32 ∨ ty = .f32 ∨ op = 8 then 4 else 8)
  let m := 2 ^ bw
  let o := old % m
  let v := b % m
  let pick (x y : Nat) (small : Bool) : Nat :=
    let less := if isSigned ty then decide (sval bw x < sval bw y) else decide (x < y)
    if less == small then x else y
  match op with
  | 0 => some ((o + v) % m)
  | 1 => some (pick o v true)
  | 2 => some (pick o v false)
  | 3 => some (o &&& v)
  | 4 => some (o ||| v)
  | 5 => some (o ^^^ v)
  | 6 => some v
  | 7 => if o = v then some (dv % m) else none
  | _ => some (roundTo (fmtOf .f32) 0 false (numAdd 0 (fVal (fmtOf .f32) o) (fVal (fmtOf .f32) v)).1).1

/-- An atomic writes its location: all do but a cas that fails. -/
def amoWrites (op : Nat) (ty : Ty) (old b dv : Nat) : Bool := op == 9 || (amoNew op ty old b dv).isSome

/-- Width in bytes of an atomic's location (R163). -/
def amoWidth (op : Nat) (ty : Ty) : Nat :=
  if op = 9 then 16 else if op = 8 then 4 else if ty = .i32 ∨ ty = .n32 then 4 else 8

/-- An atomic at one instant on memory (R163): the old value, and the memory after. The new value belongs to the release sequences
of the old one, and to those of the strand's own release points (R150). -/
def State.amoAt (s : State) (op : Nat) (ty : Ty) (points : List Nat) (flat b dv : Nat) : Nat × State :=
  let w := amoWidth op ty
  let old := s.read flat w
  if op = 9 then (old, (s.write flat 16 (xaccAdd old (b % 2 ^ 32))).setHeads points true flat w)
  else match amoNew op ty old b dv with
    | some v => (old, ((s.write flat w v).clearUnits flat w).setHeads points true flat w)
    | none => (old, s)

/-- The flat address a load or atomic reads at its target, none for a window position that is not held. -/
def State.loadFlat (s : State) (p : Packet) : Option Nat :=
  if isLm p.flat then (s.pktPhys p).map (lmFlat p.core) else some p.flat

/-- A remote load or atomic performs at its target (R163): it carries back the value read with its release points, or the error
it met. -/
def State.perform (s : State) (id : Nat) (p : Packet) : State :=
  match s.loadFlat p with
  | none => s.setPkt id { p with landed := true, refused := true }
  | some f =>
    let cl := clusterOf p.src.core
    let s1 := s.atHome p
    let back : Packet := { p with landed := true, points := s1.headsAt f p.bytes, data := BitVec.ofNat 512 (s1.read f p.bytes) }
    match s1.eccCause cl f p.bytes, p.kind with
    | some c, .amo _ _ =>
      let s2 := s1.poisonRead f p.bytes
      if p.ret then s2.setPkt id { p with landed := true, poison := c }
      else (s2.setPkt id { p with refused := true }).report (dieOf p.src.core) (p.report 2 c)
    | some c, _ => (s1.poisonRead f p.bytes).setPkt id { p with landed := true, poison := c }
    | none, .amo op ty =>
      if isLm f && (s1.live p.core).hingeCovers (f - lmFlat p.core 0) p.bytes then s1.setPkt id back
      else
        let r := (s1.farRelease p).amoAt op ty p.points f p.data.toNat p.cmp.toNat
        (if amoWrites op ty r.1 p.data.toNat p.cmp.toNat then r.2.missed (s.bearer p) (s.pktVia p) f p.bytes else r.2).setPkt id back
    | none, _ => s1.setPkt id back

/-- A remote load or atomic reaches its target, where the links of its path carry it, and performs, or waits there for the context
to resume (R161). -/
def State.loadArrive (s : State) (id : Nat) : State :=
  match s.pkt id with
  | none => s
  | some p =>
    if !p.kind.isRead || p.landed || p.refused || !(p.held || s.carried p) || s.blocked p false then s
    else if isLm p.flat && !s.isActive p.ctx p.core then s.setPkt id { p with held := true }
    else s.perform id p

/-- A refused non-returning operation performs once its fault is serviced (R162). -/
def State.serviced (s : State) (id : Nat) : State :=
  match s.pkt id with
  | some p =>
    if !p.refused || p.landed then s
    else match p.kind with
      | .store _ | .near | .row =>
        if isLm p.flat && !s.isActive p.ctx p.core then
          if s.sqAbsent p.ctx || s.sqFull p.ctx then s
          else (s.divert p.ctx p.off p.bytes p).setPkt id { p with landed := true, refused := false }
        else (s.landStore p).setPkt id { p with landed := true, refused := false }
      | .amo _ _ =>
        if (isLm p.flat && !s.isActive p.ctx p.core) || (s.loadFlat p).any (fun f => (s.eccCause (clusterOf p.src.core) f p.bytes).isSome) then s
        else s.perform id { p with refused := false }
      | _ => s
  | none => s

/-! ## Acknowledgements and replies (R158, R159, R172) -/

/-- An operation is acknowledged, or its reply has come: its path's counts move and it is gone (R158, R159). -/
def State.ackPkt (s : State) (id : Nat) (p : Packet) : State :=
  match p.path with
  | some n => if s.ours p then (s.delPkt id).packDown p.src n else s.delPkt id
  | none => s.delPkt id

/-- The trap of a load that has already retired: its registers keep their values, the record names the load (R147). -/
def State.lateTrap (s : State) (w : Who) (l : PLoad) (t : Trap) : Host.Outcome State Fault Refusal :=
  s.takeTrap w t l.pc (s.strand w).pc

/-- The strand stands between instructions (R147). -/
def Strand.between (st : Strand) : Bool :=
  match st.wait with
  | none => st.run == .running
  | some v => v.retry

/-- A module with a port in UP: it answers and is answered (R334, R339). -/
def State.wayUp (s : State) (m : Nat) : Bool :=
  match s.route m with
  | some v => (routePorts v).any (fun p => s.linkUp (portKey p))
  | none => false

/-- The reply of a load or atomic with its data: a plain load of a line that its strand had read early at its issue returns what it read
then; an acquire takes in what its object covered at its issue (R149, R169, R212). -/
def State.replied (s : State) (w : Who) (l : PLoad) (p : Packet) : State :=
  match l.acq with
  | some a =>
    (((s.forget w p.flat p.bytes).learnIds w p.points).loadDone w l p.data.toNat).takeScoped w (.ranges a.ranges)
      ((decodeScope a.scope).getD .package)
  | none =>
    match l.val with
    | some v => s.loadDone w l v.toNat
    | none => (s.learnIds w p.points).loadDone w l p.data.toNat

/-- An acknowledgement or reply returns (R158, R159), over a link where it comes from another module: the counts move, a reply's
data is written, and a read that found no window position (R284), or whose module has failed (R343), traps once the strand stands
between instructions (assumption 62). Within the module it comes by any route (R337, assumption 63), but not into a core that droops
(R420). An acquire returns once its cluster can drop what it covers (R151, R335). -/
def State.ackArrive (s : State) (id : Nat) : Host.Outcome State Fault Refusal :=
  match s.pkt id with
  | none => .next s
  | some p =>
    if !p.landed then .next s
    else if !s.fromHere p then .next (if s.wayUp p.smodule then s.delPkt id else s)
    else if !s.home p || (!p.refused && p.module_.any (fun m => !s.wayUp m)) || (!p.near && s.drooping p.src.core) then .next s
    else
      let w := p.src
      match p.kind with
      | .store _ | .near => .next (s.ackPkt id p)
      | .load | .nearLoad | .amo _ _ =>
        match (s.strand w).loads.findIdx? (fun l => l.pkt == some id) with
        | none => .next (s.ackPkt id p)
        | some n =>
          match (s.strand w).loads[n]? with
          | none => .next s
          | some l =>
            if p.poison ≠ 0 || l.acq.any (fun a => s.takeCut w (.ranges a.ranges)) then .next s
            else if p.refused then
              if (s.strand w).between then
                ((s.ackPkt id p).dropLoad w n).lateTrap w l
                  { code := .access, cause := if p.module_.isSome then 9 else 8, va := l.va, level := l.ent.level, entry := l.ent.entry,
                    kind := l.kind }
              else .next s
            else .next (((s.ackPkt id p).dropLoad w n).replied w l p)
      | _ => .next s

/-- What has been met by a load that has not returned: an uncorrectable error (R147). -/
def State.loadError (s : State) (w : Who) (l : PLoad) : Option Nat :=
  match l.pkt with
  | none => match l.val with
    | some _ => if l.poison = 0 then none else some l.poison
    | none => s.eccCause (clusterOf w.core) l.flat l.bytes !l.sync
  | some id => match s.pkt id with
    | some p => if p.landed && p.poison != 0 then some p.poison else none
    | none => none

/-- The deferred ECC trap of load n (R147): its data has met an uncorrectable error, and no older load has. -/
def State.deferred (s : State) (w : Who) (n : Nat) : Host.Outcome State Fault Refusal :=
  let st := s.strand w
  match st.loads[n]? with
  | none => .next s
  | some l =>
    match s.loadError w l with
    | none => .next s
    | some c =>
      if !st.between || (st.loads.take n).any (fun e => (s.loadError w e).isSome) then .next s
      else
        let s1 := match l.pkt with
          | some id => match s.pkt id with
            | some p => s.ackPkt id p
            | none => s
          | none => if c = 28 then s.poisonRead l.flat l.bytes else s
        (s1.dropLoad w n).lateTrap w l { code := .ecc, cause := c, va := l.va, kind := l.kind, info := 1 }

/-! ## The steps of the table that no module's failure touches (the arrivals are in Link.lean) -/

def execNonreturningServiced (pkt : Nat) (s : State) : Host.Outcome State Fault Refusal := .next (s.serviced pkt).wake
def execLoadDataReturn (core strand n : Nat) (s : State) : Host.Outcome State Fault Refusal :=
  .next (s.returnLoad ⟨core, strand⟩ n).wake
def execDeferredEcc (core strand n : Nat) (s : State) : Host.Outcome State Fault Refusal :=
  wakeAfter (s.deferred ⟨core, strand⟩ n)

end Sys2Proof.Machine
end

