-- ==== Sys2Proof/Machine/Atomic.lean ====
section
/-!
DEFINITION. Atomics, acquire loads and release stores, fences, binding, write-back and invalidation (R148-R151, R163-R172).
-/
namespace Sys2Proof.Machine

/-! ## Atomics (R163-R166) -/

def ordAcq : Ord → Bool
  | .acq | .ar => true
  | _ => false
def ordRel : Ord → Bool
  | .rel | .ar => true
  | _ => false

/-- A line is contested for a cluster while its counter is 2 or more (R165). -/
def State.contested (s : State) (cl flat : Nat) : Bool :=
  decide (2 ≤ (AMap.get (0 : BitVec 2) (AMap.get [] s.predict cl) (flat / 64 % 256)).toNat)

/-- The value that names the scope of a scope field: 0 is package scope (R41). -/
def State.scopeWord (s : State) (w : Who) (e : Reg) : Word := if e = 0 then 0xFFFFFFFF else s.reg w e

/-- The scope of an instruction that has passed its operand checks. -/
def State.scopeOf (s : State) (w : Who) (e : Reg) : Scope := (s.scope w e).getD .package

/-- An acquire that has issued: its object, its scope, and the ranges that the bind table ties to the object now (R169). -/
def State.acqOf (s : State) (w : Who) (obj : Nat) (e : Reg) : Acq :=
  { obj := obj, scope := s.scopeWord w e, ranges := s.bindsOf (s.ctxOf w.core) (some obj) }

/-- The type an old value is extended by: fadd returns the low 32 bits (R163, R114). -/
def amoTy (op : Nat) (ty : Ty) : Ty := if op = 8 then .n32 else ty

/-- What an atomic asks for (R163, R166): its operation, its type, its destination, whether it returns the old value, the operand
and the value that a cas writes, and the acquire it is. -/
structure AmoReq where
  op  : Nat
  ty  : Ty
  d   : Reg
  ret : Bool
  b   : Word
  dv  : Word
  acq : Option Acq

/-- The record of an atomic's reply: with no old value to return it writes s0. -/
def State.amoLoad (s : State) (w : Who) (r : AmoReq) (p : Piece) : PLoad :=
  { s.loadOf w (if r.ret then r.d else 0) 0 (amoTy r.op r.ty) p with acq := r.acq, kind := 2 }

/-- An atomic performs at issue: d takes the old value, and an acquire takes in its object's bytes. -/
def State.amoHere (s : State) (w : Who) (r : AmoReq) (p : Piece) (f n : Nat) : State :=
  let (old, s1) := (s.learn w f n).amoAt r.op r.ty (s.strand w).points f r.b.toNat r.dv.toNat
  let s2 := s1.forget w f n
  let s2 := if amoWrites r.op r.ty old r.b.toNat r.dv.toNat then s2.missed (s.strand w).birth (s.via w p.va) f n else s2
  let s3 := if r.ret then s2.setReg w r.d (extend ((old % 2 ^ (8 * n) : Nat) : Int) (amoTy r.op r.ty)) else s2
  match r.acq with
  | some a => s3.takeScoped w (.ranges a.ranges) ((decodeScope a.scope).getD .package)
  | none => s3

/-- An atomic goes on its way; one that returns or acquires has a reply to come (R147, R167). -/
def State.amoSend (s : State) (w : Who) (r : AmoReq) (p : Piece) : State :=
  let s1 := (s.forget w p.at_.flat p.n).send w { (s.packet w (.amo r.op r.ty) (some (s.strand w).adaptive)).aim p.at_ p.n with
    va := p.va, ent := p.x.ent, data := r.b.setWidth 512, cmp := r.dv, ret := r.ret }
  if r.ret || r.acq.isSome then s1.pushLoad w { s.amoLoad w r p with pkt := some s.nextId } else s1

/-- The cluster performs an atomic on a quiet line that it owns from then on (R165). -/
def State.amoOwned (s : State) (w : Who) (r : AmoReq) (p : Piece) (f n : Nat) : State :=
  let cl := clusterOf w.core
  let s1 := ((s.bypass cl f n).recall cl f).amoHere w r p f n
  ({ s1 with owners := AMap.put s1.owners (f / 64) cl } : State).ackNow w

/-- An atomic without a reply on a poisoned word of the own LM fails its service, and is reported (R162, R408). -/
def State.amoFailed (s : State) (w : Who) (r : AmoReq) (p : Piece) : State :=
  let q : Packet := { (s.packet w (.amo r.op r.ty) none).aim p.remote p.n with
    va := p.va, ent := p.x.ent, data := r.b.setWidth 512, cmp := r.dv, refused := true }
  (s.send w q).report (dieOf w.core) (q.report 2 31)

/-- An atomic with its location translated (R163-R166): on the own core's LM it performs at the LM port; on a quiet HBM or PEER line
that the cluster owns or can take, in the cluster, unless it is to perform later (R426), once no earlier store of its strand to
those bytes is on its way (R145), and so does one that claims its page, with the fill (R320); elsewhere it goes on its way. One that
returns and meets an error in the own LM has its trap deferred (R147); of the others one on a poisoned word fails its service (R408),
and any other traps at once. -/
def State.amoIssue (s : State) (w : Who) (r : AmoReq) (p : Piece) : Except Trap State :=
  let cl := clusterOf w.core
  let quiet (f : Nat) : Bool :=
    (s.eccCause cl f p.n).isNone && (p.x.claim || (!s.contested cl f && !(s.strand w).late)) &&
    ((s.owners.lookup (f / 64) == some cl && !s.drooping w.core) || !s.cut w p.at_)
  match p.at_ with
  | .lm f =>
    match s.eccCause cl f p.n with
    | some c =>
      if r.ret then .ok (s.pushLoad w { s.amoLoad w r p with val := some 0, poison := c })
      else if c = 31 then .ok (s.amoFailed w r p)
      else .error { code := .ecc, cause := c, va := p.va, kind := 2 }
    | none => .ok (s.amoHere w r p f p.n)
  | .hbm pa _ => .ok (if quiet pa then s.amoOwned w r p pa p.n else s.amoSend w r p)
  | .peer _ f _ =>
    .ok (if quiet f && !s.deadPeer p.at_ && !s.behind w true f p.n then s.amoOwned w r p f p.n else s.amoSend w r p)
  | _ => .ok (s.amoSend w r p)

/-- The type of an atomic's operands: 0x0 is f32 for fadd and xacc, i64 else. -/
def amoOperandTy (op : Nat) (ty : Ty) : Ty := if op = 8 ∨ op = 9 then .f32 else ty

/-- amo (R163, R166). An acquire reads once every earlier load of its strand has, so that it takes in for those too (R151). -/
def amo (f : Form) (op : Nat) (ord : Ord) (ty : Ty) (d a b e : Reg) (s : State) : Host.Outcome State Fault Refusal :=
  let ret := d ≠ 0 && op != 9
  let dOps : List Opnd := if op = 9 then [.feat 3] else if op = 7 then [.src d, .dst d] else [.dst d]
  runInstr f (dOps ++ [.mem, .src a, .src b, .scope e]) (fun s w =>
    let n := amoWidth op ty
    let ea := s.reg w a
    if ea.toNat % n ≠ 0 then .error (.align ea 2)
    else
      match s.pieces w .atomic .amo [(ea, n)] with
      | .error t => .error t
      | .ok [p] =>
        let obj := s.objFlat w p.at_
        if s.mustWaitHome w p.at_ n || (p.x.claim && s.cut w p.at_) then s.holdBack w .operand
        else if (ordRel ord && s.relBusy w (.object obj) (s.scopeOf w e)) ||
            (ordAcq ord && (s.readsBusy w || s.takeCut w (.object obj))) then s.holdBack w .remote
        else
          let s1 := s.useXlat w p.x
          let s2 := if ordRel ord then s1.publish w (.object obj) (s.scopeOf w e) else s1
          let r : AmoReq := { op := op, ty := amoOperandTy op ty, d := d, ret := ret, b := s.reg w b, dv := s.reg w d,
                              acq := if ordAcq ord then some (s.acqOf w obj e) else none }
          match s2.amoIssue w r p with
          | .error t => .error t
          | .ok s3 => .ok (.retire (s3.setLate w false) 40)
      | .ok _ => s.holdBack w .operand) s

def execAmoAdd (f : Form) (ord : Ord) (ty : Ty) (d a b e : Reg) (s : State) : Host.Outcome State Fault Refusal :=
  amo f 0 ord ty d a b e s
def execAmoMin (f : Form) (ord : Ord) (ty : Ty) (d a b e : Reg) (s : State) : Host.Outcome State Fault Refusal :=
  amo f 1 ord ty d a b e s
def execAmoMax (f : Form) (ord : Ord) (ty : Ty) (d a b e : Reg) (s : State) : Host.Outcome State Fault Refusal :=
  amo f 2 ord ty d a b e s
def execAmoAnd (f : Form) (ord : Ord) (ty : Ty) (d a b e : Reg) (s : State) : Host.Outcome State Fault Refusal :=
  amo f 3 ord ty d a b e s
def execAmoOr (f : Form) (ord : Ord) (ty : Ty) (d a b e : Reg) (s : State) : Host.Outcome State Fault Refusal :=
  amo f 4 ord ty d a b e s
def execAmoXor (f : Form) (ord : Ord) (ty : Ty) (d a b e : Reg) (s : State) : Host.Outcome State Fault Refusal :=
  amo f 5 ord ty d a b e s
def execAmoSwap (f : Form) (ord : Ord) (ty : Ty) (d a b e : Reg) (s : State) : Host.Outcome State Fault Refusal :=
  amo f 6 ord ty d a b e s
def execAmoCas (f : Form) (ord : Ord) (ty : Ty) (d a b e : Reg) (s : State) : Host.Outcome State Fault Refusal :=
  amo f 7 ord ty d a b e s
def execAmoFadd (f : Form) (ord : Ord) (ty : Ty) (d a b e : Reg) (s : State) : Host.Outcome State Fault Refusal :=
  amo f 8 ord ty d a b e s
def execAmoXacc (f : Form) (ord : Ord) (ty : Ty) (a b e : Reg) (s : State) : Host.Outcome State Fault Refusal :=
  amo f 9 ord ty 0 a b e s

/-- Every 4,096 cycles each contention counter of a cluster falls by 1 (R165). -/
def execPredictorDecay (cluster : Nat) (s : State) : Host.Outcome State Fault Refusal :=
  let t := AMap.mapVals (AMap.get [] s.predict cluster) (fun _ (v : BitVec 2) => if v = 0 then 0 else v - 1)
  .next ({ s with predict := AMap.put s.predict cluster t } : State).wake

/-! ## ld.acq, st.rel (R167) -/

/-- ld.acq with its place: it performs at the LM port or at a control register, and elsewhere at the home of its location; an access
outside the core's own LM counts on a path (R159, R167). -/
def State.acquireAt (s : State) (w : Who) (d : Reg) (ty : Ty) (p : Piece) (a : Acq) : State :=
  let take (s : State) : State := s.takeScoped w (.ranges a.ranges) ((decodeScope a.scope).getD .package)
  match p.at_ with
  | .lm f =>
    match s.eccCause (clusterOf w.core) f p.n with
    | some c => s.pushLoad w { s.loadOf w d 0 ty p with val := some 0, poison := c, acq := some a }
    | none => take (s.startLoad w d 0 ty p none)
  | .mmio _ => take ((s.startLoad w d 0 ty p none).ackNow w)
  | at_ => s.sendLoad w .load at_ { s.loadOf w d 0 ty p with acq := some a } (s.strand w).adaptive

def execLdAcq (f : Form) (ty : Ty) (d a e : Reg) (s : State) : Host.Outcome State Fault Refusal :=
  runInstr f [.mem, .dst d, .src a, .scope e] (fun s w =>
    let ea := s.reg w a
    let n := memWidth ty
    if ea.toNat % n ≠ 0 then .error (.align ea)
    else
      match s.pieces w .load .all [(ea, n)] with
      | .error t => .error t
      | .ok [p] =>
        if s.mustWait w false p.at_.flat n then s.holdBack w .operand
        else if s.readsBusy w || s.mmioCut w p.at_ || s.takeCut w (.object (s.objFlat w p.at_)) then s.holdBack w .remote
        else .ok (.retire ((s.useXlat w p.x).acquireAt w d ty p (s.acqOf w (s.objFlat w p.at_) e)) (memEu [p]))
      | .ok _ => s.holdBack w .operand) s

/-- The write of a st.rel: at the home of HBM or host memory, at once or later (R426), else as st writes (R167). -/
def State.releaseAt (s : State) (w : Who) (p : Piece) (v : Nat) : State :=
  let home (f : Nat) : State :=
    if (s.strand w).late && !p.x.claim then (s.forget w f p.n).sendStore w p.at_ p.n v p.va p.x.ent (some (s.strand w).adaptive)
    else (s.writeHome w f p.n v p.va).ackNow w
  match p.at_ with
  | .hbm pa _ => home pa
  | .host h => home h
  | .mmio _ => (s.storeAt w p v).ackNow w
  | _ => s.storeAt w p v

/-- A st.rel that performs at its issue waits for its links (R335); one that leaves as a remote store does not. -/
def State.releaseCut (s : State) (w : Who) (p : Piece) : Bool :=
  match p.at_ with
  | .hbm _ _ | .host _ => (p.x.claim || !(s.strand w).late) && s.cut w p.at_
  | .mmio _ => s.cut w p.at_
  | a => p.x.claim && s.cut w a

def execStRel (f : Form) (ty : Ty) (d a e : Reg) (s : State) : Host.Outcome State Fault Refusal :=
  runInstr f [.mem, .src d, .src a, .scope e] (fun s w =>
    let ea := s.reg w a
    let n := memWidth ty
    if ea.toNat % n ≠ 0 then .error (.align ea 1)
    else
      match s.pieces w .store .all [(ea, n)] with
      | .error t => .error t
      | .ok [p] =>
        let c : Cover := .object (s.objFlat w p.at_)
        if s.mustWaitHome w p.at_ n then s.holdBack w .operand
        else if s.narrowBad p.at_.flat n then .error { code := .ecc, cause := 27, va := ea, kind := 1 }
        else if s.relBusy w c (s.scopeOf w e) || s.releaseCut w p then s.holdBack w .remote
        else .ok (.retire ((((s.useXlat w p.x).publish w c (s.scopeOf w e)).releaseAt w p (s.reg w d).toNat).setLate w false) (memEu [p]))
      | .ok _ => s.holdBack w .operand) s

/-! ## Fences (R171, R172) -/

/-- A fence: rel and acq say which points it is, c what it covers. Before a later load a full fence has every earlier write visible, and no
early reading outlives it; it pairs with the coverage c alone (R151, R171). Of what a release point publishes, what stands in the
cluster cache goes home whole where the scope reaches beyond the cluster: it reaches cores outside the scope too, which R212 allows
(DESIGN CHOICE, assumption 61). A strand held here is saved with XWAIT 9 (DESIGN CHOICE, assumption 72). -/
def fence (f : Form) (a : Reg) (rel acq : Bool) (c : Cover) (s : State) : Host.Outcome State Fault Refusal :=
  runInstr f [.scope a] (fun s w =>
    let wide : Cover := if rel && acq then .all else c
    let sc := s.scopeOf w a
    if acq && s.readsBusy w then s.holdBack w .remote
    else if (rel && s.relBusy w wide sc) || (acq && s.takeCut w c) then s.holdBack w .remote
    else
      let s1 := if rel then (s.sendHome w wide sc).markEarly w c sc else s
      let s2 := if acq then s1.takeScoped w c sc else s1
      if rel && acq then
        done ((s2.keepEarly w (fun _ => false)).doomFetched w) 1
      else done s2 1) s

def execFenceAcq (f : Form) (a : Reg) (s : State) : Host.Outcome State Fault Refusal := fence f a false true .bound s
def execFenceRel (f : Form) (a : Reg) (s : State) : Host.Outcome State Fault Refusal := fence f a true false .bound s
def execFenceFull (f : Form) (a : Reg) (s : State) : Host.Outcome State Fault Refusal := fence f a true true .bound s
def execFenceAcqAll (f : Form) (a : Reg) (s : State) : Host.Outcome State Fault Refusal := fence f a false true .all s
def execFenceRelAll (f : Form) (a : Reg) (s : State) : Host.Outcome State Fault Refusal := fence f a true false .all s
def execFenceFullAll (f : Form) (a : Reg) (s : State) : Host.Outcome State Fault Refusal := fence f a true true .all s

/-- No remote operation of the strand is unacknowledged. -/
def Strand.packsIdle (st : Strand) : Bool := (List.range 4).all (fun n => packOut (st.pack n) == 0)

def execFenceAck (f : Form) (s : State) : Host.Outcome State Fault Refusal :=
  runInstr f ((List.range 4).map (fun n => .status (0x1F + n))) (fun s w => if (s.strand w).packsIdle then done s 1 else s.holdBack w .fenceAck) s

/-! ## bind, unbind (R168, R169) -/

/-- A range cut out of an entry of the bind table. -/
def cutBind (base len : Nat) (b : Nat × Nat × Nat) : List (Nat × Nat × Nat) :=
  let lo := b.1
  let hi := b.1 + b.2.1
  if base + len ≤ lo ∨ hi ≤ base then [b]
  else (if lo < base then [(lo, base - lo, b.2.2)] else []) ++ (if base + len < hi then [(base + len, hi - (base + len), b.2.2)] else [])

/-- An entry put at its place. -/
def insBind (b : Nat × Nat × Nat) : List (Nat × Nat × Nat) → List (Nat × Nat × Nat)
  | [] => [b]
  | c :: t => if b.1 ≤ c.1 then b :: c :: t else c :: insBind b t

/-- Adjacent ranges of one object merged. -/
def mergeBinds : List (Nat × Nat × Nat) → List (Nat × Nat × Nat)
  | [] => []
  | b :: t =>
    match mergeBinds t with
    | c :: r => if b.1 + b.2.1 = c.1 ∧ b.2.2 = c.2.2 then (b.1, b.2.1 + c.2.1, b.2.2) :: r else b :: c :: r
    | [] => [b]

/-- The bind table of a context. BINDTAB of its descriptor names memory for it (R233); no rule gives entries there a form, so the table is
the context's own (DESIGN CHOICE, assumption 66). -/
def State.setBinds (s : State) (ctx : Nat) (bs : List (Nat × Nat × Nat)) : State :=
  { s with contexts := AMap.put s.contexts ctx { s.ctxRec ctx with binds := bs } }

def bindFull (va : Word) : Trap := .access 38 va

/-- The object of a bind, by the flat address that names it: on an LM page or an HBM page with SYNC (R169). -/
def State.bindObj (s : State) (w : Who) : Target → Option Nat
  | .lm c off => some (s.objFlat w ((s.place w (.lm c off)).getD (.away c off)))
  | .hbm pa true => some pa
  | _ => none

/-- bind. R169 puts the object's page under R143 and names no access: the page must grant what a load needs, and a record of its PAGE or
ACCESS has KIND 0 (DESIGN CHOICE, assumption 83). -/
def execBind (f : Form) (d a b : Reg) (s : State) : Host.Outcome State Fault Refusal :=
  runInstr f [.mem, .src d, .src a, .src b] (fun s w =>
    let obj := s.reg w d
    let base := s.reg w a
    let len := (s.reg w b).toNat
    if base.toNat % 64 ≠ 0 ∨ len % 64 ≠ 0 then .error (.align base)
    else if obj.toNat % 8 ≠ 0 then .error (.align obj)
    else
      match s.translate w obj .load .object with
      | .error t => .error t
      | .ok x =>
        match s.bindObj w x.tgt with
        | none => .error (.access 5 obj)
        | some o =>
          if len = 0 then done (s.useXlat w x) 16
          else
            let ctx := s.ctxOf w.core
            let kept := ((s.ctxRec ctx).binds.map (cutBind base.toNat len)).flatten
            let bs := mergeBinds (insBind (base.toNat, len, o) kept)
            if 4096 < bs.length then .error (bindFull base) else done ((s.useXlat w x).setBinds ctx bs) 16) s

def execUnbind (f : Form) (a b : Reg) (s : State) : Host.Outcome State Fault Refusal :=
  runInstr f [.mem, .src a, .src b] (fun s w =>
    let base := s.reg w a
    let len := (s.reg w b).toNat
    if base.toNat % 64 ≠ 0 ∨ len % 64 ≠ 0 then .error (.align base)
    else if len = 0 then done s 16
    else
      let ctx := s.ctxOf w.core
      let bs := ((s.ctxRec ctx).binds.map (cutBind base.toNat len)).flatten
      if 4096 < bs.length then .error (bindFull base) else done (s.setBinds ctx bs) 16) s

/-! ## wbr, invr (R170) -/

/-- The lines of a virtual range, widened to whole lines, as flat ranges; unmapped lines are skipped. -/
def State.lineRanges (s : State) (w : Who) (a b : Word) : List (Nat × Nat) :=
  if b = 0 then []
  else
    let lo := a.toNat / 64 * 64
    let hi := (a.toNat + b.toNat + 63) / 64 * 64
    (s.rangesOf (s.ctxOf w.core) ((hi - lo) / 4096 + 2) lo (hi - lo)).filter (fun r => !isLm r.1)

def inRanges (rs : List (Nat × Nat)) (f n : Nat) : Bool := rs.any (fun r => overlap r.1 r.2 f n)

/-- A kind of operation that may write its target. -/
def PktKind.writes (k : PktKind) : Bool := k.isStore || match k with
  | .amo _ _ => true
  | _ => false

def execWbr (f : Form) (a b : Reg) (s : State) : Host.Outcome State Fault Refusal :=
  runInstr f [.mem, .src a, .src b] (fun s w =>
    let rs := s.lineRanges w (s.reg w a) (s.reg w b)
    if (s.mine w).any (fun e => e.2.kind.writes && inRanges rs e.2.flat e.2.bytes) || s.anyCut w (inRanges rs) then s.holdBack w .remote
    else
      let cl := clusterOf w.core
      done ((s.cache cl).foldl (fun acc l => if inRanges rs (64 * l.1) 64 then acc.writeBack cl l.1 else acc) s) 16) s

def execInvr (f : Form) (a b : Reg) (s : State) : Host.Outcome State Fault Refusal :=
  runInstr f [.mem, .src a, .src b] (fun s w =>
    let rs := s.lineRanges w (s.reg w a) (s.reg w b)
    if s.readsBusy w || s.anyCut w (inRanges rs) then s.holdBack w .remote
    else
      let cl := clusterOf w.core
      let s1 := (s.cache cl).foldl (fun acc l => if inRanges rs (64 * l.1) 64 then acc.dropLine cl l.1 else acc) s
      done (s1.keepEarly w (fun e => !inRanges rs (64 * e.1) 64)) 16) s

end Sys2Proof.Machine
end

