-- ==== Sys2Proof/Machine/Barrier.lean ====
section
/-!
DEFINITION. Barrier objects: their words, their events, waiting on a generation, and poisoning by a stopped kernel
(R298-R310).
-/
namespace Sys2Proof.Machine

/-! ## The barrier word and the poison record (R298, R300, R301) -/

def barGen (v : Word) : Nat := bits v 63 48
def barState (v : Word) : Nat := bits v 47 46
def barLast (v : Word) : Nat := bits v 45 44
def barArrived (v : Word) : Nat := bits v 31 16
def barCount (v : Word) : Nat := bits v 15 0

/-- INVALID whatever STATE reads (R302). -/
def barInvalid (v : Word) : Bool :=
  barState v == 0 || barState v == 3 || barCount v == 0 || (barState v == 1 && decide (barCount v ≤ barArrived v))

/-- The word after `binit` with a count (R301, R306): OPEN, reinitialised, the next GEN; its reserved bits are 0. -/
def barInit (v : Word) (n : Nat) : Word :=
  setBits (setBits (setBits (setBits (0 : Word) 63 48 (barGen v + 1)) 47 46 1) 45 44 2) 15 0 n

/-- The word after an arrival in OPEN (R301). -/
def barArrive (v : Word) : Word :=
  if barArrived v + 1 = barCount v then setBits (setBits (setBits v 63 48 (barGen v + 1)) 45 44 0) 31 16 0
  else setBits v 31 16 (barArrived v + 1)

/-- The poison record (R298). -/
def poisonRecord (gen : Nat) (cc : Bool) (source code : Nat) : Word :=
  BitVec.ofNat 64 (2 ^ 48 * gen + (if cc then 2 ^ 47 else 0) + 2 ^ 32 * source + code)

/-- What a waiter on a generation finds (R302): the status it leaves with, or none. -/
def barLeave (v : Word) (g : Nat) : Option Nat :=
  if barState v = 2 then some 1 else if barGen v ≠ g then some (barLast v) else none

/-! ## Objects in memory (R299) -/

/-- The two dwords at an object. -/
def State.bar0 (s : State) (flat : Nat) : Word := s.readW flat
def State.bar1 (s : State) (flat : Nat) : Word := s.readW (flat + 8)

/-- A barrier operation on the two dwords of an object continues every release sequence there, those of the strand's own release points
among them (R150, R299), and early readings of it by strands of another start miss it. -/
def State.barDone (s : State) (birth : Nat) (points : List Nat) (via : Via) (flat : Nat) : State :=
  (s.setHeads points true flat 16).missed birth via flat 16

/-- An arrival on an object at one instant: nothing is counted when it is POISONED (R301). -/
def State.barArriveAt (s : State) (flat : Nat) : State :=
  let v := s.bar0 flat
  if barState v = 1 then s.write flat 8 (barArrive v).toNat else s

/-- Poisoning an object that is OPEN (R301); an INVALID word is left. -/
def State.barPoisonAt (s : State) (flat : Nat) (cc : Bool) (source code : Nat) : State :=
  let v := s.bar0 flat
  if barState v = 1 ∧ !barInvalid v then
    (s.write flat 8 (setBits v 47 46 2).toNat).write (flat + 8) 8 (poisonRecord (barGen v) cc source code).toNat
  else s

/-- The record of a kernel's barriers: the 64 most recently named, with the GEN its last arrival received (R304). -/
def noteBar (bs : List BarRec) (flat : Nat) (gen : Option Nat) : List BarRec :=
  let old := (bs.find? (fun b => b.flat == flat)).bind (·.gen)
  ({ flat := flat, gen := gen <|> old } :: bs.filter (fun b => b.flat != flat)).take 64

/-- What stands for the object of an xfer whose BAR does not translate at its issue, by the number of the operation, until the engine arrives
there (R304). -/
def xferName (order : Nat) : Nat := 2 ^ 110 + order

/-- A record in which an xfer's name has given way to its object, with the GEN of the arrival. -/
def genBar (bs : List BarRec) (name flat gen : Nat) : List BarRec :=
  ((bs.map (fun b => if b.flat = name then { b with flat := flat } else b)).foldr
    (fun b acc => b :: acc.filter (fun c => c.flat != b.flat)) []).map (fun b => if b.flat = flat then { b with gen := some gen } else b)

/-- The GEN that the engine arrival of an xfer received, in the record of its kernel. -/
def State.genOf (s : State) (kern : Option Nat) (order flat gen : Nat) : State :=
  match kern with
  | some k => s.setKernel k { s.kernel k with bars := genBar (s.kernel k).bars (xferName order) flat gen }
  | none => s

def State.noteBarOf (s : State) (kern : Option Nat) (flat : Nat) (gen : Option Nat) : State :=
  match kern with
  | some k => s.setKernel k { s.kernel k with bars := noteBar (s.kernel k).bars flat gen }
  | none => s

/-! ## The common check (R305) -/

/-- An object that an instruction names: its address, its flat address, and whether it lies in the executing core's LM. -/
structure BarObj where
  va   : Word
  flat : Nat
  own  : Bool
  x    : Xlat

/-- What the common check finds. -/
inductive BarGot where
  | obj (o : BarObj) (s : State)
  | wait
  | trap (t : Trap)

/-- The trap of an object's access with a CAUSE. -/
def Piece.barTrap (p : Piece) (c : Nat) : Trap :=
  { code := .access, cause := c, va := p.va, kind := 2, level := p.x.ent.level, entry := p.x.ent.entry }

/-- The common check (R305): the object is aligned and lies on an LM page or an HBM page with SYNC. -/
def State.barPage (s : State) (w : Who) (o : Word) : Except Trap Piece :=
  if o.toNat % 64 ≠ 0 then .error (.align o 2)
  else
    match s.pieces w .atomic .object [(o, 16)] with
    | .error t => .error t
    | .ok (p :: _) => match p.at_ with
      | .lm _ | .away _ _ | .hbm _ true => .ok p
      | _ => .error (p.barTrap 5)
    | .ok [] => .error (.align o 2)

/-- An object that passes the common check, outside any open Hinge block, whose core runs the context and can be reached (R299, R356);
a strand's own access ends its early readings of the line. -/
def State.barObj (s : State) (w : Who) (o : Word) : BarGot :=
    match s.barPage w o with
    | .error t => .trap t
    | .ok p =>
      let bad (c : Nat) : Except (Option Nat) (Nat × Bool) := .error (some c)
      let found : Except (Option Nat) (Nat × Bool) := match p.at_ with
        | .lm f => .ok (f, true)
        | .away c off =>
          if s.unreached w p.at_ then .error none
          else match s.awayPhys (s.strand w).job c off with
            | some q => if (s.live c).hingeCovers q 16 then bad 11 else .ok (lmFlat c q, false)
            | none => bad 8
        | .hbm pa true => if s.cut w p.at_ then .error none else .ok (pa, false)
        | _ => bad 5
      match found with
      | .error none => .wait
      | .error (some c) => .trap (p.barTrap c)
      | .ok (f, own) =>
        if s.mustWait w true p.at_.flat 16 then .wait
        else
          let cl := clusterOf w.core
          match s.eccCause cl f 16 with
          | some c => .trap { code := .ecc, cause := c, va := o, kind := 2, hurt := (f, 16) }
          | none => .obj ⟨o, f, own, p.x⟩ (((((s.useXlat w p.x).bypass cl f 16).recall cl f).forget w f 16).learn w f 16)

/-- An operation outside the executing core's LM counts on its path (R299). -/
def State.barAck (s : State) (w : Who) (o : BarObj) : State := if o.own then s else s.ackNow w

/-- A barrier instruction: the common check, a release with the scope of a field where it is one, after the earlier reads of its strand
where it acquires (R151), the INVALID check, then its effect. -/
def barInstr (f : Form) (ops : List Opnd) (a : Reg) (rel : Option Reg) (acq check : Bool) (s : State)
    (go : State → Who → BarObj → Except Trap Ans) : Host.Outcome State Fault Refusal :=
  runInstr f (ops ++ [.mem, .src a]) (fun s w =>
    match s.barObj w (s.reg w a) with
    | .trap t => .error t
    | .wait => s.holdBack w .remote
    | .obj o s1 =>
      if rel.any (fun e => s.relBusy w (.object o.flat) (s.scopeOf w e)) ||
          (acq && (s.readsBusy w || s.takeCut w (.object o.flat))) then s.holdBack w .remote
      else if check && barInvalid (s1.bar0 o.flat) then .error { code := .access, cause := 39, va := o.va, kind := 2 }
      else
        let s2 := match rel with
          | some e => s1.publish w (.object o.flat) (s.scopeOf w e)
          | none => s1
        go (s2.barAck w o) w o) s

/-! ## Instructions (R306-R310); class 7, 16 eu -/

def execBinit (f : Form) (a b : Reg) (s : State) : Host.Outcome State Fault Refusal :=
  runInstr f [.mem, .src a, .src b] (fun s w =>
    let n := (s.reg w b).toNat
    match s.barPage w (s.reg w a) with
    | .error t => .error t
    | .ok _ =>
      if n = 0 ∨ 65535 < n then .error .illop
      else
        match s.barObj w (s.reg w a) with
        | .trap t => .error t
        | .wait => s.holdBack w .remote
        | .obj o s1 =>
          let s2 := (s1.write o.flat 8 (barInit (s1.bar0 o.flat) n).toNat).write (o.flat + 8) 8 0
          done ((s2.wrote w (s.via w o.va) o.flat 16).barAck w o) 16) s

/-- The kernel of a strand names an object, with the GEN its arrival received where it is an arrival (R304). -/
def State.noteMine (s : State) (w : Who) (o : BarObj) (gen : Option Nat) : State := s.noteBarOf (s.strand w).kern o.flat gen

/-- What a strand's barrier operation leaves behind it. -/
def State.barOf (s : State) (w : Who) (o : BarObj) (gen : Option Nat) : State :=
  (s.barDone (s.strand w).birth (s.strand w).points (s.via w o.va) o.flat).noteMine w o gen

def execBarr (f : Form) (d a e : Reg) (s : State) : Host.Outcome State Fault Refusal :=
  barInstr f [.dst d, .scope e] a (some e) false true s (fun s w o =>
    let g := barGen (s.bar0 o.flat)
    done (((s.barArriveAt o.flat).barOf w o (some g)).setReg w d (BitVec.ofNat 64 g)) 16)

/-- A waiter leaves with a status: with 0 or 1 it takes in what its object covered at its issue (R303). -/
def State.leaveBar (s : State) (w : Who) (d : Reg) (st : Nat) (a : Acq) : State :=
  let s1 := s.setReg w d (BitVec.ofNat 64 st)
  if st ≤ 1 then s1.takeScoped w (.ranges a.ranges) ((decodeScope a.scope).getD .package) else s1

/-- A wait on a generation (R302): the strand leaves at once, or waits. -/
def barWait (f : Form) (s : State) (w : Who) (o : BarObj) (d e : Reg) (g : Nat) : Except Trap Ans :=
  let a := s.acqOf w o.flat e
  match barLeave (s.bar0 o.flat) g with
  | some st => done (s.leaveBar w d st a) 16
  | none => .ok (.hold (s.waiting w { mkWait .barrier false (lenBytes f.len) 16 with
      d := d, obj := o.va, flat := o.flat, gen := BitVec.ofNat 64 g, acq := some a }))

def execBwait (f : Form) (d a b e : Reg) (s : State) : Host.Outcome State Fault Refusal :=
  barInstr f [.dst d, .src b, .scope e] a none true true s (fun s w o =>
    barWait f (s.barOf w o none) w o d e (bits (s.reg w b) 15 0))

def execBarw (f : Form) (d a e : Reg) (s : State) : Host.Outcome State Fault Refusal :=
  barInstr f [.dst d, .scope e] a (some e) true true s (fun s w o =>
    let g := barGen (s.bar0 o.flat)
    barWait f ((s.barArriveAt o.flat).barOf w o (some g)) w o d e g)

/-- The SOURCE of a poisoning core. -/
def barSource (core : Nat) : Nat := 2 ^ 8 * coreY core + coreX core

def execBpoison (f : Form) (a b e : Reg) (s : State) : Host.Outcome State Fault Refusal :=
  barInstr f [.src b, .scope e] a (some e) false true s (fun s w o =>
    done ((s.barPoisonAt o.flat false (barSource w.core) (bits (s.reg w b) 31 0)).barOf w o none) 16)

def execBquery (f : Form) (d a : Reg) (q : BitVec 6) (s : State) : Host.Outcome State Fault Refusal :=
  barInstr f [.dst d] a none false false s (fun s w o =>
    done ((s.barDone (s.strand w).birth (s.strand w).points (s.via w o.va) o.flat).setReg w d
      (if q = 0 then s.bar0 o.flat else s.bar1 o.flat)) 16)

/-- An object of a core that is away for a context (R299). -/
def State.barAway (s : State) (ctx flat : Nat) : Bool := isLm flat && !s.isActive ctx (lmCore flat)

/-- A waiter reads the barrier word and leaves, where the word lets it (R302); an INVALID word traps in the waiter. A waiter
on an object of a core away for the context waits for its return (R299). A word in error traps in it too (R407, R408). -/
def execBarrierWaiterLeave (core strand : Nat) (s : State) : Host.Outcome State Fault Refusal :=
  let w : Who := ⟨core, strand⟩
  match s.waitOf w [.barrier] with
  | none => .next s
  | some v =>
    let b := s.bar0 v.flat
    let pc := (s.strand w).pc
    if s.barAway (s.ctxOf core) v.flat || (s.drooping core && !(isLm v.flat && lmCore v.flat == core)) then .next s
    else match s.eccCause (clusterOf core) v.flat 16 with
    | some c =>
      wakeAfter (s.takeTrap w { code := .ecc, cause := c, va := v.obj, kind := 2, hurt := (v.flat, 16) } pc (pc + BitVec.ofNat 64 v.len))
    | none =>
    if barInvalid b then
      wakeAfter (s.takeTrap w { code := .access, cause := 39, va := v.obj, kind := 2 } pc (pc + BitVec.ofNat 64 v.len))
    else
      match barLeave b v.gen.toNat with
      | none => .next s
      | some st =>
        let a := v.acq.getD ⟨v.flat, 0, []⟩
        if decide (st ≤ 1) && s.takeCut w (.ranges a.ranges) then .next s
        else .next ((((s.forget w v.flat 16).learn w v.flat 16).leaveBar w v.d st a).finish w v.len v.eu).wake

/-! ## Poisoning when a kernel stops (R304) -/

/-- A strand of a kernel on any core waits on an object. -/
def State.waitsOn (s : State) (k flat : Nat) : Bool :=
  let inCtx (l : CoreCtx) : Bool := l.strands.any (fun e =>
    e.2.kern == some k && match e.2.wait with
      | some v => v.kind == .barrier && v.flat == flat
      | none => false)
  s.cores.any (fun c => inCtx c.2.live) || s.saved.any (fun c => inCtx c.2)

/-- A poisoning acts, if the object's GEN is still the one it needs; only the Hinge engine writes an open block (R356). -/
def State.poisonNow (s : State) (p : Poison) : State :=
  if isLm p.flat && (s.live (lmCore p.flat)).hingeCovers (p.flat - lmFlat (lmCore p.flat) 0) 16 then s
  else if p.gen = none ∨ p.gen = some (barGen (s.bar0 p.flat)) then s.barPoisonAt p.flat true p.source p.code else s

/-- The recorded objects of a kernel poisoned, with the code of the state it enters and the control core that serves; on the LM of a
core away for the context once it is back. -/
def State.poisonBars (s : State) (k code source : Nat) : State :=
  let kr := s.kernel k
  let ps : List Poison := kr.bars.filterMap (fun b =>
    if s.waitsOn k b.flat then some ⟨b.flat, none, source, code⟩
    else b.gen.map (fun g => ⟨b.flat, some g, source, code⟩))
  let away (p : Poison) : Bool := s.barAway kr.ctx p.flat
  (ps.filter (fun p => !away p)).foldl State.poisonNow (s.setKernel k { kr with poisons := kr.poisons ++ ps.filter away })

/-- The poisonings that have waited for a core of a context. -/
def State.poisonWaiting (s : State) (ctx core : Nat) : State :=
  s.kernels.foldl (fun acc e =>
    let here (p : Poison) : Bool := lmCore p.flat == core
    if e.2.ctx = ctx ∧ e.2.poisons.any here then
      let s1 := (e.2.poisons.filter here).foldl State.poisonNow acc
      s1.setKernel e.1 { s1.kernel e.1 with poisons := (s1.kernel e.1).poisons.filter (fun p => !here p) }
    else acc) s

end Sys2Proof.Machine
end

