-- ==== Sys2Proof/Machine/BitStream.lean ====
section
/-!
DEFINITION. Bit streams (R139-R141, R191).
-/
namespace Sys2Proof.Machine

/-- Byte i of a stream read from a bit address: BITPTR is a signed bit address (R105). -/
def streamVa (p : Word) (i : Nat) : Word := (p + BitVec.ofNat 64 (8 * i)).sshiftRight 3

/-- What a read of a stream meets. -/
inductive Stream where
  | bits (v : Nat) (lm : Bool) (s : State)
  | wait (k : WaitKind)
  | trap (t : Trap)

/-- Every piece lies on an LM page, of whichever core (R113). -/
def onLm (ps : List Piece) : Bool := ps.all (fun p => match p.at_ with | .lm _ | .away _ _ => true | _ => false)

/-- The bytes at some addresses, one after another, each a plain load with every check before the next is looked at (R140); all of
one read at one instant (DESIGN CHOICE, assumption 55: R141 lets them come from different ones). -/
def State.streamBytes (s : State) (w : Who) : List Word → Stream
  | [] => .bits 0 true s
  | va :: t =>
    match s.pieces w .load .all [(va, 1)] with
    | .error e => .trap e
    | .ok ps =>
      if s.rowAway w ps then .wait .remote
      else if ps.any (fun q => s.mustWait w false q.at_.flat 1) then .wait .operand
      else
        match (s.useAll w ps).readRows w ps with
        | .error e => .trap e
        | .ok (vs, s1) =>
          match s1.streamBytes w t with
          | .bits v lm s2 => .bits (vs.headD 0 % 256 + 256 * v) (onLm ps && lm) s2
          | x => x

/-- n stream bits from a bit address (R140, R141); a trap names the first byte that fails. -/
def State.stream (s : State) (w : Who) (p : Word) (n : Nat) : Stream :=
  if n = 0 then .bits 0 true s
  else
    let k := (p.toNat % 8 + n - 1) / 8 + 1
    match s.streamBytes w ((List.range k).map (streamVa p)) with
    | .bits v lm s1 => .bits (v / 2 ^ (p.toNat % 8) % 2 ^ n) lm s1
    | x => x

/-- BITPTR written. -/
def State.setBitptr (s : State) (w : Who) (p : Word) : State := s.setStrand w { s.strand w with bitbuf := p }

def execBsfill (f : Form) (a b : Reg) (s : State) : Host.Outcome State Fault Refusal :=
  runInstr f [.src a, .src b] (fun s w => done ((s.setBitptr w (8 * s.reg w a + s.reg w b)).clearStatus w 0x11) 2) s

/-- bsget and bspeek of n bits; bsget moves the stream on. -/
def bsRead (s : State) (w : Who) (d : Reg) (n : Nat) (move : Bool) : Except Trap Ans :=
  let p := (s.strand w).bitbuf
  match s.stream w p n with
  | .trap t => .error t
  | .wait k => s.holdBack w k
  | .bits v lm s1 =>
    let s2 := s1.setReg w d (BitVec.ofNat 64 v)
    done (if move then s2.setBitptr w (p + BitVec.ofNat 64 n) else s2) (if lm then 4 else 40)

/-- The count of a register form. -/
def bsCount (v : Word) : Nat := min v.toNat 64

def execBsget (f : Form) (d b : Reg) (s : State) : Host.Outcome State Fault Refusal :=
  runInstr f [.mem, .dst d, .src b, .status 0x11] (fun s w => bsRead s w d (bsCount (s.reg w b)) true) s
def execBspeek (f : Form) (d b : Reg) (s : State) : Host.Outcome State Fault Refusal :=
  runInstr f [.mem, .dst d, .src b, .status 0x11] (fun s w => bsRead s w d (bsCount (s.reg w b)) false) s
def execBsskip (f : Form) (b : Reg) (s : State) : Host.Outcome State Fault Refusal :=
  runInstr f [.src b, .status 0x11] (fun s w => done (s.setBitptr w ((s.strand w).bitbuf + s.reg w b)) 2) s
def execBsgetImm (f : Form) (d : Reg) (n1 : BitVec 6) (s : State) : Host.Outcome State Fault Refusal :=
  runInstr f [.mem, .dst d, .status 0x11] (fun s w => bsRead s w d (n1.toNat + 1) true) s
def execBspeekImm (f : Form) (d : Reg) (n1 : BitVec 6) (s : State) : Host.Outcome State Fault Refusal :=
  runInstr f [.mem, .dst d, .status 0x11] (fun s w => bsRead s w d (n1.toNat + 1) false) s
def execBsskipImm (f : Form) (n1 : BitVec 6) (s : State) : Host.Outcome State Fault Refusal :=
  runInstr f [.status 0x11] (fun s w => done (s.setBitptr w ((s.strand w).bitbuf + BitVec.ofNat 64 (n1.toNat + 1))) 2) s

/-- bsget.t (R191): each active element, in order of row and then of element, takes the next n bits. -/
def execBsgetT (f : Form) (ty : Ty) (d : Tile) (n : BitVec 8) (s : State) : Host.Outcome State Fault Refusal :=
  let t := tyOr ty .n32
  let wd := t.tileWidth
  let whole : List Opnd := if (s.strand s.cur).coversTile wd then [.twhole d] else []
  runInstr f (whole ++ [.mem, .tdst d, .status 0x11] ++ shapeOps) (fun s w =>
    let st := s.strand w
    let p := st.bitbuf
    let cols := min st.cols (512 / wd)
    let rows := (List.range 16).filter st.rowActive
    let count := rows.length * cols
    match s.stream w p (n.toNat * count) with
    | .trap t => .error t
    | .wait k => s.holdBack w k
    | .bits v _ s1 =>
      let field (i j : Nat) : Nat := v / 2 ^ (n.toNat * ((rows.filter (· < i)).length * cols + j)) % 2 ^ n.toNat
      let put (x : Nat) : Nat := if isSigned t then wrap wd (sval n.toNat x) else x
      let out := (List.range 16).map (fun i =>
        if st.rowActive i then
          rowOf wd ((List.range (512 / wd)).map (fun j => if j < cols then put (field i j) else (s.tile w d).elem wd i j))
        else (s.tile w d).row i)
      done ((s1.setTile w d out 0).setBitptr w (p + BitVec.ofNat 64 (n.toNat * count))) 48) s

end Sys2Proof.Machine
end

