-- ==== Sys2Proof/Machine/Boot.lean ====
section
/-!
DEFINITION. Boot, images and attestation (R423, R424).
-/
namespace Sys2Proof.Machine

/-- Bytes of an image header: VERSION and LENGTH, DIGEST, and the two signatures. -/
def headerBytes : Nat := 0x1B8 + 16224

/-- Bytes of an image from an offset on. -/
def bytesAt (image : List Byte) (off n : Nat) : List Byte := (image.drop off).take n

def imageLength (image : List Byte) : Nat := natOfBytes (bytesAt image 0 4)
def imageVersion (image : List Byte) : Nat := natOfBytes (bytesAt image 4 4)
def imageDigest (image : List Byte) : List Byte := bytesAt image 8 48
def imageBody (image : List Byte) : List Byte := bytesAt image headerBytes (imageLength image)

/-- Both signatures of an image verify, each over SHA-384 of its bytes 0x000-0x037. -/
def imageSigned (image : List Byte) : Bool :=
  let digest := sha384 (bytesAt image 0 0x38)
  Config.rsaVerifies digest (bytesAt image 0x38 384) && Config.slhVerifies digest (bytesAt image 0x1B8 16224)

/-- An image starts only when its signatures verify, DIGEST is that of its body, and VERSION is at least the fused minimum
(R423). The kind is 0 for Roloskar, 1 for a partition. -/
def imageStarts (kind : Nat) (image : List Byte) : Bool :=
  imageSigned image && decide (headerBytes ≤ image.length) &&
  (imageBody image).length == imageLength image && imageDigest image == sha384 (imageBody image) &&
  decide (Config.minVersion kind ≤ imageVersion image)

def imageOf (image : List Byte) : Image :=
  { version := BitVec.ofNat 32 (imageVersion image), digest := BitVec.ofNat 384 (natOfBytes (imageDigest image)) }

def State.setImage (s : State) (k : Nat) (image : List Byte) : State :=
  { s with images := AMap.put s.images k (imageOf image) }

/-- The boot ROM verifies Roloskar, which gives each partition its cores, memory and queues by its partition table; a failed image leaves the module
in recovery (R423). It happens once after a reset. -/
def execModuleResetBoot (image : List Byte) (table : List PartRow) (s : State) : Host.Outcome State Fault Refusal :=
  if s.booted ∨ s.recovery then .next s
  else if imageStarts 0 image then
    let parts := table.foldl (fun (m : AMap PartRow) (r : PartRow) => AMap.put m r.part.toNat r) s.parts
    .next ({ s with booted := true, parts := parts }.setImage 16 image)
  else .next { s with recovery := true }

/-- The die of a partition's first core. -/
def State.partDie (s : State) (p : Nat) : Nat :=
  match (s.part p).rects with
  | r :: _ => dieOf (coreAt (field r.toNat 7 0) (field r.toNat 15 8))
  | [] => 0

/-- Roloskar verifies a partition's system image before its supervisor starts; a failed image leaves the partition down and is
reported (R423). -/
def execPartitionImageVerify (part : BitVec 4) (image : List Byte) (s : State) : Host.Outcome State Fault Refusal :=
  let p := part.toNat
  if !s.booted ∨ s.partsUp.contains p then .next s
  else if imageStarts 1 image then .next (State.setImage { s with partsUp := p :: s.partsUp } p image)
  else .next (s.report (s.partDie p) { kind := 14 }).wake

/-- The content of an attestation report, as the bytes that are signed. -/
def attestBytes (r p : Image) (f1 f2 : BitVec 8) (nonce : List Byte) : List Byte :=
  bytesOfNat 48 r.digest.toNat ++ bytesOfNat 4 r.version.toNat ++ bytesOfNat 48 p.digest.toNat ++ bytesOfNat 4 p.version.toNat ++
    [f1, f2] ++ nonce

/-- A report on a started partition for a host nonce of 32 bytes, signed with both algorithms (R424). -/
def execAttestationRequest (part : BitVec 4) (nonce : List Byte) (s : State) : Host.Outcome State Fault Refusal :=
  if !s.booted ∨ !s.partsUp.contains part.toNat ∨ nonce.length ≠ 32 then .next s
  else
    let r := AMap.get ⟨0, 0⟩ s.images 16
    let p := AMap.get ⟨0, 0⟩ s.images part.toNat
    let content := attestBytes r p 0xFF s.feature2 nonce
    .next { s with attests := s.attests ++ [{ roloskar := r, partition := p, feature1 := 0xFF, feature2 := s.feature2, nonce := nonce,
                                              rsa := Config.rsaSign content, slh := Config.slhSign content }] }

end Sys2Proof.Machine
end

