-- ==== Sys2Proof/Machine/Matrix.lean ====
section
/-!
DEFINITION. Matrix instructions and the matrix array (R85, R192-R207). An operation performs whole where it starts, once
no earlier operation that has not started touches its tiles, and lets its lock bits go where it finishes.
-/
namespace Sys2Proof.Machine

/-! ## Slots (R192, R193) -/

def CoreCtx.slotOf (l : CoreCtx) (p : Nat) : MxaSlot := AMap.get MxaSlot.empty l.slots p
def CoreCtx.setSlot (l : CoreCtx) (p : Nat) (v : MxaSlot) : CoreCtx := { l with slots := AMap.put l.slots p v }
/-- The plane a slot name is bound to (R192). -/
def Strand.planeOf (st : Strand) (slot : Bool) : Nat := (st.hold.mxs[slot.toNat]?).getD 0

/-- The weight format a latched type stands for; 0x0 is f32. -/
def mxTy (t : Ty) : Ty := tyOr t .f32

/-- The pairs of R194. -/
def mxPair (wt st : Ty) : Bool :=
  let s := mxTy st
  match mxTy wt with
  | .f32 => s == .f32
  | .bf16 => s == .bf16
  | .f16 => s == .f16
  | .e4m3 | .e5m2 => s == .e4m3 || s == .e5m2
  | .i8 => s == .i8
  | .lut4 => s == .lut4
  | .bpn => s == .i8 || s == .lut4
  | _ => false

/-- An integer pair: i8, lut4 and bpn weights (R85, R194). -/
def mxIsInt (wt : Ty) : Bool :=
  match mxTy wt with
  | .i8 | .lut4 | .bpn => true
  | _ => false

/-! ## What the array computes (R85, R195) -/

/-- Element j of a row of integer weights or stream elements. -/
def mxInt (t : Ty) (k : Nat) (lut : BitVec 128) (r : Row) (j : Nat) : Int :=
  match t with
  | .bpn => bpnVal r k j
  | .lut4 => lutEntry lut (elem r 4 j)
  | _ => sval 8 (elem r 8 j)

/-- Element j of a row of floating weights or stream elements, under the captured FZ. -/
def mxNum (t : Ty) (c : Word) (r : Row) (j : Nat) : Num := readF (fmtOf (mxTy t)) c (elem r (fmtOf (mxTy t)).w j)

/-- MxaElement for floating types: sixteen steps, each rounded (R85). -/
def mxaFloat (c : Word) (acc : Nat) (ps : List (Num × Num)) : Nat × FFlags :=
  ps.foldl (fun (a : Nat × FFlags) p =>
    let (v, fl) := rounded (fmtOf .f32) c (numFma (fctlMode c) p.1 p.2 (readF (fmtOf .f32) c a.1))
    (v, a.2 ||| fl)) (acc, 0)

/-- MxaElement for integer types: exact, then wrapped at 32 bits (R85). -/
def mxaInt (acc : Nat) (ps : List (Int × Int)) : Nat :=
  wrap 32 (ps.foldl (fun a p => a + p.1 * p.2) (sval 32 acc))

/-- A result row of a stream (R204): acc is the accumulator row. -/
def mxaRow (o : MxaOp) (w : Nat → Row) (acc a : Row) : Row × FFlags :=
  let ks := List.range 16
  let es := (List.range 16).map (fun j =>
    if mxIsInt o.wty then
      (mxaInt (elem acc 32 j) (ks.map (fun k => (mxInt o.ty 0 o.lut a k, mxInt o.wty o.wk o.lut (w k) j))), (0 : FFlags))
    else mxaFloat o.fctl (elem acc 32 j) (ks.map (fun k => (mxNum o.ty o.fctl a k, mxNum o.wty o.fctl (w k) j))))
  (rowOf 32 (es.map (·.1)), es.foldl (fun x e => x ||| e.2) 0)

/-- A row of mrd (R205): the layout of the latched format, zero beyond; i8 values for bpn. -/
def mrdRow (o : MxaOp) (r : Row) : Row :=
  match mxTy o.wty with
  | .bpn => rowOf 8 ((List.range 16).map (fun j => wrap 8 (bpnVal r o.wk j)))
  | .lut4 => BitVec.ofNat 512 (r.toNat % 2 ^ 64)
  | t => BitVec.ofNat 512 (r.toNat % 2 ^ (16 * t.tileWidth))

/-! ## Issue (R203-R206) -/

/-- An operation enters the queue in issue order (R196). -/
def State.mxaIssue (s : State) (w : Who) (o : MxaOp) : State :=
  s.setLive w.core { s.live w.core with queue := (s.live w.core).queue ++ [o] }

/-- The number of the next operation: above every one in the array. -/
def CoreCtx.mxaSeq (l : CoreCtx) : Nat := 1 + (l.held.map (·.seq)).foldl max ((l.queue.map (·.seq)).foldl max 0)

/-- An operation with what it captures at issue (R73, R97, R204). -/
def State.mxaOp (s : State) (w : Who) (kind : MxaKind) (slot : Bool) (ty : Ty) (k : Nat) : MxaOp :=
  let st := s.strand w
  let p := st.planeOf slot
  let sl := (s.live w.core).slotOf p
  { seq := (s.live w.core).mxaSeq, kind := kind, plane := p, slot := slot.toNat, strand := w.strand, birth := st.birth, job := st.job,
    pc := st.pc, d := none, a := none, c := none,
    ty := ty, k := k, wty := sl.ty, wk := sl.k,
    rows := BitVec.ofNat 16 ((List.range 16).foldl (fun x i => if st.rowActive i then x + 2 ^ i else x) 0),
    fctl := st.fctl, lut := (s.live w.core).lut, started := false }

/-- The tag of a tile cleared at issue (R92). -/
def State.clearTag (s : State) (w : Who) (t : Tile) : State :=
  match (s.strand w).poolTile t with
  | some pt => s.setLive w.core ((s.live w.core).setTag pt 0)
  | none => s

def execMldw (f : Form) (ty : Ty) (k : BitVec 4) (slot : Bool) (a : Tile) (s : State) : Host.Outcome State Fault Refusal :=
  let feat : List Opnd := if ty = .bpn then [.feat 0] else if ty = .lut4 then [.feat 1] else []
  runInstr f (feat ++ [.slot slot, .tname a, .mxq]) (fun s w =>
    let p := (s.strand w).planeOf slot
    let o := { s.mxaOp w .ldw slot ty k.toNat with a := (s.strand w).poolTile a }
    let l := s.live w.core
    let s1 := s.setLive w.core (l.setSlot p { l.slotOf p with loaded := true, ty := ty, k := k.toNat })
    done (s1.mxaIssue w o) 48) s

def execMstrm (f : Form) (ty : Ty) (slot : Bool) (d a : Tile) (c : Option Tile) (s : State) :
    Host.Outcome State Fault Refusal :=
  let w := s.cur
  let sl := (s.live w.core).slotOf ((s.strand w).planeOf slot)
  let feat : List Opnd := (if ty = .lut4 then [.feat 1] else []) ++
    (if sl.loaded && sl.ty == .bpn then [.feat 0] else [])
  let acc : List Opnd := match c with
    | some t => [.tname t]
    | none => []
  runInstr f (feat ++ acc ++ [.slot slot, .tname d, .tname a, .mxq] ++ shapeOps ++ fctlOps (!mxIsInt ty)) (fun s w =>
    let st := s.strand w
    let sl := (s.live w.core).slotOf (st.planeOf slot)
    if !sl.loaded || !mxPair sl.ty ty then .error .illop
    else
      let o := { s.mxaOp w .strm slot ty 0 with
        d := st.poolTile d, a := st.poolTile a, c := c.bind st.poolTile }
      done ((s.clearTag w d).mxaIssue w o) 96) s

def execMrd (f : Form) (slot : Bool) (d : Tile) (s : State) : Host.Outcome State Fault Refusal :=
  runInstr f [.slot slot, .tname d, .mxq] (fun s w =>
    if !((s.live w.core).slotOf ((s.strand w).planeOf slot)).loaded then .error .illop
    else
      let o := { s.mxaOp w .rd slot .i64 0 with d := (s.strand w).poolTile d }
      done ((s.clearTag w d).mxaIssue w o) 48) s

def execMclr (f : Form) (slot : Bool) (s : State) : Host.Outcome State Fault Refusal :=
  runInstr f [.slot slot, .mxq] (fun s w =>
    let p := (s.strand w).planeOf slot
    let o := s.mxaOp w .clr slot .i64 0
    let l := s.live w.core
    let s1 := s.setLive w.core (l.setSlot p { l.slotOf p with loaded := false, ty := .i64, k := 0 })
    done (s1.mxaIssue w o) 16) s

/-! ## Start and finish (R196-R199) -/

/-- The load unit's operations. -/
def MxaOp.loads (o : MxaOp) : Bool := o.kind != .strm

/-- Tiles an operation reads, and the one it writes. -/
def MxaOp.readsTile (o : MxaOp) (t : Nat) : Bool := o.a == some t || o.c == some t
def MxaOp.clash (e o : MxaOp) : Bool :=
  (match e.d with | some t => o.readsTile t || o.d == some t | none => false) ||
  (match o.d with | some t => e.readsTile t | none => false)

/-- Operation n of the queue may start (R196, R197). -/
def mxaMayStart (q : List MxaOp) (n : Nat) : Bool :=
  match q[n]? with
  | none => false
  | some o =>
    let earlier := q.take n
    !o.started &&
    (if o.loads then
      q.all (fun e => !(e.loads && e.started)) && earlier.all (fun e => e.plane != o.plane)
    else
      earlier.all (fun e => !(e.loads && e.plane == o.plane)) && earlier.all (fun e => e.loads || e.started)) &&
    earlier.all (fun e => e.started || !e.clash o)

/-- The plane that an operation reads, or a row of one of its source tiles, has an uncorrectable error (R200). -/
def CoreCtx.planeBad (l : CoreCtx) (o : MxaOp) : Bool := l.perr.contains (.plane o.plane)
def CoreCtx.rowBad (l : CoreCtx) (o : MxaOp) (i : Nat) : Bool :=
  l.perr.any (fun e => match e with
    | .tile t r => o.readsTile t && r == i
    | _ => false)

/-- Errors of the core's storage that a write of it whole has ended (R407). -/
def CoreCtx.mend (l : CoreCtx) (es : List PErr) : CoreCtx := { l with perr := l.perr.filter (fun e => !es.contains e) }

/-- What has come of an operation: the rows it completed, its flags, and whether it met an error. -/
structure MxaEnd where
  rows  : Nat
  flags : FFlags
  bad   : Bool

/-- A load of weights (R203): every weight is zero once a row that it reads is in error: its bits are zero, also in the formats where
zero bits are the code of another value (DESIGN CHOICE, assumption 84). -/
def CoreCtx.mxaLoad (l : CoreCtx) (o : MxaOp) : CoreCtx × MxaEnd :=
  let bad := (List.range 16).any (l.rowBad o)
  let ws := (List.range 16).map (fun k => (k, match o.a with | some t => l.tileRow t k | none => 0))
  ((l.setSlot o.plane { l.slotOf o.plane with weights := if bad then [] else ws }).mend [.plane o.plane], ⟨0, 0, bad⟩)

/-- A read back (R205). The spec does not say what it leaves in a tile once the slot is in error: every row keeps its value
(DESIGN CHOICE, assumption 56). -/
def CoreCtx.mxaBack (l : CoreCtx) (o : MxaOp) : CoreCtx × MxaEnd :=
  match o.d with
  | some t =>
    if l.planeBad o then (l, ⟨0, 0, true⟩)
    else
      let ws := (l.slotOf o.plane).weights
      ((l.setRows t 0 ((List.range 16).map (fun k => mrdRow o (AMap.get 0 ws k)))).mend ((List.range 16).map (.tile t)), ⟨16, 0, false⟩)
  | none => (l, ⟨0, 0, false⟩)

/-- The active rows of a stream in ascending order, up to the first that reads an error: the rows before it are written (R204,
R207). -/
def CoreCtx.mxaRows (o : MxaOp) (t : Nat) (x : CoreCtx × MxaEnd) (i : Nat) : CoreCtx × MxaEnd :=
  if !o.rows.getLsbD i || x.2.bad then x
  else if x.1.planeBad o || x.1.rowBad o i then (x.1, { x.2 with bad := true })
  else
    let acc := match o.c with | some c => x.1.tileRow c i | none => 0
    let a := match o.a with | some a => x.1.tileRow a i | none => 0
    let (r, fl) := mxaRow o (AMap.get 0 (x.1.slotOf o.plane).weights) acc a
    ((x.1.setTileRow t i r).mend [.tile t i], { x.2 with rows := x.2.rows + 1, flags := x.2.flags ||| fl })

/-- The effect of an operation on the slots and tiles (R203-R206). -/
def CoreCtx.mxaPerform (l : CoreCtx) (o : MxaOp) : CoreCtx × MxaEnd :=
  match o.kind with
  | .ldw => l.mxaLoad o
  | .clr => ((l.setSlot o.plane { l.slotOf o.plane with weights := [] }).mend [.plane o.plane], ⟨0, 0, false⟩)
  | .rd => l.mxaBack o
  | .strm =>
    match o.d with
    | some t => (List.range 16).foldl (CoreCtx.mxaRows o t) (l, ⟨0, 0, false⟩)
    | none => (l, ⟨0, 0, false⟩)

/-- A record put at its place in issue order (R207). -/
def insHeld (h : MxaHeld) : List MxaHeld → List MxaHeld
  | [] => [h]
  | e :: t => if e.seq < h.seq then e :: insHeld h t else h :: e :: t

/-- The strand that issued an operation runs still: flags of an exited one are discarded (R133, R200). -/
def CoreCtx.issuer (l : CoreCtx) (o : MxaOp) : Bool := (l.strand o.strand).birth == o.birth && (l.strand o.strand).run == .running

/-- Operation n starts and performs; what it leaves for mwait is held (R99, R200). A stream with no active row finishes at once
(R199). The spec names kind 8 and the active rows for a stream; the error of an mldw or mrd has kind 8 and 16 rows too (DESIGN
CHOICE, assumption 56). -/
def CoreCtx.mxaStart (l : CoreCtx) (n : Nat) : CoreCtx :=
  match l.queue[n]? with
  | none => l
  | some o =>
    if !mxaMayStart l.queue n then l
    else
      let (l1, e) := l.mxaPerform o
      let active := (List.range 16).foldl (fun x i => if o.rows.getLsbD i then x + 1 else x) 0
      let fl := if l.issuer o then e.flags else 0
      let rec_ : MxaHeld := { seq := o.seq, strand := o.strand, birth := o.birth, job := o.job, slot := o.slot, flags := fl, fctl := o.fctl,
                              err := if e.bad then some (o.pc, e.rows, if o.kind = .strm then active else 16) else none }
      { l1 with
        queue := if o.kind = .strm ∧ o.rows = 0 then l1.queue.eraseIdx n else l1.queue.set n { o with started := true }
        held := if fl = 0 ∧ !e.bad then l1.held else insHeld rec_ l1.held }

/-- Operation n may finish: it has started, and the stream unit writes its results in order (R196). -/
def mxaMayFinish (q : List MxaOp) (n : Nat) : Bool :=
  match q[n]? with
  | none => false
  | some o => o.started && (o.loads || (q.take n).all (fun e => e.loads))

/-- The operations of a strand within a cover (R207): 0 all, 1 slot 0, 2 slot 1. Those of a strand that had the place before are
none of them (R200). -/
def State.inCover (s : State) (w : Who) (cover strand birth slot : Nat) : Bool :=
  strand == w.strand && birth == (s.strand w).birth && (cover == 0 || slot + 1 == cover)

/-- mwait with its covered operations finished (R207). The address of the operation in error stands in VA: R207 names no field for it
(DESIGN CHOICE, assumption 69). -/
def State.collect (s : State) (w : Who) (cover : Nat) : Except Trap State :=
  let l := s.live w.core
  let mine (h : MxaHeld) : Bool := s.inCover w cover h.strand h.birth h.slot
  match l.held.find? (fun h => mine h && h.err.isSome) with
  | some h =>
    match h.err with
    | some (pc, rows, act) =>
      .error { code := .ecc, cause := 30, va := pc, kind := 8, prog1 := BitVec.ofNat 64 rows,
               prog2 := BitVec.ofNat 64 act }
    | none => .ok s
  | none =>
    let fl := (l.held.filter mine).foldl (fun x h => x ||| h.flags) (0 : FFlags)
    if l.held.any (fun h => mine h && h.flags &&& fctlTraps h.fctl != 0) then .error { code := .fpe, info := fl.toNat }
    else .ok ((s.setLive w.core { l with held := l.held.filter (fun h => !mine h) }).raise w fl)

/-- What a trap of mwait takes out of the array: the first error, or every held flag of the cover (R207). -/
def State.collected (s : State) (w : Who) (cover : Nat) : State :=
  let l := s.live w.core
  let mine (h : MxaHeld) : Bool := s.inCover w cover h.strand h.birth h.slot
  match l.held.findIdx? (fun h => mine h && h.err.isSome) with
  | some i => s.setLive w.core { l with held := l.held.set i { l.held.getD i ⟨0, 0, 0, none, 0, 0, 0, none⟩ with err := none } }
  | none => s.setLive w.core { l with held := l.held.filter (fun h => !mine h) }

/-- A covered operation has not finished. -/
def State.mxaBusy (s : State) (w : Who) (cover : Nat) : Bool :=
  (s.live w.core).queue.any (fun o => s.inCover w cover o.strand o.birth o.slot)

/-- The end of mwait: it retires, or traps with what it collected discarded from the array. -/
def State.mwaitDone (s : State) (w : Who) (cover len : Nat) : Host.Outcome State Fault Refusal :=
  let pc := (s.strand w).pc
  match s.collect w cover with
  | .error t => (s.collected w cover).takeTrap w t pc (pc + BitVec.ofNat 64 len)
  | .ok s1 => .next (s1.finish w len 1)

/-- mwait (R207): it waits for the operations of its cover, then collects. -/
def execMwait (f : Form) (cover : BitVec 2) (s : State) : Host.Outcome State Fault Refusal :=
  let w := s.cur
  if (s.strand w).guard f && !s.mxaBusy w cover.toNat &&
      !(f.pg != 0 && (s.live w.core).perr.contains (.pred w.strand)) then
    issued w (s.mwaitDone w cover.toNat (lenBytes f.len))
  else
    runInstr f [] (fun s w =>
      .ok (.hold (s.waiting w { mkWait .mwait false (lenBytes f.len) 1 with obj := BitVec.ofNat 64 cover.toNat }))) s

end Sys2Proof.Machine
end

