-- ==== Sys2Proof/Machine/Keyring.lean ====
section
/-!
DEFINITION. The keyring: pools, holdings, the Tumbler's test and cycle, and its instructions (R282-R297).
-/
namespace Sys2Proof.Machine

/-! ## Counts and the request word (R282, R286) -/

/-- The four pools (R282). -/
def Counts.pool : Counts := ⟨8, 32, 48, 2⟩
def Counts.add (a b : Counts) : Counts := ⟨a.reg + b.reg, a.tile + b.tile, a.lmg + b.lmg, a.mxs + b.mxs⟩
def Counts.sub (a b : Counts) : Counts := ⟨a.reg - b.reg, a.tile - b.tile, a.lmg - b.lmg, a.mxs - b.mxs⟩
/-- A comparison that holds for all four types (R288). -/
def Counts.le (a b : Counts) : Bool := decide (a.reg ≤ b.reg ∧ a.tile ≤ b.tile ∧ a.lmg ≤ b.lmg ∧ a.mxs ≤ b.mxs)

/-- The counts of a request word (R286). -/
def reqCounts (v : Word) : Counts := ⟨bits v 1 0, bits v 12 8, bits v 21 16, bits v 25 24⟩
/-- A request word is in form (R286). -/
def reqOk (v : Word) : Bool :=
  bits v 63 26 == 0 && bits v 23 22 == 0 && bits v 15 13 == 0 && bits v 7 2 == 0 &&
  decide (bits v 25 24 ≤ 2 ∧ bits v 21 16 ≤ 48 ∧ bits v 12 8 ≤ 16)
/-- Counts in the layout of a request word. -/
def Counts.word (c : Counts) : Word := BitVec.ofNat 64 (c.reg + 2 ^ 8 * c.tile + 2 ^ 16 * c.lmg + 2 ^ 24 * c.mxs)

def Holdings.counts (h : Holdings) : Counts := ⟨h.reg.length, h.tile.length, h.lmg.length, h.mxs.length⟩
def Holdings.of (h : Holdings) : Res → List Nat
  | .reg => h.reg | .tile => h.tile | .lmg => h.lmg | .mxs => h.mxs
def Holdings.with (h : Holdings) (r : Res) (l : List Nat) : Holdings :=
  match r with
  | .reg => { h with reg := l } | .tile => { h with tile := l } | .lmg => { h with lmg := l } | .mxs => { h with mxs := l }

/-! ## The pools of a core (R282, R288) -/

/-- The strands' claims and holdings. -/
def CoreCtx.claimOf (l : CoreCtx) (n : Nat) : Counts := (l.strand n).claim
def CoreCtx.holdOf (l : CoreCtx) (n : Nat) : Counts := (l.strand n).hold.counts

/-- Units that are granted, in Limbo, or kept for a stopped kernel. -/
def CoreCtx.taken (l : CoreCtx) (r : Res) : List Nat :=
  (List.range 4).foldl (fun acc n => acc ++ (l.strand n).hold.of r)
    ((l.limbo.filter (fun u => u.1 == r)).map (·.2) ++ (l.kept.filter (fun u => u.2.1 == r)).map (·.2.2))
/-- Every unit of a type, in the order in which grants take them (R282). -/
def unitsOfRes : Res → List Nat
  | .reg => (List.range 8).map (· + 4)
  | .tile => List.range 32
  | .lmg => (List.range 48).reverse
  | .mxs => List.range 2
/-- Units granted to no strand and usable now. -/
def CoreCtx.free (l : CoreCtx) (r : Res) : List Nat := (unitsOfRes r).filter (fun u => !(l.taken r).contains u)
def CoreCtx.freeCounts (l : CoreCtx) : Counts :=
  ⟨(l.free .reg).length, (l.free .tile).length, (l.free .lmg).length, (l.free .mxs).length⟩
def CoreCtx.limboCounts (l : CoreCtx) : Counts :=
  let n (r : Res) : Nat := (l.limbo.filter (fun u => u.1 == r)).length
  ⟨n .reg, n .tile, n .lmg, n .mxs⟩

/-! ## The Tumbler's test (R288) -/

/-- A pass over the strands: those whose need fits Work finish and return what they hold. -/
def safePass (need hold : Nat → Counts) (x : Counts × List Nat) : Counts × List Nat :=
  (List.range 4).foldl (fun y k =>
    if !y.2.contains k && (need k).le y.1 then (y.1.add (hold k), k :: y.2) else y) x

/-- Units kept for a stopped kernel: they come back whatever the strands do, as those of Limbo do. -/
def CoreCtx.keptCounts (l : CoreCtx) : Counts :=
  let n (r : Res) : Nat := (l.kept.filter (fun u => u.2.1 == r)).length
  ⟨n .reg, n .tile, n .lmg, n .mxs⟩

/-- Safe: every strand can finish in some order. Four passes suffice, since each pass that finishes none is the last. What a stopped
kernel's strands held stays theirs until it is serviced (R260), and is available as Limbo is: so no new strand makes the state
unsafe (R287). -/
def CoreCtx.safe (l : CoreCtx) (f : Counts) (hold : Nat → Counts) : Bool :=
  let need (k : Nat) : Counts := (l.claimOf k).sub (hold k)
  let x0 : Counts × List Nat := ((f.add l.limboCounts).add l.keptCounts, [])
  ((List.range 4).foldl (fun x _ => safePass need hold x) x0).2.length == 4

/-- Evaluate: 0 grantable, 1 short, 2 unsafe, 3 over claim. -/
def CoreCtx.evaluate (l : CoreCtx) (i : Nat) (req : Counts) : Nat :=
  let after := (l.holdOf i).add req
  if !after.le (l.claimOf i) then 3
  else if !req.le l.freeCounts then 1
  else if !l.safe (l.freeCounts.sub req) (fun k => if k = i then after else l.holdOf k) then 2
  else 0

/-! ## Grants (R283, R285, R289) -/

/-- The registers of granted blocks read zero. -/
def CoreCtx.zeroBlocks (l : CoreCtx) (bs : List Nat) : CoreCtx :=
  { l with regs := l.regs.filter (fun e => !bs.contains (e.1 / 16))
           perr := l.perr.filter (fun e => match e with | .reg n => !bs.contains (n / 16) | _ => true) }

/-- Units of one type granted to a strand. -/
def CoreCtx.grantRes (l : CoreCtx) (i : Nat) (r : Res) (n : Nat) : CoreCtx :=
  let us := (l.free r).take n
  let st := l.strand i
  let l1 := l.setStrand i { st with hold := st.hold.with r (st.hold.of r ++ us) }
  match r with
  | .reg => l1.zeroBlocks us
  | .mxs => us.foldl (fun acc p => acc.setSlot p MxaSlot.empty) l1
  | _ => l1

def CoreCtx.grant (l : CoreCtx) (i : Nat) (c : Counts) : CoreCtx :=
  (((l.grantRes i .reg c.reg).grantRes i .tile c.tile).grantRes i .lmg c.lmg).grantRes i .mxs c.mxs

/-- The array still holds a unit: a tile under a lock bit, a slot that an issued operation names (R291). -/
def CoreCtx.arrayHolds (l : CoreCtx) (u : Res × Nat) : Bool :=
  match u.1 with
  | .tile => l.rl u.2 || l.wl u.2
  | .mxs => l.queue.any (fun o => o.plane == u.2)
  | _ => false

/-- Step 1 of R289: units the array has let go of become free; a slot becomes EMPTY. -/
def CoreCtx.settle (l : CoreCtx) : CoreCtx :=
  let gone := l.limbo.filter (fun u => !l.arrayHolds u)
  let l1 : CoreCtx := { l with limbo := l.limbo.filter l.arrayHolds }
  gone.foldl (fun acc u => if u.1 = .mxs then acc.setSlot u.2 MxaSlot.empty else acc) l1

/-- A waiting kacq is granted and retires (R289, R295). -/
def State.grantWaiting (s : State) (core : Nat) (q : KReq) : State :=
  let l := s.live core
  let w : Who := ⟨core, q.strand⟩
  let l1 := { l with kqueue := l.kqueue.filter (fun e => e.strand != q.strand) }
  let s1 := s.setLive core (l1.grant q.strand q.req)
  match (s.strand w).wait with
  | some v => (s1.setReg w v.d ((s1.live core).holdOf q.strand).word).finish w v.len v.eu
  | none => s1

/-- Steps 1 and 2 of R289, which the Tumbler takes in each cycle; with nothing in Limbo and no request it changes nothing. -/
def State.tumble (s : State) (core : Nat) : State :=
  if (s.live core).limbo = [] ∧ (s.live core).kqueue = [] then s else
  let s1 := s.setLive core (s.live core).settle
  (s1.live core).kqueue.foldl (fun acc q =>
    if (acc.live core).evaluate q.strand q.req = 0 then acc.grantWaiting core q else acc) s1

def execTumblerCycle (core : Nat) (s : State) : Host.Outcome State Fault Refusal :=
  .next (if (s.core core).st = .active then (s.tumble core).wake else s)

/-! ## Release (R292, R296) -/

/-- The last n units of each list. -/
def Holdings.last (h : Holdings) (c : Counts) : Holdings :=
  ⟨h.reg.drop (h.reg.length - c.reg), h.tile.drop (h.tile.length - c.tile), h.lmg.drop (h.lmg.length - c.lmg),
   h.mxs.drop (h.mxs.length - c.mxs)⟩
def Holdings.front (h : Holdings) (c : Counts) : Holdings :=
  ⟨h.reg.take (h.reg.length - c.reg), h.tile.take (h.tile.length - c.tile), h.lmg.take (h.lmg.length - c.lmg),
   h.mxs.take (h.mxs.length - c.mxs)⟩
def Holdings.units (h : Holdings) : List (Res × Nat) :=
  h.reg.map (fun u => (Res.reg, u)) ++ h.tile.map (fun u => (Res.tile, u)) ++ h.lmg.map (fun u => (Res.lmg, u)) ++
  h.mxs.map (fun u => (Res.mxs, u))

/-- Units leave a strand's lists and enter Limbo. -/
def CoreCtx.release (l : CoreCtx) (i : Nat) (c : Counts) : CoreCtx :=
  let st := l.strand i
  { l.setStrand i { st with hold := st.hold.front c } with limbo := l.limbo ++ (st.hold.last c).units }

/-- A load still to write a register of a block that goes, or an access still to perform on a granule that goes. -/
def State.relWaits (s : State) (w : Who) (c : Counts) : Bool :=
  let st := s.strand w
  let h := st.hold.last c
  let lowest := 16 + 16 * (st.hold.reg.length - c.reg)
  let touches (f n : Nat) : Bool := h.lmg.any (fun g => overlap f n (lmFlat w.core (0x1000 * g)) 0x1000)
  (decide (0 < c.reg) && st.loads.any (fun l => decide (lowest < l.d.toNat + max 1 l.n))) ||
  st.loads.any (fun l => touches l.flat l.bytes) || (s.mine w).any (fun e => !e.2.landed && touches e.2.flat e.2.bytes)

/-! ## Instructions (R293-R297); class 7, 16 eu -/

/-- A request word, or ILLOP. -/
def withReq (v : Word) (go : Counts → Except Trap Ans) : Except Trap Ans :=
  if reqOk v then go (reqCounts v) else .error .illop

def execKdecl (f : Form) (a : Reg) (s : State) : Host.Outcome State Fault Refusal :=
  runInstr f [.src a] (fun s w => withReq (s.reg w a) (fun c =>
    let st := s.strand w
    if st.hold.counts ≠ Counts.zero ∨ !c.le Counts.pool then .error { code := .claim }
    else done (s.setStrand w { st with claim := c }) 16)) s

def execKacq (f : Form) (d a : Reg) (s : State) : Host.Outcome State Fault Refusal :=
  runInstr f [.dst d, .src a] (fun s w => withReq (s.reg w a) (fun c =>
    let s1 := s.tumble w.core
    match (s1.live w.core).evaluate w.strand c with
    | 3 => .error { code := .claim }
    | 0 =>
      let s2 := s1.setLive w.core ((s1.live w.core).grant w.strand c)
      done (s2.setReg w d ((s2.live w.core).holdOf w.strand).word) 16
    | _ =>
      let l := s1.live w.core
      let s2 := s1.setLive w.core { l with kqueue := l.kqueue ++ [⟨w.strand, c⟩] }
      .ok (.hold (s2.waiting w { mkWait .kacq false (lenBytes f.len) 16 with d := d })))) s

def execKtry (f : Form) (d a : Reg) (s : State) : Host.Outcome State Fault Refusal :=
  runInstr f [.dst d, .src a] (fun s w => withReq (s.reg w a) (fun c =>
    let s1 := s.tumble w.core
    let code := (s1.live w.core).evaluate w.strand c
    let s2 := if code = 0 then s1.setLive w.core ((s1.live w.core).grant w.strand c) else s1
    done (s2.setReg w d (BitVec.ofNat 64 code)) 16)) s

def execKrel (f : Form) (a : Reg) (s : State) : Host.Outcome State Fault Refusal :=
  runInstr f [.src a] (fun s w => withReq (s.reg w a) (fun c =>
    if !c.le (s.strand w).hold.counts then .error { code := .claim }
    else if s.relWaits w c then s.holdBack w .operand
    else done (s.setLive w.core ((s.live w.core).release w.strand c)) 16)) s

/-- The value q selects (R297). -/
def kqueryVal (s : State) (w : Who) (q : Nat) : Word :=
  let st := s.strand w
  if q = 0 then st.hold.counts.word
  else if q = 1 then st.claim.word
  else if q = 2 then (s.live w.core).freeCounts.word
  else BitVec.ofNat 64 (s.live w.core).kqueue.length

def execKquery (f : Form) (d : Reg) (q : BitVec 6) (s : State) : Host.Outcome State Fault Refusal :=
  runInstr f [.dst d] (fun s w => done (s.setReg w d (kqueryVal s w q.toNat)) 16) s

end Sys2Proof.Machine
end

