-- ==== Sys2Proof/Machine/Inbox.lean ====
section
/-!
DEFINITION. Messages and inboxes, and the messages and stores of the spill queue that come back to a core (R230-R232,
R344-R348).
-/
namespace Sys2Proof.Machine

/-! ## Entries of the spill queue (R230-R232) -/

/-- The numbers of a context's entries for a core that have not been redelivered, in queue order: messages, or stores. -/
def State.sqPending (s : State) (ctx core : Nat) (msgs : Bool) : List Nat :=
  ((List.range (s.sqTail ctx - s.sqHead ctx)).map (· + s.sqHead ctx)).filter (fun n =>
    let w0 := s.readW (s.sqAddr ctx n)
    !(s.ctxRec ctx).redone.contains n && (bits w0 7 0 == 3) == msgs && coreAt (bits w0 23 16) (bits w0 30 24) == core)

/-- SQHEAD passes the entries that have been redelivered. -/
def State.sqAdvance (s : State) (ctx : Nat) : Nat → State
  | 0 => s
  | k + 1 =>
    let c := s.ctxRec ctx
    let h := s.sqHead ctx
    if c.redone.contains h then
      let s1 := s.write (c.desc + 0x90) 8 (h + 1)
      State.sqAdvance { s1 with contexts := AMap.put s1.contexts ctx { c with redone := c.redone.filter (fun n => n != h) } } ctx k
    else s

/-- Entry n has been redelivered. -/
def State.sqDone (s : State) (ctx n : Nat) : State :=
  let c := s.ctxRec ctx
  State.sqAdvance { s with contexts := AMap.put s.contexts ctx { c with redone := n :: c.redone } } ctx (c.redone.length + 1)

/-! ## The inbox of a core (R344) -/

/-- The source word of a message. -/
def sourceWord (m core : Nat) : Word := BitVec.ofNat 64 (2 ^ 63 + 2 ^ 32 * m + 2 ^ 8 * coreY core + coreX core)

/-- The message of a spill entry. -/
def State.sqMsg (s : State) (ctx n : Nat) : Msg :=
  let a := s.sqAddr ctx n
  { data := BitVec.ofNat 512 (s.read (a + 64) 64)
    src := BitVec.ofNat 64 (2 ^ 63 + 2 ^ 32 * bits (s.readW (a + 8)) 63 48 + bits (s.readW a) 46 32)
    points := (s.spillOf ctx n).points }

/-- Messages of the spill queue enter the inbox while it has free places (R232). -/
def State.fillInbox (s : State) (ctx core : Nat) : Nat → State
  | 0 => s
  | k + 1 =>
    let l := s.live core
    match s.sqPending ctx core true with
    | [] => s
    | n :: _ =>
      if l.inbox.length < 16 then
        ((s.setLive core { l with inbox := l.inbox ++ [s.sqMsg ctx n] }).sqDone ctx n).fillInbox ctx core k
      else s

/-! ## msend (R346) -/

def execMsend (f : Form) (d a : Reg) (s : State) : Host.Outcome State Fault Refusal :=
  runInstr f (.mem :: .src a :: srcRange d 8) (fun s w =>
    let v := s.reg w a
    let m := bits v 47 32
    let target := coreAt (bits v 7 0) (bits v 14 8)
    let own := m = s.module_.toNat
    if ¬ own ∧ !s.modUp m then .error { code := .access, cause := 9 }
    else if own ∧ !s.inAllot (s.ctxOf w.core) target then .error { code := .access, cause := 33 }
    else
      let p := { s.packet w .msg (some (s.strand w).adaptive) with
        module_ := if own then none else some m, core := target, bytes := 64, data := s.regBlock w d 8 }
      let id := s.nextId
      .ok (.hold ((s.send w p).waiting w { mkWait .msend false (lenBytes f.len) 40 with obj := BitVec.ofNat 64 id }))) s

/-- The context that a message is for: the sender's own, or the one of the same gang for a message of another module. -/
def State.msgCtx (s : State) (p : Packet) : Option Nat :=
  if p.smodule = s.module_.toNat then some p.ctx
  else (s.contexts.find? (fun e => e.2.alive && s.ctxGang e.1 == p.gang && s.inAllot e.1 p.core)).map (·.1)

/-- The sender's side of an acceptance: its count falls, and the msend retires. -/
def State.msgSent (s : State) (id : Nat) (p : Packet) : State :=
  if p.smodule = s.module_.toNat then
    let s1 := s.ackPkt id p
    match (s1.strand p.src).wait with
    | some v => if v.kind = .msend then s1.finish p.src v.len v.eu else s1
    | none => s1
  else s.delPkt id

/-- The offers that wait for the same inbox and arrived before this one (R346). An offer that waits holds its number of
arrival in `hseq`. -/
def State.msgAhead (s : State) (p : Packet) : Bool :=
  s.net.any (fun e => e.2.kind == .msg && e.2.module_.isNone && e.2.core == p.core && s.msgCtx e.2 == s.msgCtx p &&
    e.2.hseq != 0 && (p.hseq == 0 || decide (e.2.hseq < p.hseq)))

/-- An offer with its number of arrival. -/
def State.msgNumber (s : State) (p : Packet) : Packet := if p.hseq = 0 then { p with hseq := s.nextId + 1 } else p

/-- An offer that has arrived waits in the order of arrival. -/
def State.msgQueue (s : State) (id : Nat) (p : Packet) : State :=
  if p.hseq ≠ 0 then s else { s.setPkt id (s.msgNumber p) with nextId := s.nextId + 1 }

/-- An offer is accepted at one instant, once the links of its path carry it: an inbox place, or a spill entry (R230, R232, R346). One
that waits for a spill queue whose page is not resident is reported (R162, R231). -/
def State.msgAccept (s : State) (id : Nat) : State :=
  match s.pkt id with
  | none => s
  | some p =>
    if p.kind ≠ .msg ∨ !s.carried p then s
    else if p.module_.isSome then (if p.module_.any s.wayUp then s.msgSent id p else s)
    else
      match s.msgCtx p with
      | none => s.delPkt id
      | some ctx =>
        if s.msgAhead p then s.msgQueue id p
        else if s.isActive ctx p.core && (s.sqPending ctx p.core true).isEmpty then
          let l := s.live p.core
          if l.inbox.length < 16 then
            ((s.farRelease p).setLive p.core { (s.farRelease p).live p.core with
              inbox := l.inbox ++ [⟨p.data, sourceWord p.smodule p.src.core, p.points⟩] }).msgSent id p
          else s.msgQueue id p
        else if s.sqAbsent ctx then
          if p.refused then s
          else ((s.msgQueue id p).setPkt id { s.msgNumber p with refused := true }).report (dieOf p.core) (p.report 1 2)
        else if s.sqFull ctx then
          if p.full then s else ((s.msgQueue id p).setPkt id { s.msgNumber p with full := true }).report (dieOf p.core) (p.report 19 0)
        else (s.divert ctx 0 64 p).msgSent id p

def execMsendAccept (pkt : Nat) (s : State) : Host.Outcome State Fault Refusal := .next (s.msgAccept pkt).wake

/-- The offer of a waiting msend is withdrawn (R159, R346). -/
def State.msgWithdraw (s : State) (w : Who) (id : Nat) : State :=
  match s.pkt id with
  | some p => match p.path with
    | some n => (s.delPkt id).packBack w n
    | none => s.delPkt id
  | none => s

/-- A refusal of the remote module returns over a link, or the module has failed: msend traps (R343, R346). -/
def State.msgRefuse (s : State) (id cause : Nat) : Host.Outcome State Fault Refusal :=
  match s.pkt id with
  | none => .next s
  | some p =>
    if p.kind ≠ .msg ∨ p.module_.isNone ∨ !s.home p ∨ (cause = 10 ∧ !(s.carried p && p.module_.any s.wayUp)) then .next s
    else
      let w := p.src
      match s.waitOf w [.msend] with
      | none => .next s
      | some v =>
        let pc := (s.strand w).pc
        (s.msgWithdraw w id).takeTrap w { code := .access, cause := cause } pc (pc + BitVec.ofNat 64 v.len)

def execMsendRefused (pkt : Nat) (s : State) : Host.Outcome State Fault Refusal := wakeAfter (s.msgRefuse pkt 10)

/-! ## mrecv (R347) -/

/-- Message n of the inbox into registers d to d + 7 and its source word into a; a spill-queue message takes a place. The strand has
read what its sender wrote (R348). -/
def State.takeMsg (s : State) (w : Who) (d a : Reg) (n : Nat) : State :=
  let l := s.live w.core
  match l.inbox[n]? with
  | none => s
  | some m =>
    let s1 := ((s.setLive w.core { l with inbox := l.inbox.eraseIdx n }).learnIds w m.points).fillInbox (s.ctxOf w.core) w.core 16
    (s1.setRegs w d.toNat ((List.range 8).map (fun k => BitVec.ofNat 64 (m.data.toNat / 2 ^ (64 * k))))).setReg w a m.src

/-- Strands of a core that wait in mrecv, each with the order in which it issued. -/
def CoreCtx.receivers (l : CoreCtx) : List (Nat × Nat) :=
  l.strands.filterMap (fun e => match e.2.wait with
    | some v => if v.kind = .inbox then some (e.1, v.gen.toNat) else none
    | none => none)

/-- The oldest message goes to the strand whose mrecv issued first (R347): an mrecv passes the messages of those that wait. -/
def execMrecv (f : Form) (try_ : Bool) (d a : Reg) (s : State) : Host.Outcome State Fault Refusal :=
  runInstr f (.dst a :: dstRange d 8) (fun s w =>
    let l := s.live w.core
    if l.receivers.length < l.inbox.length then done (s.takeMsg w d a l.receivers.length) 16
    else if try_ then done (s.setReg w a 0) 16
    else
      let s1 : State := { s with nextId := s.nextId + 1 }
      .ok (.hold (s1.waiting w { mkWait .inbox false (lenBytes f.len) 16 with
        d := d, obj := BitVec.ofNat 64 a.toNat, gen := BitVec.ofNat 64 s.nextId }))) s

/-- A message is present for the strand that has waited longest: it takes it (R347). -/
def execMrecvWaitEnd (core strand : Nat) (s : State) : Host.Outcome State Fault Refusal :=
  let w : Who := ⟨core, strand⟩
  match s.waitOf w [.inbox] with
  | none => .next s
  | some v =>
    let l := s.live core
    if l.inbox.isEmpty || l.receivers.any (fun e => decide (e.2 < v.gen.toNat)) then .next s
    else .next ((s.takeMsg w v.d (BitVec.ofNat 6 v.obj.toNat) 0).finish w v.len v.eu).wake

/-! ## Space in the spill queue (R231) -/

/-- An operation held for a full spill queue is written once space is free. -/
def execSpillQueueSpaceFree (pkt : Nat) (s : State) : Host.Outcome State Fault Refusal :=
  match s.pkt pkt with
  | none => .next s
  | some p =>
    if !p.full then .next s
    else if p.kind = .msg then .next (s.msgAccept pkt).wake
    else .next (s.storeArrive pkt false).wake

end Sys2Proof.Machine
end

