-- ==== Sys2Proof/Machine/Page.lean ====
section
/-!
DEFINITION. The exchange of live and shadow frames, and latch, ptprobe and tlbinv (R215, R321,
R328-R332).
-/
namespace Sys2Proof.Machine

/-! ## The exchange of live and shadow words (R321) -/

/-- The live and shadow words of a page change places in every replica; SW clears in the word that becomes the shadow word. -/
def State.swapPage (s : State) (slot z : Nat) : State :=
  (List.range (replicas z)).foldl (fun acc i =>
    let a := slot + 8 * i
    let live := acc.readW a
    let sh := acc.readW (a + 0x1000)
    (acc.write a 8 sh.toNat).write (a + 0x1000) 8 (setBits live 8 8 0).toNat) s

/-- Translations through a slot leave the cores that a test names, and the levels that cores share. -/
def State.dropSlot (s : State) (slot : Nat) (inS : Nat → Bool) : State :=
  { s with
    cores := AMap.mapVals s.cores (fun c core =>
      if inS c then { core with tlb := core.tlb.filter (fun t => t.slot != slot) } else core)
    clusterTlb := AMap.mapVals s.clusterTlb (fun _ l => l.filter (fun t => t.slot != slot))
    dieTlb := AMap.mapVals s.dieTlb (fun _ l => l.filter (fun t => t.1.slot != slot)) }

/-- The clusters that hold lines drop those of a range of bytes, for clusters with a core in a test; early readings of the range by
strands on such cores end. -/
def State.dropIn (s : State) (lo n : Nat) (inS : Nat → Bool) : State :=
  (s.caches.foldl (fun acc e =>
    if (List.range 16).any (fun k => inS (clusterCore e.1 k)) then
      e.2.foldl (fun acc l => if lo ≤ 64 * l.1 ∧ 64 * l.1 < lo + n then acc.dropLine e.1 l.1 else acc) acc
    else acc) s).mapEarly (fun w st =>
      if inS w.core then st.early.filter (fun e => !decide (lo < 64 * e.1 + 64 ∧ 64 * e.1 < lo + n)) else st.early)

/-- A pending load without a remote operation reads now, if it lies in a range: it translated before the swap and reads the frame
it translated to as it stands (R214, R215). -/
def State.readNow (s : State) (w : Who) (lo n k : Nat) : State :=
  match (s.strand w).loads[k]? with
  | some l =>
    if l.pkt.isNone && l.val.isNone && overlap l.flat l.bytes lo n then
      let ecc := s.eccCause (clusterOf w.core) l.flat l.bytes !l.sync
      let (v, s1) := match ecc with
        | some _ => (0, s)
        | none => s.loadAt w l.va l.place l.bytes
      let l1 : PLoad := { l with val := some (BitVec.ofNat 512 v), poison := ecc.getD 0 }
      s1.setStrand w { s1.strand w with loads := (s1.strand w).loads.set k l1 }
    else s
  | none => s

/-- Every access of a range that has translated and not performed performs now: pending loads, and operations on their way. -/
def State.readAllIn (s : State) (lo n : Nat) : State :=
  let s1 := s.cores.foldl (fun acc c => c.2.live.strands.foldl (fun acc e =>
    (List.range e.2.loads.length).foldl (fun acc k => acc.readNow ⟨c.1, e.1⟩ lo n k) acc) acc) s
  s1.net.foldl (fun acc e =>
    if e.2.landed || e.2.refused || isLm e.2.flat || !overlap e.2.flat e.2.bytes lo n then acc
    else match e.2.kind with
      | .load | .amo _ _ => acc.perform e.1 e.2
      | .store _ => (acc.landStore e.2).setPkt e.1 { e.2 with landed := true }
      | _ => acc) s1

/-- Reads of an LM page on their way that translated through a slot perform now; one at a core that does not run its context waits there
and performs as that core resumes, before any engine writes again. -/
def State.readAllSlot (s : State) (slot : Nat) : State :=
  s.net.foldl (fun acc e =>
    if e.2.landed || e.2.refused || !isLm e.2.flat || !pteV e.2.ent.entry || e.2.ent.slot != slot || !e.2.kind.isRead then acc
    else if acc.isActive e.2.ctx e.2.core then acc.perform e.1 e.2
    else acc.setPkt e.1 { e.2 with held := true }) s

/-- Pages, each a slot with its exponent, published at one instant for the cores inside a scope (R215, R321). -/
def State.latchPages (s : State) (pages : List (Nat × Nat)) (inS : Nat → Bool) : State :=
  pages.foldl (fun acc p =>
    let live := acc.readW p.1
    let sh := acc.shadowWord p.1
    let n := pageSize p.2
    let acc := ((acc.readAllIn (frameFlat live) n).readAllIn (frameFlat sh) n).readAllSlot p.1
    (((acc.dropIn (frameFlat live) n inS).dropIn (frameFlat sh) n inS).swapPage p.1 p.2).dropSlot p.1 inS) s

/-! ## latch (R330) -/

/-- The check of one page of the set. -/
def State.latchCheck (s : State) (w : Who) (va : Word) : Except Trap TlbEnt :=
  match s.translate w va .store .all with
  | .error t => .error { t with kind := 6 }
  | .ok x =>
    let bad (code : TCode) (cause : Nat) : Except Trap TlbEnt :=
      .error { code := code, cause := cause, va := va, kind := 6, level := x.ent.level, entry := x.ent.entry }
    if !pteSp x.ent.entry then bad .access 6
    else if (s.claimant x.ent.slot).isSome then bad .access 7
    else if s.shadowBad x.ent then bad .page 3
    else .ok x.ent

/-- The pages of a list of addresses, each once. -/
def State.latchSet (s : State) (w : Who) : List Word → Except Trap (List TlbEnt)
  | [] => .ok []
  | va :: t =>
    match s.latchCheck w va with
    | .error e => .error e
    | .ok p =>
      match s.latchSet w t with
      | .error e => .error e
      | .ok ps => .ok (if ps.any (fun q => q.slot == p.slot) then ps else p :: ps)

/-- An xfer of the core that writes a page has not completed (R215). -/
def CoreCtx.xferOn (l : CoreCtx) (p : TlbEnt) : Bool :=
  l.xfers.any (fun e => match e.2 with
    | some x => x.reaches p.base (pageSize p.z)
    | none => false)

def execLatch (f : Form) (a b e : Reg) (s : State) : Host.Outcome State Fault Refusal :=
  runInstr f [.mem, .src a, .src b, .scope e] (fun s w =>
    let n := (s.reg w b).toNat
    let at_ := s.reg w a
    if n = 0 ∨ 64 < n then .error .illop
    else if (match (s.strand w).kern with | some k => (s.kernel k).replay | none => false) then
      .error { code := .access, cause := 7, va := at_, kind := 6 }
    else if at_.toNat % 8 ≠ 0 then .error (.align at_)
    else
      match s.pieces w .load .all ((List.range n).map (fun k => (at_ + BitVec.ofNat 64 (8 * k), 8))) with
      | .error t => .error t
      | .ok ps =>
        if s.rowAway w ps then s.holdBack w .remote
        else if ps.any (fun p => s.mustWait w false p.at_.flat 8) then s.holdBack w .operand
        else
          match (s.useAll w ps).readRows w ps with
          | .error t => .error t
          | .ok (vs, s1) =>
            match s1.latchSet w (vs.map (BitVec.ofNat 64)) with
            | .error t => .error t
            | .ok set =>
              if set.any (s1.live w.core).xferOn || s1.relBusy w .bound (s1.scopeOf w e) then s.holdBack w .remote
              else
                let sc := s1.scopeOf w e
                done ((s1.publish w .bound sc).latchPages (set.map (fun p => (p.slot, p.z))) (sc.has w.core)) 16) s

/-! ## ptprobe (R331) -/

/-- The CAUSE that a load at an address would meet (R331). -/
def State.loadCause (s : State) (w : Who) (va : Word) (e : Word) (level slot z : Nat) : Nat :=
  let st := s.strand w
  let t : TlbEnt := { ctx := s.ctxOf w.core, base := va.toNat / pageSize z * pageSize z, z := z, entry := e,
                      level := level, slot := slot }
  match s.leafCause st.priv st.kern t va .load .all with
  | some c => c
  | none =>
    match leafTarget e (va.toNat - t.base) with
    | .lm c off => if c = w.core ∧ (lmPhys st.hold off).isNone then 8 else 0
    | _ => 0

def State.probe (s : State) (w : Who) (va : Word) (q : Nat) : Word :=
  match walk s (s.ctxOf w.core) va with
  | .stop c l e =>
    if q = 0 then (if c = 1 then 0 else stopEntry c e)
    else if q = 1 then 0
    else BitVec.ofNat 64 (c + 2 ^ 10 * l)
  | .leaf e l slot z =>
    if q = 0 then e
    else if q = 1 then (if pteSp e then s.shadowWord slot else 0)
    else
      let claim := match s.claimant slot with
        | none => 0
        | some k => if (s.strand w).kern = some k then 1 else 2
      BitVec.ofNat 64 (s.loadCause w va e l slot z + 2 ^ 8 * claim + 2 ^ 10 * l)

def execPtprobe (f : Form) (d a : Reg) (q : BitVec 6) (s : State) : Host.Outcome State Fault Refusal :=
  runInstr f [.dst d, .src a] (fun s w => done (s.setReg w d (s.probe w (s.reg w a) q.toNat)) 16) s

/-! ## tlbinv (R332) -/

/-- A cached translation that a tlbinv drops. -/
def tlbHit (ctxs : Nat → Bool) (va : Word) (n : Nat) (t : TlbEnt) : Bool :=
  ctxs t.ctx && (n == 0 || decide (t.base < va.toNat + n ∧ va.toNat < t.base + pageSize t.z))

/-- An access that used a translation of a set has not performed (R332). -/
def State.entsBusy (s : State) (hit : TlbEnt → Bool) : Bool :=
  let used (t : TlbEnt) : Bool := pteV t.entry && hit t
  s.net.any (fun e => used e.2.ent && !e.2.landed) ||
  s.cores.any (fun c => c.2.live.strands.any (fun x => x.2.loads.any (fun l => used l.ent && l.pkt.isNone && l.val.isNone)))

/-- Translations of a set leave every TLB of the module (R316, R332). -/
def State.dropEnts (s : State) (hit : TlbEnt → Bool) : State :=
  { s with
    cores := AMap.mapVals s.cores (fun _ c => { c with tlb := c.tlb.filter (fun t => !hit t) })
    clusterTlb := AMap.mapVals s.clusterTlb (fun _ l => l.filter (fun t => !hit t))
    dieTlb := AMap.mapVals s.dieTlb (fun _ l => l.filter (fun t => !hit t.1)) }

/-- tlbinv. R332 speaks of a CTXID of another partition: one that names no live context names nothing, and traps at no privilege (DESIGN
CHOICE, assumption 89). -/
def execTlbinv (f : Form) (d a b : Reg) (s : State) : Host.Outcome State Fault Refusal :=
  runInstr f ([.sys, .src a, .src b] ++ if d = 0 then [] else [.src d]) (fun s w =>
    let own := s.ctxOf w.core
    let id := bits (s.reg w d) 15 0
    let hv := (s.strand w).priv == .hv
    let ctxs : Nat → Bool :=
      if d = 0 then fun c => c == own
      else if id = 0xFFFF then fun c => hv || s.ctxPart c == s.ctxPart own
      else fun c => c == id
    if d ≠ 0 ∧ id ≠ 0xFFFF ∧ !hv ∧ (s.ctxRec id).alive ∧ s.ctxPart id ≠ s.ctxPart own then
      .error { code := .access, cause := 37, va := s.reg w a }
    else
      let hit := tlbHit ctxs (s.reg w a) (s.reg w b).toNat
      if s.entsBusy hit then s.holdBack w .remote else done (s.dropEnts hit) 16) s

end Sys2Proof.Machine
end

