-- ==== Sys2Proof/Machine/Slot.lean ====
section
/-!
DEFINITION. Save slots: the layout of a context's state on a core in HBM, written and read (R222, R233-R236, R302, R326, R357).
-/
namespace Sys2Proof.Machine

/-! ## Registers by selector and by place (R47) -/

/-- The reserved bits of a selector's register (R11, R94, R96, R103, R105). -/
def statusReserved (sel : Nat) : Word :=
  match sel with
  | 0x00 => 0xFFFFFFFFFFFFFE08
  | 0x01 => 0xFFFFFFFFFFFFFFE0
  | 0x02 | 0x03 | 0x12 => 0xFFFFFFFFFFFF0000
  | 0x10 => 0xFFC0000000000000
  | 0x15 => 0xFFFF000000000000
  | 0x16 => 0xFFFFFFFFFFFFFFFE
  | 0x23 => 0xFFFFFFFF00000000
  | _ => 0

/-- A loop register by its place in a level: 0 start, 1 end, 2 count. -/
def LoopRegs.get (r : LoopRegs) (k : Nat) : Word := if k = 0 then r.start else if k = 1 then r.stop else r.count
def LoopRegs.set (r : LoopRegs) (k : Nat) (v : Word) : LoopRegs :=
  if k = 0 then { r with start := v } else if k = 1 then { r with stop := v } else { r with count := v }

def CoreCtx.hslot (l : CoreCtx) (k : Nat) : HSlot := AMap.get HSlot.closed l.hslots k

/-! ## Slots and their fields (R233-R236) -/

/-- Physical base of the slot of a core of a context (R234). -/
def State.slotBase (s : State) (ctx core : Nat) : Nat :=
  let d := dieOf core
  let r := s.allot ctx d
  let w := field r 23 16 + 1 - field r 7 0
  (s.descW ctx (0x40 + 8 * d)).toNat + 0x40000 * (w * (coreY core - field r 15 8) + (coreX core - field r 7 0))

def slotBytes : Nat := 0x40000
def lmImageBytes : Nat := 0x30000

/-- A field of a save slot: its offset, its bytes, its reserved bits, how it is taken from a context's state and put there. -/
structure SlotField where
  off : Nat
  n   : Nat
  res : Nat
  get : CoreCtx → Nat
  set : CoreCtx → Nat → CoreCtx

/-- A field of the record of a strand (R235). -/
def strandField (k off n res : Nat) (g : Strand → Nat) (f : Strand → Nat → Strand) : SlotField :=
  { off := 0x30000 + 0x400 * k + off, n := n, res := res, get := fun l => g (l.strand k),
    set := fun l v => l.setStrand k (f (l.strand k) v) }

/-- A dword of it that stands for a register of the strand; `sel` names the selector whose reserved bits it has. -/
def strandWord (k off sel : Nat) (g : Strand → Word) (f : Strand → Word → Strand) : SlotField :=
  strandField k off 8 (statusReserved sel).toNat (fun st => (g st).toNat) (fun st v => f st (BitVec.ofNat 64 v))

def runCode : RunState → Nat
  | .notStarted => 0 | .running => 1 | .exited => 2
def runOf (n : Nat) : RunState := if n = 0 then .notStarted else if n = 1 then .running else .exited
def privOf (n : Nat) : Priv := if n = 0 then .user else if n = 1 then .sv else .hv

/-- What stands at 0x170: the deadline of a timed wait, else the object that a wait names. A wait with neither has the model's own number
there: of mrecv its source register, of mwait its cover, of msend its packet (DESIGN CHOICE, assumption 71). -/
def Wait.saved (v : Wait) : Word := if v.kind = .timed ∨ v.kind = .vtimed then v.deadline else v.obj
def Wait.withSaved (v : Wait) (x : Word) : Wait :=
  if v.kind = .timed ∨ v.kind = .vtimed then { v with deadline := x } else { v with obj := x }

/-- The generation that a barrier wait waits on (R302). -/
def Wait.savedGen (v : Wait) : Nat := if v.kind = .barrier then v.gen.toNat else 0
def Wait.withGen (v : Wait) (g : Nat) : Wait := if v.kind = .barrier then { v with gen := BitVec.ofNat 64 g } else v

/-- What the array holds for a strand's next mwait (R200), as the 16 bytes at 0x160: its flags, and of its oldest error the rows
completed, the active rows and the address. The rule names no bits: these are the model's (DESIGN CHOICE, assumption 64). -/
def CoreCtx.heldWord (l : CoreCtx) (n : Nat) : Nat :=
  let hs := l.held.filter (fun h => h.strand == n && h.birth == (l.strand n).birth)
  (hs.foldl (fun (a : BitVec 5) h => a ||| h.flags) 0).toNat + match hs.findSome? (·.err) with
    | some (pc, rows, act) => 2 ^ 63 + 2 ^ 48 * act + 2 ^ 40 * rows + 2 ^ 64 * pc.toNat
    | none => 0

/-- The arrivals of a strand at its level. -/
def Phase.arrivals (p : Phase) (n : Nat) : Nat := AMap.get 0 p.counts n

/-- The flags word of a phase at 0x1C0. -/
def Phase.word (p : Phase) : Nat :=
  (if p.inPhase then 2 ^ 63 else 0) + (if p.arrived then 2 ^ 62 else 0) +
  (match p.tsRow with | some (_, slot, _) => 2 ^ 61 + 2 ^ 56 * slot | none => 0) + p.used.toNat

/-- The held tsend row changed by a function, where there is one. -/
def Phase.onRow (p : Phase) (g : Row × Nat × Nat → Row × Nat × Nat) : Phase := { p with tsRow := p.tsRow.map g }

/-- The record of a strand (R235). A PC dword whose bits [1:0] are not zero is restored as it stands: the layout reserves no bit of it
(DESIGN CHOICE, assumption 60). -/
def strandFields (k : Nat) : List SlotField :=
  ((List.range 15).map (fun i =>
    { off := 0x30000 + 0x400 * k + 8 * (i + 1), n := 8, res := 0
      get := fun l => (AMap.get (0 : Word) l.regs (16 * k + i + 1)).toNat
      set := fun l v => { l with regs := AMap.put l.regs (16 * k + i + 1) (BitVec.ofNat 64 v) } : SlotField })) ++
  [ strandWord k 0x080 0x40 (·.pc) (fun st v => { st with pc := v })
  , strandField k 0x088 8 0x00000FFFFFFFFF00
      (fun st => 2 ^ 56 * privCode st.priv + 2 ^ 48 * runCode st.run + 2 ^ 46 * privCode st.eprivH + 2 ^ 44 * privCode st.eprivS +
        st.preds.toNat)
      (fun st v => { st with
        priv := privOf (field v 63 56), run := runOf (field v 55 48), eprivH := privOf (field v 47 46)
        eprivS := privOf (field v 45 44), preds := BitVec.ofNat 8 v })
  , strandWord k 0x090 0x00 (·.fctl) (fun st v => { st with fctl := v })
  , strandWord k 0x098 0x01 (·.fflag) (fun st v => { st with fflag := v })
  , strandWord k 0x0A0 0x02 (·.shape) (fun st v => { st with shape := v })
  , strandWord k 0x0A8 0x03 (·.mask) (fun st v => { st with mask := v })
  , strandWord k 0x0B0 0x10 (·.spill) (fun st v => { st with spill := v })
  , strandWord k 0x0B8 0x11 (·.bitbuf) (fun st v => { st with bitbuf := v })
  , strandWord k 0x0C0 0x12 (·.wgen) (fun st v => { st with wgen := v })
  , strandField k 0x0C8 8 0xFFFFFFF800000000 (·.domain.toNat) (fun st v => { st with domain := BitVec.ofNat 64 v })
  , strandField k 0x0D0 8 0xFFFFFF0000000000 (·.gid.toNat) (fun st v => { st with gid := BitVec.ofNat 64 v })
  , strandField k 0x0D8 8 0xFFFFFFFFFFFFFFE0 (fun st => (st.wait.map (·.kind.code)).getD 0) (fun st _ => st) ] ++
  ((List.range 12).map (fun i =>
    strandWord k (0x0E0 + 8 * i) 0x40 (fun st => (st.loopRegs (i / 3)).get (i % 3))
      (fun st v => st.setLoop (i / 3) ((st.loopRegs (i / 3)).set (i % 3) v)))) ++
  ((List.range 4).map (fun i => strandWord k (0x140 + 8 * i) 0x40 (·.pack i) (fun st v => st.setPack i v))) ++
  [ { off := 0x30160 + 0x400 * k, n := 16, res := 0, get := fun l => l.heldWord k, set := fun l _ => l : SlotField }
  , strandField k 0x170 8 0 (fun st => (st.wait.map (·.saved.toNat)).getD 0)
      (fun st v => { st with wait := st.wait.map (fun w => w.withSaved (BitVec.ofNat 64 v)) })
  , strandField k 0x178 8 0 (fun st => (st.wait.map (·.savedGen)).getD 0)
      (fun st v => { st with wait := st.wait.map (fun w => w.withGen v) })
  , strandField k 0x180 64 0 (fun st => if st.phase.inPhase then st.phase.map.toNat else 0)
      (fun st v => if st.phase.inPhase then { st with phase := { st.phase with map := BitVec.ofNat 512 v } } else st)
  , strandField k 0x1C0 8 0x00FFFFFF80000000 (·.phase.word)
      (fun st v =>
        let p : Phase := { st.phase with
          inPhase := field v 63 63 == 1, arrived := field v 62 62 == 1, used := BitVec.ofNat 31 v }
        { st with phase := p.onRow (fun r => (r.1, field v 60 56, r.2.2)) })
  , strandField k 0x1C8 8 0 (fun st => if st.phase.inPhase then st.phase.tOpen.toNat else 0)
      (fun st v => if st.phase.inPhase then { st with phase := { st.phase with tOpen := BitVec.ofNat 64 v } } else st)
  , strandField k 0x1D0 8 0xFFFFFFFFFFFC0000 (fun st => (st.phase.tsRow.map (·.2.2)).getD 0)
      (fun st v => { st with phase := st.phase.onRow (fun r => (r.1, r.2.1, v)) })
  , strandField k 0x1D8 8 0x00000000FFFFFFF8
      (fun st => 2 ^ 32 * (st.phase.arrivals st.phase.level % 2 ^ 32) + st.phase.level)
      (fun st v =>
        let p := st.phase
        let n := field v 2 0
        if n = p.level ∧ field v 63 32 = p.arrivals n % 2 ^ 32 then st
        else { st with phase := { p with level := n, counts := AMap.put p.counts n (field v 63 32) } })
  , strandField k 0x1E0 64 0 (fun st => (st.phase.tsRow.map (·.1.toNat)).getD 0)
      (fun st v => { st with phase := st.phase.onRow (fun r => (BitVec.ofNat 512 v, r.2)) }) ]

/-- The pool register blocks, the tile pool, and the weights of the matrix slots (R234). -/
def poolFields : List SlotField :=
  ((List.range 128).map (fun i =>
    { off := 0x31000 + 8 * i, n := 8, res := 0, get := fun l => (AMap.get (0 : Word) l.regs (64 + i)).toNat
      set := fun l v => { l with regs := AMap.put l.regs (64 + i) (BitVec.ofNat 64 v) } : SlotField })) ++
  ((List.range 512).map (fun i =>
    { off := 0x34000 + 64 * i, n := 64, res := 0, get := fun l => (AMap.get (0 : Row) l.tiles i).toNat
      set := fun l v => { l with tiles := AMap.put l.tiles i (BitVec.ofNat 512 v) } : SlotField })) ++
  ((List.range 32).map (fun i =>
    { off := 0x32000 + 64 * i, n := 64, res := 0
      get := fun l => (AMap.get (0 : Row) (l.slotOf (i / 16)).weights (i % 16)).toNat
      set := fun l v =>
        let sl := l.slotOf (i / 16)
        l.setSlot (i / 16) { sl with weights := AMap.put sl.weights (i % 16) (BitVec.ofNat 512 v) } : SlotField }))

/-- A list of units as bytes, 0x80 + the unit each, in grant order; and the list of n such bytes. -/
def unitBytes (us : List Nat) : Nat := us.foldr (fun u acc => 0x80 + u % 0x80 + 256 * acc) 0
def bytesUnits (n v : Nat) : List Nat :=
  (List.range n).filterMap (fun i => let b := v / 256 ^ i % 256; if 0x80 ≤ b then some (b - 0x80) else none)

/-- The bindings of a strand to the units of a type, n bytes from an offset of the area at 0x3_1400. -/
def bindField (k off n : Nat) (r : Res) : SlotField :=
  { off := 0x31400 + off + n * k, n := n, res := 0
    get := fun l => unitBytes ((l.strand k).hold.of r)
    set := fun l v => l.setStrand k { l.strand k with hold := (l.strand k).hold.with r (bytesUnits n v) } }

/-- A waiting kacq request as a dword: [63] there is one, [61:60] its strand, and its request word (R286). -/
def KReq.word (q : KReq) : Nat := 2 ^ 63 + 2 ^ 60 * (q.strand % 4) + q.req.word.toNat
def KReq.ofWord (v : Nat) : KReq := ⟨field v 61 60, reqCounts (BitVec.ofNat 64 v)⟩

/-- The area at 0x3_1400 (R234): tile tags, bindings and Tumbler state. The rule gives the area and what it holds and no layout within
it: this one is the model's (DESIGN CHOICE, assumption 64). Limbo is empty in a saved state (R292). -/
def bindFields : List SlotField :=
  ((List.range 32).map (fun t =>
    { off := 0x31400 + 4 * t, n := 4, res := 0, get := fun l => (l.tag t).toNat
      set := fun l v => l.setTag t (BitVec.ofNat 32 v) : SlotField })) ++
  (List.range 4).flatMap (fun k =>
    [ bindField k 0x080 16 .tile, bindField k 0x0C0 4 .reg, bindField k 0x0D0 4 .mxs, bindField k 0x100 48 .lmg
    , { off := 0x315C0 + 8 * k, n := 8, res := 0xFFFFFFFFFCC0E0FC, get := fun l => (l.claimOf k).word.toNat
        set := fun l v => l.setStrand k { l.strand k with claim := reqCounts (BitVec.ofNat 64 v) } : SlotField }
    , { off := 0x315E0 + 8 * k, n := 8, res := 0x4FFFFFFFFCC0E0FC, get := fun l => (l.kqueue[k]?.map KReq.word).getD 0
        set := fun l v => { l with kqueue := l.kqueue.take k ++ (if field v 63 63 = 1 then [KReq.ofWord v] else []) } : SlotField } ])

/-- A dword of the core record (R236). -/
def coreField (off res : Nat) (g : CoreCtx → Nat) (f : CoreCtx → Nat → CoreCtx) : SlotField :=
  { off := 0x31800 + off, n := 8, res := res, get := g, set := f }

/-- The core record but for HMASS0-HMASS3, which stand in the blocks of the LM image. The two dwords of latched formats are
written for a reader of the slot; no rule gives their bits. -/
def coreFields : List SlotField :=
  [ coreField 0x00 0 (·.vtime.toNat) (fun l v => { l with vtime := BitVec.ofNat 64 v })
  , coreField 0x08 (statusReserved 0x15).toNat (·.energy.toNat) (fun l v => { l with energy := BitVec.ofNat 64 v })
  , coreField 0x10 (statusReserved 0x16).toNat (·.enstat.toNat) (fun l v => { l with enstat := BitVec.ofNat 64 v })
  , coreField 0x18 (statusReserved 0x23).toNat (·.xconf.toNat) (fun l v => { l with xconf := BitVec.ofNat 64 v }) ] ++
  ((List.range 4).map (fun k => coreField (0x40 + 8 * k) 0xFFFFFFFF00000000 (fun l => (l.hslot k).hdisag.toNat)
    (fun l v => { l with hslots := AMap.put l.hslots k { l.hslot k with hdisag := BitVec.ofNat 32 v } }))) ++
  [ { off := 0x31860, n := 16, res := 0, get := (·.lut.toNat), set := fun l v => { l with lut := BitVec.ofNat 128 v } }
  , coreField 0x70 0 (fun l => let x := l.slotOf 0; if x.loaded then 2 ^ 63 + 16 * x.k + x.ty.code.toNat else 0) (fun l _ => l)
  , coreField 0x78 0 (fun l => let x := l.slotOf 1; if x.loaded then 2 ^ 63 + 16 * x.k + x.ty.code.toNat else 0) (fun l _ => l)
  , coreField 0x80 0 (·.switches.toNat) (fun l v => { l with switches := BitVec.ofNat 32 v }) ]

def hstateCode : HState → Nat
  | .closed => 0 | .opened => 1 | .paused => 2 | .leaving => 3
def hstateOf (n : Nat) : HState := if n = 0 then .closed else if n = 1 then .opened else if n = 2 then .paused else .leaving

/-- A field of a Hinge slot (R357). -/
def hingeField (k off n res : Nat) (g : HSlot → Nat) (f : HSlot → Nat → HSlot) : SlotField :=
  { off := 0x32C00 + 0x100 * k + off, n := n, res := res, get := fun l => g (l.hslot k)
    set := fun l v => { l with hslots := AMap.put l.hslots k (f (l.hslot k) v) } }

def hingeFields (k : Nat) : List SlotField :=
  [ hingeField k 0x00 8 0x0FF0FFFFFFFC0000
      (fun h => 2 ^ 62 * hstateCode h.state + (if h.planp then 2 ^ 61 else 0) + (if h.savep then 2 ^ 60 else 0) +
        2 ^ 48 * h.id.toNat + h.block.toNat)
      (fun h v => { h with
        state := hstateOf (field v 63 62), planp := field v 61 61 == 1, savep := field v 60 60 == 1, id := BitVec.ofNat 4 (field v 51 48)
        block := BitVec.ofNat 18 v })
  , hingeField k 0x08 8 0 (·.attr0.toNat) (fun h v => { h with attr0 := BitVec.ofNat 64 v })
  , hingeField k 0x10 8 0 (·.attr1.toNat) (fun h v => { h with attr1 := BitVec.ofNat 64 v })
  , hingeField k 0x18 8 0 (·.attr2.toNat) (fun h v => { h with attr2 := BitVec.ofNat 64 v })
  , hingeField k 0x20 8 0 (·.nextTick.toNat) (fun h v => { h with nextTick := BitVec.ofNat 64 v })
  , hingeField k 0x28 8 0xFFFFFFFFFFFFFFF0 (·.nextPart.toNat) (fun h v => { h with nextPart := BitVec.ofNat 4 v })
  , hingeField k 0x30 8 0xFFFFFFFFFFFF0000 (·.none_.toNat) (fun h v => { h with none_ := BitVec.ofNat 16 v })
  , hingeField k 0x38 8 0xFFFFFFFFFFFFFFFF (fun _ => 0) (fun h _ => h)
  , hingeField k 0x40 64 0 (·.part.toNat) (fun h v => { h with part := BitVec.ofNat 512 v }) ] ++
  ((List.range 16).map (fun i => hingeField k (0x80 + 8 * i) 8 0 (fun h => (AMap.get (0 : Word) h.seen i).toNat)
    (fun h v => { h with seen := AMap.put h.seen i (BitVec.ofNat 64 v) })))

def XferRec.none_ : XferRec :=
  { xform := 0, budget := 0, strand := 0, pc := 0, srec := 0, drec := 0, bar := 0, done := 0, fctlc := 0, lut := 0, src := 0,
    dst := 0, started := false, fault := none, order := 0, job := none, priv := .user, birth := 0, left := none, stale := false }

/-- A field of an xfer record (R326). -/
def xferField (k off n res : Nat) (g : XferRec → Nat) (f : XferRec → Nat → XferRec) : SlotField :=
  { off := 0x33000 + 64 * k + off, n := n, res := res
    get := fun l => ((AMap.get none l.xfers k).map g).getD 0
    set := fun l v => match AMap.get none l.xfers k with
      | some r => { l with xfers := AMap.put l.xfers k (some (f r v)) }
      | none => l }

def xferFields (k : Nat) : List SlotField :=
  [ { off := 0x33000 + 64 * k, n := 8, res := 0x00FFFFF000000000
      get := fun l => match AMap.get none l.xfers k with
        | some r => 2 ^ 63 + 2 ^ 60 * r.xform.toNat + 2 ^ 58 * r.budget.toNat + 2 ^ 56 * (r.strand % 4) + 2 ^ 18 * r.srec.toNat +
            r.drec.toNat
        | none => 0
      set := fun l v =>
        let r := (AMap.get none l.xfers k).getD XferRec.none_
        { l with xfers := AMap.put l.xfers k (if field v 63 63 = 1 then some { r with
            xform := BitVec.ofNat 3 (field v 62 60), budget := BitVec.ofNat 2 (field v 59 58), strand := field v 57 56
            srec := BitVec.ofNat 18 (field v 35 18), drec := BitVec.ofNat 18 v } else none) } }
  , xferField k 0x08 8 0 (·.bar.toNat) (fun r v => { r with bar := BitVec.ofNat 64 v })
  , xferField k 0x10 8 0 (·.done) (fun r v => { r with done := v })
  , xferField k 0x18 8 0 (·.fctlc.toNat) (fun r v => { r with fctlc := BitVec.ofNat 64 v })
  , xferField k 0x20 16 0 (·.lut.toNat) (fun r v => { r with lut := BitVec.ofNat 128 v })
  , xferField k 0x30 16 (2 ^ 128 - 1) (fun _ => 0) (fun r _ => r) ]

/-- The inbox: message i and its source word; a source word of 0 stands where there is no message (R344). -/
def inboxFields : List SlotField :=
  (List.range 16).flatMap (fun i =>
    [ { off := 0x33100 + 8 * i, n := 8, res := 0, get := fun l => (l.inbox[i]?.map (·.src.toNat)).getD 0
        set := fun l v =>
          if field v 63 63 = 0 then { l with inbox := l.inbox.take i }
          else match l.inbox[i]? with
            | some m => { l with inbox := l.inbox.set i { m with src := BitVec.ofNat 64 v } }
            | none => { l with inbox := l.inbox ++ [⟨0, BitVec.ofNat 64 v, []⟩] } }
    , { off := 0x32800 + 64 * i, n := 64, res := 0, get := fun l => (l.inbox[i]?.map (·.data.toNat)).getD 0
        set := fun l v => { l with inbox := match l.inbox[i]? with
          | some m => l.inbox.set i { m with data := BitVec.ofNat 512 v }
          | none => l.inbox } } ])

/-- Every field of a slot that has a layout. -/
def slotFields : List SlotField :=
  (List.range 4).flatMap strandFields ++ poolFields ++ bindFields ++ coreFields ++ (List.range 4).flatMap hingeFields ++
  (List.range 4).flatMap xferFields ++ inboxFields

/-- Areas of a slot that are reserved: offset and length. -/
def slotReserved : List (Nat × Nat) :=
  (List.range 4).map (fun k => (0x30220 + 0x400 * k, 480)) ++ [(0x31600, 512), (0x31900, 1792), (0x33180, 3712), (0x3C000, 0x4000)]

/-- A state written to a slot, reserved areas as zeros; the LM image is what stands there already. -/
def State.writeSlot (s : State) (base : Nat) (l : CoreCtx) : State :=
  let s1 : State := { s with mem := memClear s.mem (base + lmImageBytes) (slotBytes - lmImageBytes) }
  slotFields.foldl (fun acc f => acc.write (base + f.off) f.n (f.get l)) s1

/-- A slot is consistent: its reserved fields are zero, and no binding names a tile twice (R236). -/
def State.slotOk (s : State) (base : Nat) (l : CoreCtx) : Bool :=
  let tiles := (List.range 4).flatMap (fun n => (l.strand n).hold.tile)
  slotFields.all (fun f => f.res == 0 || s.read (base + f.off) f.n &&& f.res == 0) &&
  slotReserved.all (fun a => s.mem.all (fun c => !decide (base + a.1 ≤ c.1 ∧ c.1 < base + a.1 + a.2) || c.2 == 0)) &&
  tiles.eraseDups.length == tiles.length

/-- A message that stands in the slot as it was saved keeps the release points of its sender (R222, R348). -/
def keepPoints : List Msg → List Msg → List Msg
  | o :: os, n :: ns => (if o.data = n.data ∧ o.src = n.src then { n with points := o.points } else n) :: keepPoints os ns
  | _, ns => ns

/-- A slot read over the state kept with it. -/
def State.readSlot (s : State) (base : Nat) (l : CoreCtx) : CoreCtx :=
  let r := slotFields.foldl (fun acc f => f.set acc (s.read (base + f.off) f.n)) { l with inbox := [] }
  { r with inbox := keepPoints l.inbox r.inbox }

/-- What changes in a kept state changes in its slot, field by field; the rest of the slot stays as it is, and the whole of the slot of a
fenced core (R413). -/
def State.resave (s : State) (key : Nat) (l : CoreCtx) : State :=
  let old := AMap.get CoreCtx.fresh s.saved key
  if old = l then s
  else
    let s1 : State := { s with saved := AMap.put s.saved key l }
    if (s.core (key / 2 ^ 16)).fenced then s1
    else slotFields.foldl (fun acc f => if f.get old = f.get l then acc else acc.write (l.slot + f.off) f.n (f.get l)) s1

end Sys2Proof.Machine
end

