-- ==== Sys2Proof/Machine/Kernel.lean ====
section
/-!
DEFINITION. Kernels and groups as objects (R253-R263, R264-R271): their records, the places of strands, the end of a strand,
domains as far as an end settles them (R272-R277), the stop of a kernel, retirement, service and replay.
-/
namespace Sys2Proof.Machine

/-! ## Fields of a launch packet (R242) -/

def Kernel.code (k : Kernel) : Nat := k.pk 0x00 63 0
def Kernel.argsVa (k : Kernel) : Nat := k.pk 0x08 63 0
def Kernel.argBytes (k : Kernel) : Nat := 8 * k.pk 0x10 49 40
def Kernel.gw (k : Kernel) : Nat := k.pk 0x10 35 32 + 1
def Kernel.gh (k : Kernel) : Nat := k.pk 0x10 39 36 + 1
def Kernel.gridX (k : Kernel) : Nat := k.pk 0x10 15 0
def Kernel.gridY (k : Kernel) : Nat := k.pk 0x10 31 16
def Kernel.grid (k : Kernel) : Nat := k.gridX * k.gridY
def Kernel.claim (k : Kernel) : Counts := reqCounts (BitVec.ofNat 64 (k.pk 0x18 63 0))
def Kernel.ordered (k : Kernel) : Bool := k.pk 0x20 8 8 == 1

/-! ## State of a context on a core, live or saved -/

/-- The key of a saved context. -/
def savedKey (ctx core : Nat) : Nat := 2 ^ 16 * core + ctx
/-- The context of such a key. -/
def savedCtx (key : Nat) : Nat := key % 2 ^ 16
def State.resident (s : State) (ctx core : Nat) : Bool := (s.core core).ctx == some ctx
def State.ctxState (s : State) (ctx core : Nat) : CoreCtx :=
  if s.resident ctx core then s.live core else AMap.get CoreCtx.fresh s.saved (savedKey ctx core)
def State.setCtxState (s : State) (ctx core : Nat) (l : CoreCtx) : State :=
  if s.resident ctx core then s.setLive core l else s.resave (savedKey ctx core) l
/-- Every context state of the module changed, the slots of those that are away with them. -/
def State.mapCtxStates (s : State) (g : CoreCtx → CoreCtx) : State :=
  s.saved.foldl (fun acc e => acc.resave e.1 (g e.2))
    { s with cores := AMap.mapVals s.cores (fun _ c => { c with live := g c.live }) }
def State.anyCtxState (s : State) (p : CoreCtx → Bool) : Bool := s.cores.any (fun c => p c.2.live) || s.saved.any (fun c => p c.2)

def ofKernel (k : Nat) (job : Option (Nat × Nat)) : Bool := job.map (·.1) == some k

/-! ## Groups (R264-R271) -/

def Group.pending : Group := { state := .pending, x0 := 0, y0 := 0, members := [] }
/-- The kernel's run has been stopped (R258, R260). -/
def Kernel.stopped (k : Kernel) : Bool := k.state == .faulted || k.state == .replaying || k.state == .abandoned
/-- A group of a kernel; one that was never placed is PENDING until a stop ends it (R270). -/
def Kernel.group (k : Kernel) (g : Nat) : Group :=
  AMap.get (if k.stopped then { Group.pending with state := .ended } else Group.pending) k.groups g
def State.setGroup (s : State) (k g : Nat) (v : Group) : State :=
  s.setKernel k { s.kernel k with groups := AMap.put (s.kernel k).groups g v }

/-- The rectangle of a group with a corner. -/
def Kernel.rectAt (k : Kernel) (x0 y0 : Nat) : Nat := rectWord x0 y0 (x0 + k.gw - 1) (y0 + k.gh - 1)
def Kernel.groupRect (k : Kernel) (g : Nat) : Nat := k.rectAt (k.group g).x0 (k.group g).y0

/-- Groups of the grid that have ended in this run. -/
def Kernel.ended (k : Kernel) : Nat :=
  if k.stopped then k.grid else (k.groups.filter (fun e => e.2.state == .ended)).length

/-- The strand places of a core that groups of a context reserve or hold. -/
def State.reserved (s : State) (ctx core : Nat) : List Nat :=
  s.kernels.foldl (fun acc k =>
    if k.2.ctx = ctx then
      k.2.groups.foldl (fun acc g =>
        if g.2.state = .starting ∨ g.2.state = .holding then
          acc ++ (g.2.members.filter (fun m => m.who.core == core)).map (·.who.strand)
        else acc) acc
    else acc) []

/-- Free strand places of a core for a context, the lowest first (R265); a fenced core has none (R413). -/
def State.freePlaces (s : State) (ctx core : Nat) : List Nat :=
  let l := s.ctxState ctx core
  let r := s.reserved ctx core
  (List.range 4).filter (fun n => (l.strand n).run != .running && !r.contains n && !(s.core core).fenced)

/-- A held region takes a place on each core of it that has a free one, one place for its member there: R268 holds every place that is free
(DESIGN CHOICE, assumption 87). Members stand in the order of their cores in the rectangle. -/
def State.holdPlaces (s : State) (die : Nat) : State :=
  match (AMap.get Patience.none_ s.patience die).holding with
  | none => s
  | some (k, g) =>
    let kr := s.kernel k
    let gr := kr.group g
    if gr.state ≠ .holding then s
    else
      let ms := (rectCores (kr.groupRect g)).filterMap (fun c =>
        match gr.members.find? (fun m => m.who.core == c) with
        | some m => some m
        | none => (s.freePlaces kr.ctx c).head?.map (fun n => ⟨⟨c, n⟩, false⟩))
      s.setGroup k g { gr with members := ms }

/-! ## Domains (R272-R277) -/

/-- The groups of a block: of a level, the one a group lies in (R272). -/
def Kernel.block (k : Kernel) (n g : Nat) : List Nat :=
  let q := 2 ^ (n - 1)
  let gx := g % k.gridX
  let gy := g / k.gridX
  (List.range (q * q)).filterMap (fun i =>
    let x := gx / q * q + i % q
    let y := gy / q * q + i / q
    if x < k.gridX ∧ y < k.gridY then some (y * k.gridX + x) else none)

/-- The place of a block among the blocks of its level. -/
def Kernel.blockAt (k : Kernel) (n g : Nat) : Nat × Nat :=
  (g % k.gridX / 2 ^ (n - 1), g / k.gridX / 2 ^ (n - 1))

/-- The smallest rectangle that contains every rectangle of a block (R272). -/
def Kernel.blockRect (k : Kernel) (n g : Nat) : Nat :=
  let rs := (k.block n g).map k.groupRect
  let lo (i : Nat) : Nat := rs.foldl (fun m r => min m (field r (8 * i + 7) (8 * i))) 255
  let hi (i : Nat) : Nat := rs.foldl (fun m r => max m (field r (8 * i + 7) (8 * i))) 0
  rectWord (lo 0) (lo 1) (hi 2) (hi 3)

/-- A test of every member of a block; a group that has not started meets none. -/
def State.allMembers (s : State) (k n g : Nat) (p : Strand → Bool) : Bool :=
  let kr := s.kernel k
  (kr.block n g).all (fun h =>
    let gr := kr.group h
    match gr.state with
    | .ended => true
    | .running => gr.members.all (fun m => m.exited || p ((s.ctxState kr.ctx m.who.core).strand m.who.strand))
    | _ => false)

/-- The domain record of a barrier: kernel, level, block, count. -/
def State.domain (s : State) (k n : Nat) (b : Nat × Nat) (count : Nat) : Option Domain :=
  s.domains.find? (fun d => d.kernel == k && d.level == n && d.bx == b.1 && d.by_ == b.2 && d.count == count)

/-- The barrier that a strand waits at in an sstep: kernel, level, block, count. -/
def State.barrierOf (s : State) (st : Strand) : Option (Nat × Nat × (Nat × Nat) × Nat) :=
  match st.job, st.wait with
  | some (k, g), some v =>
    if v.kind = .sstep ∧ st.phase.arrived then
      some (k, st.phase.level, (s.kernel k).blockAt st.phase.level g, st.phase.arrivals st.phase.level)
    else none
  | _, _ => none

/-- A domain barrier completes once every member of its block has arrived; a TRAPPED strand has not (R271). T_open is the TIME of
that (R273, R275). -/
def State.openBarrier (s : State) (st : Strand) : State :=
  match s.barrierOf st, st.job with
  | some (k, n, b, count), some (_, g) =>
    if (s.domain k n b count).isSome then s
    else if s.allMembers k n g (fun m => !m.trapped && decide (count ≤ m.phase.arrivals n)) then
      { s with domains := s.domains ++ [{ kernel := k, level := n, bx := b.1, by_ := b.2, count := count, tOpen := s.time,
                                          maps := [], tc := none, stag := 0 }] }
    else s
  | _, _ => s

/-- A strand that waits in an sstep leaves it with its communication phase open once the barrier has completed (R280): it copies its
slot map then (R274), from the address its wait holds, or has no slots. -/
def State.settleStrand (s : State) (w : Who) : State :=
  let st := s.strand w
  match s.barrierOf st, st.wait with
  | some (k, n, b, count), some v =>
    match s.domain k n b count with
    | some d =>
      if (s.core w.core).st ≠ .active ∨ s.takeCut w .all then s
      else
        let map : BitVec 512 := if v.flat = 0 then 0 else BitVec.ofNat 512 (s.read v.flat 64)
        let s1 := s.setStrand w { st with phase := { st.phase with
          map := map, inPhase := true, arrived := false, ended := false, used := 0, tOpen := d.tOpen } }
        let s2 : State := { s1 with domains := s1.domains.map (fun e => if e = d then { d with maps := (w, map) :: d.maps } else e) }
        (s2.takeIn w .all).finish w v.len v.eu
    | none => s
  | _, _ => s

/-- A member is past its part of the phase that the count-th barrier of a level opened. -/
def Phase.past (p : Phase) (n count : Nat) : Bool :=
  decide (count < p.arrivals n) || (p.arrivals n == count && p.level == n && p.ended)

/-- A row of a block's members that has not landed. -/
def State.rowsOut (s : State) (k : Nat) (gs : List Nat) : Bool :=
  s.net.any (fun e => e.2.kind == .row && match e.2.job with
    | some (j, g) => j == k && gs.contains g
    | none => false)

/-- A group of the block with a corner. -/
def Kernel.blockGroup (k : Kernel) (n bx by_ : Nat) : Nat := by_ * 2 ^ (n - 1) * k.gridX + bx * 2 ^ (n - 1)

/-- The phase of a barrier ends: T_c, with the STAGNS now in force (R276). -/
def State.endPhase (s : State) (k n bx by_ count : Nat) : State :=
  let kr := s.kernel k
  let g := kr.blockGroup n bx by_
  match s.domain k n (bx, by_) count with
  | none => s
  | some d =>
    if d.tc.isSome || !s.allMembers k n g (fun st => st.phase.past n count) || s.rowsOut k (kr.block n g) then s
    else
      let d' := { d with tc := some s.time, stag := bits (s.ctl (dieBlock kr.die + 0x18)) 11 0 }
      { s with domains := s.domains.map (fun e => if e = d then d' else e) }

/-- Every strand that waits in an sstep is looked at, and every phase whose last member or row has come to its end. -/
def State.settleDomains (s : State) : State :=
  let s1 := s.cores.foldl (fun acc c => c.2.live.strands.foldl (fun acc e => acc.openBarrier e.2) acc) s
  let s2 := s1.saved.foldl (fun acc c => c.2.strands.foldl (fun acc e => acc.openBarrier e.2) acc) s1
  let s3 := s2.cores.foldl (fun acc c => (List.range 4).foldl (fun acc n => acc.settleStrand ⟨c.1, n⟩) acc) s2
  s3.domains.foldl (fun acc d => acc.endPhase d.kernel d.level d.bx d.by_ d.count) s3

/-! ## Queues as kernels move them (R241, R249) -/

def State.qWrite (s : State) (q : Nat) : Nat := (s.readW q).toNat
def State.qRead (s : State) (q : Nat) : Nat := (s.readW (q + 0x08)).toNat
def State.qDone (s : State) (q : Nat) : Nat := (s.readW (q + 0x10)).toNat
def State.qConfd (s : State) (q : Nat) : Nat := (s.readW (q + 0x18)).toNat
def State.qRing (s : State) (q : Nat) : Word := s.readW (q + 0x20)
def State.qFlags (s : State) (q : Nat) : Word := s.readW (q + 0x28)
def State.qIds (s : State) (q : Nat) : Word := s.readW (q + 0x30)

/-- The kernel of a packet that has been taken. -/
def State.kernelAt (s : State) (q seq : Nat) : Option (Nat × Kernel) :=
  s.kernels.find? (fun e => e.2.qdesc == q && e.2.kseq == seq)

/-- A kernel that DONE may pass, and one that CONFD may pass (R241). -/
def Kernel.counted (k : Kernel) (conf : Bool) : Bool :=
  if conf then k.state == .confirmed || k.state == .abandoned else k.state == .abandoned || k.everRetired

/-- The first sequence number from n on whose kernel is not counted. -/
def State.countFrom (s : State) (q : Nat) (conf : Bool) (n : Nat) : Nat → Nat
  | 0 => n
  | fuel + 1 =>
    match s.kernelAt q n with
    | some e => if e.2.counted conf then s.countFrom q conf (n + 1) fuel else n
    | none => n

/-- DONE and CONFD rise as far as the kernels allow (R249). -/
def State.raiseQueue (s : State) (q : Nat) : State :=
  let n := s.kernels.length
  let s1 := s.write (q + 0x10) 8 (s.countFrom q false (s.qDone q) n)
  s1.write (q + 0x18) 8 (s.countFrom q true (s.qConfd q) n)

/-! ## Outstanding work (R257) -/

/-- A packet that is outstanding work of a kernel: a store until it has performed or been diverted, a message or an explicit
push until it has been settled. -/
def Packet.outstanding (p : Packet) (k : Nat) : Bool :=
  ofKernel k p.job && match p.kind with
    | .store _ | .near | .amo _ _ => !p.landed
    | .msg => true
    | .push | .reply _ => p.path.isSome
    | _ => false

/-- Work of a kernel that has not performed (R257), or an error held for one of its strands that is still to be reported: while the ring
is full it holds the kernel in its state (R200, R409). -/
def State.busy (s : State) (k : Nat) : Bool :=
  s.net.any (fun e => e.2.outstanding k) ||
  s.anyCtxState (fun l => l.queue.any (fun o => ofKernel k o.job) ||
    l.held.any (fun h => h.err.isSome && ofKernel k h.job) ||
    l.xfers.any (fun x => match x.2 with | some r => ofKernel k r.job | none => false))

/-! ## The end of a strand (R133, R271, R292) -/

/-- The kernel after a group has ended: DRAINING once the last has (R258, R270). -/
def State.groupEnded (s : State) (k : Nat) : State :=
  let kr := s.kernel k
  if kr.state = .running ∧ kr.ended = kr.grid then s.setKernel k { kr with state := .draining } else s

/-- A member of a group has exited (R270). -/
def State.memberExit (s : State) (k g : Nat) (w : Who) : State :=
  let gr := (s.kernel k).group g
  let ms := gr.members.map (fun m => if m.who = w then { m with exited := true } else m)
  let done_ := ms.all (·.exited)
  let s1 := s.setGroup k g { gr with members := ms, state := if done_ then .ended else gr.state }
  if done_ then s1.groupEnded k else s1

/-- The xfers that a strand has started go on once it has exited, with what it held (R133). -/
def CoreCtx.leaveXfers (l : CoreCtx) (n : Nat) : CoreCtx :=
  { l with xfers := AMap.mapVals l.xfers (fun _ x => x.map (fun r =>
      if r.strand = n ∧ r.left.isNone then { r with left := some (l.strand n).hold } else r)) }

/-- A strand stops: its holdings go, its held matrix flags are discarded, its place is freed; its engine work goes on (R133). -/
def State.exitStrand (s : State) (w : Who) : State :=
  let l := s.live w.core
  let st := l.strand w.strand
  let l1 := (l.leaveXfers w.strand).release w.strand st.hold.counts
  let l2 := l1.setStrand w.strand { l1.strand w.strand with
    run := .exited, trapped := false, wait := none, loads := [], early := [], claim := .zero
    phase := { st.phase with inPhase := false, tsRow := none } }
  let s1 := s.setLive w.core { l2 with
    held := (l2.held.map (fun h => if h.strand = w.strand ∧ h.birth = st.birth then { h with flags := 0 } else h)).filter
      (fun h => h.flags != 0 || h.err.isSome) }
  match st.job with
  | some (k, g) => ((s1.memberExit k g w).holdPlaces (s.kernel k).die).settleDomains
  | none => s1

/-! ## The stop of a kernel (R260, R304) -/

/-- The strands and engine work of a kernel stopped on one core; what its strands hold is kept for it, and the errors held for them are
still to be reported (R200, R409). -/
def CoreCtx.stop (l : CoreCtx) (k : Nat) : CoreCtx :=
  let mine := (List.range 4).filter (fun n => ofKernel k (l.strand n).job && (l.strand n).run == .running)
  let l1 := mine.foldl (fun (acc : CoreCtx) n =>
    let st := acc.strand n
    { acc.setStrand n { st with run := .exited, trapped := false, wait := none, loads := [], early := [], claim := .zero, hold := .none_,
                                phase := { st.phase with inPhase := false, tsRow := none } } with
      kept := acc.kept ++ st.hold.units.map (fun u => (k, u)) }) l
  { l1 with
    kqueue := l1.kqueue.filter (fun r => !mine.contains r.strand)
    queue := l1.queue.filter (fun o => !ofKernel k o.job || o.started)
    held := (l1.held.map (fun h => if ofKernel k h.job then { h with flags := 0 } else h)).filter (fun h => h.flags != 0 || h.err.isSome)
    xfers := AMap.mapVals l1.xfers (fun _ x => match x with
      | some r => if ofKernel k r.job then none else some r
      | none => none) }

/-- A kernel stops and enters a state (R258, R260): no instruction of its strands issues any more, here or once restored, and its
groups have ended. Offers of messages are withdrawn, and writes on their way to its claimed frames discarded, atomics among them
(R262). -/
def State.stopKernel (s : State) (k : Nat) (ks : KState) : State :=
  let kr := s.kernel k
  let s1 := s.mapCtxStates (fun l => l.stop k)
  let gone (p : Packet) : Bool := ofKernel k p.job &&
    (p.kind == .msg || ((p.kind.isStore || (match p.kind with | .amo _ _ => true | _ => false)) &&
      kr.claims.any (fun c => overlap c.shadow c.size p.flat p.bytes)))
  let s2 : State := { s1 with
    net := s1.net.filter (fun e => !gone e.2)
    patience := AMap.mapVals s1.patience (fun _ p => if ofKernel k p.holding then { p with holding := none } else p) }
  let ended := AMap.mapVals kr.groups (fun _ g => { g with state := .ended })
  (s2.setKernel k { kr with groups := ended, state := ks }).settleDomains

/-- What a kernel's strands held becomes free (R292). -/
def State.releaseKept (s : State) (k : Nat) : State :=
  s.mapCtxStates (fun l => { l with
    limbo := l.limbo ++ (l.kept.filter (fun u => u.1 == k)).map (·.2)
    kept := l.kept.filter (fun u => u.1 != k) })

/-- Claimed frames are discarded: SW clears, and the claims are released (R262, R320). -/
def State.discardClaims (s : State) (k : Nat) : State :=
  let kr := s.kernel k
  let s1 := kr.claims.foldl (fun acc c =>
    let live := acc.readW c.slot
    (acc.dropFrame c.shadow c.size).setShadow c.slot (pteZ live) (setBits (acc.shadowWord c.slot) 8 8 0)) s
  s1.setKernel k { s1.kernel k with claims := [] }

/-- A kernel enters FAULTED from a state before RETIRED, its barriers poisoned (R258, R304); from RETIRED it keeps its results. -/
def State.kernelFaulted (s : State) (k cc : Nat) : State :=
  let st := (s.kernel k).state
  match st with
  | .pending | .running | .draining =>
    (s.poisonBars k 0xFFFFFF05 (4 * (s.kernel k).die + cc)).stopKernel k .faulted
  | .retired => s.setKernel k { s.kernel k with state := .faulted }
  | _ => s

/-- A kernel is abandoned: stopped where it was not, its holdings released, DONE and CONFD raised (R258). -/
def State.kernelAbandoned (s : State) (k cc : Nat) : State :=
  let go (s : State) : State :=
    let s1 := (s.releaseKept k).discardClaims k
    (s1.setKernel k { s1.kernel k with state := .abandoned }).raiseQueue (s.kernel k).qdesc
  match (s.kernel k).state with
  | .pending | .running | .draining => go ((s.poisonBars k 0xFFFFFF07 (4 * (s.kernel k).die + cc)).stopKernel k .abandoned)
  | .faulted => go s
  | _ => s

/-! ## Events of a kernel (R258-R262) -/

/-- The fault ring of a die takes an entry at once; while it is full a kernel stays in its state (R409). -/
def State.ringReady (s : State) (die : Nat) : Bool := !s.ringFull die && (AMap.get [] s.reports die).isEmpty

/-- A kernel becomes CONFIRMED (R258). -/
def State.confirm (s : State) (k : Nat) : State :=
  (s.setKernel k { s.kernel k with state := .confirmed }).raiseQueue (s.kernel k).qdesc

/-- Every written byte of the clusters that a kernel ran on goes home (R261). -/
def State.publishAll (s : State) (cores : List Nat) : State :=
  ((cores.map clusterOf).eraseDups).foldl (fun acc cl =>
    (acc.cache cl).foldl (fun acc l => acc.writeBack cl l.1) acc) s

/-- Retirement (R261): the claimed frames are published as one latch of package scope, and a release point, once the written bytes of its
cores can go home (R335). -/
def State.retireKernel (s : State) (k : Nat) : State :=
  let kr := s.kernel k
  if kr.state ≠ .draining ∨ s.busy k ∨ kr.cores.any (fun c => s.anyCut ⟨c, 0⟩ (fun _ _ => true)) then s
  else
    let s1 := s.publishAll kr.cores
    let s2 := s1.latchPages (kr.claims.map (fun c => (c.slot, pteZ (s1.readW c.slot)))) (fun _ => true)
    let s3 := s2.setKernel k { s2.kernel k with
      state := .retired, claims := [], everRetired := true, retiredAt := s.time, unscanned := kr.cores }
    let s4 := s3.raiseQueue kr.qdesc
    if s.feature2.getLsbD 7 then s4 else s4.confirm k

def execKernelRetire (kernel : Nat) (s : State) : Host.Outcome State Fault Refusal := .next (s.retireKernel kernel).wake

/-- An operation whose service has failed is gone; OUT falls for one to a failed module (R343), at once where its strand is on its
core, else when it is back. -/
def State.lostPkt (s : State) (id : Nat) (p : Packet) : State :=
  match p.path with
  | some n =>
    if p.module_.isNone || p.smodule != s.module_.toNat then s.delPkt id
    else if s.ours p then (s.packBack p.src n).delPkt id
    else if s.home p then s.delPkt id
    else s.setPkt id { p with landed := true, refused := true, ret := false }
  | none => s.delPkt id

/-- A kernel that a queue has given. -/
def State.hasKernel (s : State) (k : Nat) : Bool := (s.kernels.lookup k).isSome

/-- A report of the engine (R317, R325). -/
def XferRec.report (r : XferRec) (ctx core slot : Nat) (f : XFault) : Report :=
  { kind := f.kind, cause := f.cause, va := f.va, pc := r.pc, eng := 1, strand := r.strand, eslot := slot,
    ctx := ctx, core := core, level := f.level, entry := f.entry, prog1 := BitVec.ofNat 64 r.done,
    prog2 := BitVec.ofNat 64 (LRec.of r.dst).total }

/-- The evidence of a fault of R259: the report that goes with it, and the state once the evidence is taken up. -/
def State.faultWhy (s : State) (k : Nat) (why : FaultWhy) : Option (Report × State) :=
  let kr := s.kernel k
  match why with
  | .held core n =>
    let l := s.ctxState kr.ctx core
    match l.held[n]? with
    | some h =>
      match h.err with
      | some (pc, rows, act) =>
        if ofKernel k h.job && ((l.strand h.strand).run != .running || (l.strand h.strand).birth != h.birth) then
          some ({ kind := 8, cause := 30, va := pc, pc := pc, eng := 1, strand := h.strand, ctx := kr.ctx, core := core,
                  prog1 := BitVec.ofNat 64 rows, prog2 := BitVec.ofNat 64 act },
                s.setCtxState kr.ctx core { l with held := l.held.eraseIdx n })
        else none
      | none => none
    | none => none
  | .memory flat =>
    if s.badUnits.contains (unitOf flat) || s.poisoned.contains (unitOf flat) then
      some ({ kind := 11, cause := if s.poisoned.contains (unitOf flat) then 31 else if isLm flat then 27 else 28,
              va := BitVec.ofNat 64 flat, ctx := kr.ctx }, s)
    else none
  | .scan core =>
    if (s.core core).fenced && kr.sinceScan.contains core then some ({ kind := 10, ctx := kr.ctx, core := core }, s) else none
  | .service pkt =>
    match s.pkt pkt with
    | some p => if p.refused && !p.landed && ofKernel k p.job then
        some (p.report (match p.kind with | .amo _ _ => 2 | _ => 1) 9, s.lostPkt pkt p) else none
    | none => none
  | .xfer core slot =>
    let l := s.ctxState kr.ctx core
    match AMap.get none l.xfers slot with
    | some r => match r.fault with
      | some f =>
        if ofKernel k r.job then
          some (r.report kr.ctx core slot f, s.setCtxState kr.ctx core { l with xfers := AMap.put l.xfers slot none })
        else none
      | none => none
    | none => none

/-- A fault pinned to a kernel (R259). Of one that has stopped already an error held for a strand of it still becomes a record (R200,
R409). -/
def execKernelFault (kernel : Nat) (why : FaultWhy) (cc : BitVec 2) (s : State) : Host.Outcome State Fault Refusal :=
  let die := (s.kernel kernel).die
  match (s.kernel kernel).state with
  | .pending | .running | .draining | .retired =>
    if !s.hasKernel kernel || !s.ringReady die then .next s
    else match s.faultWhy kernel why with
      | some (r, s1) => .next ((s1.kernelFaulted kernel cc.toNat).report die r).wake
      | none => .next s
  | _ => match why with
    | .held _ _ =>
      if !s.ringReady die then .next s
      else match s.faultWhy kernel why with
        | some (r, s1) => .next (s1.report die r).wake
        | none => .next s
    | _ => .next s

def execKernelAbandon (kernel : Nat) (cc : BitVec 2) (s : State) : Host.Outcome State Fault Refusal :=
  if s.hasKernel kernel then .next (s.kernelAbandoned kernel cc.toNat).wake else .next s

/-- Where a byte of a context's memory stands, LM at an offset or any other, for the control cores to write: in the image of its slot while
the context is away, and nowhere in a block that only the Hinge engine writes (R222, R356). -/
def State.ctxByte (s : State) (ctx flat : Nat) : Option Nat :=
  if !isLm flat then some flat
  else
    let c := lmCore flat
    let q := flat - lmFlat c 0
    if (s.ctxState ctx c).hingeCovers q 1 then none
    else if s.resident ctx c then some flat
    else if s.inAllot ctx c then some (s.slotBase ctx c + q)
    else none

/-- The bytes of a range of a context's memory written at their homes; bytes that do not translate are left. -/
def State.ctxWrite (s : State) (ctx va : Nat) : List Byte → State
  | [] => s
  | b :: t =>
    let s1 := match (s.rangesOf ctx 1 va 1).head?.bind (fun r => s.ctxByte ctx r.1) with
      | some f => (s.dropFrame (f / 64 * 64) 64).write f 1 b.toNat
      | none => s
    s1.ctxWrite ctx (va + 1) t

/-- Service of a FAULTED kernel: replayed where it may be, else abandoned (R258, R262). -/
def State.serviceKernel (s : State) (k cc : Nat) : State :=
  let kr := s.kernel k
  if kr.state ≠ .faulted then s
  else if kr.replay ∧ kr.replays < 3 ∧ !kr.everRetired then
    let s1 := ((s.discardClaims k).releaseKept k).ctxWrite kr.ctx kr.argsVa kr.args
    s1.setKernel k { s1.kernel k with state := .replaying }
  else s.kernelAbandoned k cc

def execKernelService (kernel : Nat) (cc : BitVec 2) (s : State) : Host.Outcome State Fault Refusal :=
  .next (s.serviceKernel kernel cc.toNat).wake

/-- The discard of a run is complete, its held errors reported: the kernel is PENDING again. The cores of the run stay on record: the
kernel is confirmed once every core that it ran on has passed a scan (R256, R413). -/
def execReplayDiscardComplete (kernel : Nat) (s : State) : Host.Outcome State Fault Refusal :=
  let kr := s.kernel kernel
  if kr.state ≠ .replaying ∨ s.anyCtxState (fun l => l.held.any (fun h => h.err.isSome && ofKernel kernel h.job)) then .next s
  else
    let s1 : State := { s with nextId := s.nextId + 1, domains := s.domains.filter (fun d => d.kernel != kernel) }
    .next (s1.setKernel kernel { kr with
      state := .pending, replays := kr.replays + 1, groups := [], bars := [], takenAt := s.nextId, unscanned := [] }).wake

end Sys2Proof.Machine
end

