-- ==== Sys2Proof/Machine/Queue.lean ====
section
/-!
DEFINITION. Queues (R241-R253, R263, R422): descriptors, posting and waiting, hardware slots, the scheduler's passes, and
kinfo.
-/
namespace Sys2Proof.Machine

/-! ## Descriptor fields (R241) -/

def State.qState (s : State) (q : Nat) : Nat := bits (s.qFlags q) 26 25
def State.qHost (s : State) (q : Nat) : Bool := bit (s.qFlags q) 24
def State.qPrio (s : State) (q : Nat) : Nat := bits (s.qFlags q) 19 16
def State.qDie (s : State) (q : Nat) : Nat := bits (s.qFlags q) 10 8
def State.qLogcap (s : State) (q : Nat) : Nat := bits (s.qFlags q) 4 0
def State.qSlot (s : State) (q : Nat) : Nat := bits (s.qFlags q) 37 32
/-- Address of the packet with a sequence number. -/
def State.qEntry (s : State) (q k : Nat) : Word := s.qRing q + BitVec.ofNat 64 (64 * (k % 2 ^ s.qLogcap q))

/-- The checks of qpost on a descriptor's fields (R250). -/
def State.qFieldsBad (s : State) (q : Nat) : Bool :=
  let f := s.qFlags q
  decide (s.qLogcap q < 4 ∨ 20 < s.qLogcap q) || bits f 63 38 != 0 || bits f 31 27 != 0 || bits f 23 20 != 0 ||
  bits f 15 11 != 0 || bits f 7 5 != 0 || bits (s.qIds q) 63 32 != 0

def Queue.none_ : Queue := { ctx := 0, va := 0, published := [], taken := [], mappedAt := 0, waitingAt := 0, key := 0 }
def State.queue (s : State) (q : Nat) : Queue := AMap.get Queue.none_ s.queues q
def State.setQueue (s : State) (q : Nat) (v : Queue) : State := { s with queues := AMap.put s.queues q v }
def State.isQueue (s : State) (q : Nat) : Bool := (s.queues.lookup q).isSome

/-- A posted packet that has not been taken. -/
def State.untaken (s : State) (q : Nat) : Bool := decide (s.qRead q < s.qWrite q)
/-- The key: context PRIO, then QPRIO (R245). -/
def State.qKey (s : State) (q : Nat) : Nat := 16 * s.ctxPrio (s.queue q).ctx + s.qPrio q

/-! ## Hardware slots (R244, R245) -/

def State.setQState (s : State) (q st slot : Nat) : State :=
  s.write (q + 0x28) 8 (setBits (setBits (s.qFlags q) 26 25 st) 37 32 slot).toNat

/-- The queues of a die in a state. -/
def State.queuesIn (s : State) (die st : Nat) : List Nat :=
  (s.queues.map (·.1)).filter (fun q => s.qState q == st && s.qDie q == die)
def State.waiters (s : State) (die : Nat) : List Nat := (s.queuesIn die 0).filter s.untaken

def State.freeSlot (s : State) (die : Nat) : Option Nat :=
  let used := (s.queuesIn die 1).map s.qSlot
  (List.range 64).find? (fun n => !used.contains n)

/-- A slot granted; a queue unmapped. -/
def State.mapQueue (s : State) (q slot : Nat) : State :=
  let s1 := (s.setQState q 1 slot).setQueue q { s.queue q with mappedAt := s.nextId, key := s.qKey q }
  { s1 with nextId := s1.nextId + 1 }
def State.unmapQueue (s : State) (q : Nat) : State :=
  let s1 := (s.setQState q 0 0).setQueue q { s.queue q with waitingAt := s.nextId }
  { s1 with nextId := s1.nextId + 1 }

/-- The first of a list under a comparison. -/
def bestOf (before : Nat → Nat → Bool) : List Nat → Option Nat
  | [] => none
  | x :: t => match bestOf before t with
    | none => some x
    | some y => some (if before y x then y else x)

/-- The waiter served first: the highest key, then the one that has waited longest. -/
def State.nextWaiter (s : State) (die : Nat) : Option Nat :=
  bestOf (fun x y => s.qKey y < s.qKey x || (s.qKey x == s.qKey y && decide ((s.queue x).waitingAt < (s.queue y).waitingAt)))
    (s.waiters die)
/-- The queue that has been mapped longest among some. -/
def State.longestMapped (s : State) (qs : List Nat) : Option Nat :=
  bestOf (fun x y => decide ((s.queue x).mappedAt < (s.queue y).mappedAt)) qs

/-- Waiting queues take free slots, and the slots of queues with nothing to take. -/
def State.settleIdle (s : State) (die : Nat) : Nat → State
  | 0 => s
  | n + 1 =>
    match s.nextWaiter die with
    | none => s
    | some q =>
      match s.freeSlot die with
      | some slot => (s.mapQueue q slot).settleIdle die n
      | none =>
        match s.longestMapped ((s.queuesIn die 1).filter (fun x => !s.untaken x)) with
        | some x => ((s.unmapQueue x).mapQueue q (s.qSlot x)).settleIdle die n
        | none => s

/-- A waiting queue whose key is above the lowest key of a MAPPED queue takes its slot. -/
def State.settleKeys (s : State) (die : Nat) : Nat → State
  | 0 => s
  | n + 1 =>
    match s.nextWaiter die with
    | none => s
    | some q =>
      let lowest := ((s.queuesIn die 1).map s.qKey).foldl min (s.qKey q)
      match s.longestMapped ((s.queuesIn die 1).filter (fun x => s.qKey x == lowest)) with
      | some x => if s.qKey x < s.qKey q then ((s.unmapQueue x).mapQueue q (s.qSlot x)).settleKeys die n else s
      | none => s

/-- A queue with a packet to take gets a slot of its die where one is free, or begins to wait. A slot that is freed within a slice goes to
the queue that asks next, the waiters being settled at boundaries: the spec does not say when a waiter takes it (DESIGN CHOICE,
assumption 74). -/
def State.wantSlot (s : State) (q : Nat) (wasWaiting : Bool) : State :=
  if !s.isQueue q || s.qState q != 0 || !s.untaken q then s
  else
    match s.freeSlot (s.qDie q) with
    | some slot => s.mapQueue q slot
    | none =>
      if wasWaiting then s
      else
        let s1 := s.setQueue q { s.queue q with waitingAt := s.nextId }
        { s1 with nextId := s1.nextId + 1 }

/-! ## qpost (R250) -/

/-- n bytes from an address, as pieces that lie in one page each. -/
def splitVa (va : Word) (n : Nat) : List (Word × Nat) :=
  let k := 4096 - va.toNat % 4096
  if n ≤ k then [(va, n)] else [(va, k), (va + BitVec.ofNat 64 k, n - k)]

/-- The physical address of a descriptor that an instruction names: an HBM page with SYNC. -/
def State.descAt (s : State) (w : Who) (k : Acc) (q : Word) : Except Trap (Nat × Xlat) :=
  if q.toNat % 64 ≠ 0 then .error (.align q)
  else
    match s.pieces w k .descriptor [(q, 64)] with
    | .error t => .error t
    | .ok ps =>
      match ps.map (fun p => (p.at_, p.x)) with
      | [(Place.hbm pa true, x)] => .ok (pa, x)
      | _ => .error { code := .access, cause := 5, va := q, kind := k.code }

/-- The ECC trap of a descriptor's read (R407, R408). -/
def State.descEcc (s : State) (w : Who) (k : Acc) (va : Word) (q : Nat) : Option Trap :=
  (s.eccCause (clusterOf w.core) q 64).map (fun c => { code := .ecc, cause := c, va := va, kind := k.code, hurt := (q, 64) })

/-- Bytes written at their pieces' homes, for a write that is complete when its instruction retires; others go on their way. -/
def State.homePieces (s : State) (w : Who) (ps : List Piece) (v : Nat) : State :=
  (ps.foldl (fun (x : State × Nat) p =>
    let b := x.2 % 2 ^ (8 * p.n)
    let s1 := match p.at_ with
      | .hbm pa _ => x.1.writeHome w pa p.n b p.va
      | .host h => x.1.writeHome w h p.n b p.va
      | _ => x.1.storeAt w p b
    (s1, x.2 / 2 ^ (8 * p.n))) (s, v)).1

/-- What the read-modify-write of qpost on WRITE does besides its value: it continues the release sequences of those bytes (R150). -/
def State.doneRmw (s : State) (w : Who) (va : Word) (q : Nat) : State :=
  (s.setHeads (s.strand w).points true q 8).missed (s.strand w).birth (s.via w va) q 8

/-- qpost (R250). P and the ring lie on the page types that ldt and stt take: R143's table names none for them (DESIGN CHOICE,
assumption 77). -/
def execQpost (f : Form) (d a b : Reg) (s : State) : Host.Outcome State Fault Refusal :=
  runInstr f [.mem, .dst d, .src a, .src b] (fun s w =>
    let qv := s.reg w a
    let pv := s.reg w b
    if qv.toNat % 64 ≠ 0 then .error (.align qv)
    else if pv.toNat % 64 ≠ 0 then .error (.align pv)
    else
      match s.descAt w .atomic qv with
      | .error t => .error t
      | .ok (q, x) =>
        match s.pieces w .load .tile [(pv, 64)] with
        | .error t => .error t
        | .ok ps =>
          if s.rowAway w ps || s.cut w (.hbm q true) then s.holdBack w .remote
          else if ps.any (fun p => s.mustWait w false p.at_.flat p.n) || s.mustWait w true q 64 then s.holdBack w .operand
          else
            match (s.useAll w ps).readRows w ps with
            | .error t => .error t
            | .ok (vs, s1) =>
              match s.descEcc w .atomic qv q with
              | some t => .error t
              | none =>
                if s.qHost q || s.qFieldsBad q then .error { code := .access, cause := 36, va := qv, kind := 2 }
                else if s.relBusy w .all .package then s.holdBack w .remote
                else
                  let s2 := ((s1.useXlat w x).learn w q 64).publish w .all .package
                  if s.qState q = 3 then done (s2.setReg w d (-2)) 16
                  else if s.qWrite q - s.qRead q = 2 ^ s.qLogcap q then done (s2.setReg w d (-1)) 16
                  else
                    let k := s.qWrite q
                    match s.pieces w .store .tile (splitVa (s.qEntry q k) 64) with
                    | .error t => .error t
                    | .ok rs =>
                      if rs.any (fun p => match p.at_ with | .hbm _ _ | .host _ => s.cut w p.at_ | _ => false) then s.holdBack w .remote else
                      let s3 := (((s2.useAll w rs).forget w q 8).bypass (clusterOf w.core) q 64).doneRmw w qv q
                      let s4 := (s3.write q 8 (k + 1)).homePieces w rs (vs.headD 0)
                      done ((s4.wantSlot q (s.untaken q)).setReg w d (BitVec.ofNat 64 k)) 16) s

/-- A packet is published once its write has completed (R250). -/
def State.publishPacket (s : State) (q k : Nat) : State :=
  let v := s.queue q
  let ranges := s.rangesOf v.ctx 2 (s.qEntry q k).toNat 64
  if !s.isQueue q ∨ s.qWrite q ≤ k ∨ k < s.qRead q ∨ v.published.contains k ∨ v.taken.contains k ∨
      s.net.any (fun e => e.2.kind.isStore && !e.2.landed && ranges.any (fun r => overlap e.2.flat e.2.bytes r.1 r.2)) then s
  else s.setQueue q { v with published := v.published ++ [k] }

def execPacketPublished (queue k : Nat) (s : State) : Host.Outcome State Fault Refusal :=
  .next (s.publishPacket queue k).wake

/-! ## qwait (R251) -/

/-- DONE, or CONFD. -/
def State.qCount (s : State) (q : Nat) (conf : Bool) : Nat := if conf then s.qConfd q else s.qDone q

/-- qwait (R251). A descriptor in error traps ECC at issue, as every read of it does, and is not looked at again when the wait ends: R251
lists no ECC (DESIGN CHOICE, assumption 78). -/
def execQwait (f : Form) (conf : Bool) (d a b : Reg) (s : State) : Host.Outcome State Fault Refusal :=
  runInstr f [.mem, .dst d, .src a, .src b] (fun s w =>
    match s.descAt w .load (s.reg w a) with
    | .error t => .error t
    | .ok (q, x) =>
      if s.mustWait w false q 64 then s.holdBack w .operand
      else if s.readsBusy w || s.cut w (.hbm q true) || s.takeCut w .all then s.holdBack w .remote
      else
        match s.descEcc w .load (s.reg w a) q with
        | some t => .error t
        | none =>
          let n := (s.reg w b).toNat
          let s1 := s.useXlat w x
          if s.qWrite q ≤ n ∨ n < s.qCount q conf then
            done ((s1.setReg w d (BitVec.ofNat 64 (s.qCount q conf))).takeIn w .all) 16
          else .ok (.hold (s1.waiting w { mkWait .qwait false (lenBytes f.len) 16 with
            d := d, obj := s.reg w a, flat := q, gen := s.reg w b, deadline := if conf then 1 else 0 }))) s

def execQwaitEnd (core strand : Nat) (s : State) : Host.Outcome State Fault Refusal :=
  let w : Who := ⟨core, strand⟩
  match s.waitOf w [.qwait] with
  | none => .next s
  | some v =>
    let c := s.qCount v.flat (v.deadline = 1)
    if v.gen.toNat < c && !s.takeCut w .all then .next (((s.setReg w v.d (BitVec.ofNat 64 c)).takeIn w .all).finish w v.len v.eu).wake
    else .next s

/-! ## kinfo (R263) -/

def KState.num : KState → Nat
  | .pending => 0 | .running => 1 | .draining => 2 | .retired => 3 | .confirmed => 4 | .faulted => 5 | .replaying => 6
  | .abandoned => 7

/-- The status word. -/
def statusWord (qid replays state gleft : Nat) : Word :=
  BitVec.ofNat 64 (2 ^ 48 * qid + 2 ^ 38 * replays + 2 ^ 32 * state + gleft)
def Kernel.status (k : Kernel) : Word :=
  statusWord k.qid k.replays k.state.num
    (match k.state with
    | .pending | .running | .draining => k.grid - k.ended
    | _ => 0)

/-- The status of the kernel with a sequence number of a queue. Packets taken out of order can let READ pass CONFD + 1,024: a kernel that
has lost its entry so is EXPIRED, though not confirmed (DESIGN CHOICE, assumption 79). -/
def State.kstatus (s : State) (q n : Nat) : Word :=
  let qid := bits (s.qIds q) 15 0
  match s.kernelAt q n with
  | some (_, k) => if n + 1024 < s.qRead q then statusWord qid 0 10 0 else k.status
  | none => statusWord qid 0 (if s.qWrite q ≤ n then 9 else if s.qRead q ≤ n then 8 else 10) 0

def execKinfo (f : Form) (d a b : Reg) (s : State) : Host.Outcome State Fault Refusal :=
  if a = 0 then
    runInstr f [.dst d] (fun s w =>
      done (s.setReg w d (match (s.strand w).kern with
        | some k => (s.kernel k).status
        | none => statusWord 0 0 9 0)) 16) s
  else
    runInstr f [.mem, .dst d, .src a, .src b] (fun s w =>
      match s.descAt w .load (s.reg w a) with
      | .error t => .error t
      | .ok (q, x) =>
        if s.mustWait w false q 64 then s.holdBack w .operand
        else if s.cut w (.hbm q true) then s.holdBack w .remote
        else
          match s.descEcc w .load (s.reg w a) q with
          | some t => .error t
          | none =>
            if bits (s.qIds q) 31 16 ≠ s.ctxOf w.core then .error { code := .access, cause := 37, va := s.reg w a }
            else done ((s.useXlat w x).setReg w d (s.kstatus q (s.reg w b).toNat)) 16) s

/-! ## The queue as system software handles it (R241, R244, R245) -/

/-- A queue created: its descriptor, written whole, lies on an HBM page with SYNC of the context, which holds an allotment on
its die; the number is free in the context. A queue that is CLOSED, or whose context is destroyed, keeps its descriptor's place and its
number (DESIGN CHOICE, assumption 86). -/
def execQueueCreate (va ring : Word) (ctx qid : BitVec 16) (hostq : Bool) (qprio : BitVec 4) (die : BitVec 3)
    (logcap : BitVec 5) (s : State) : Host.Outcome State Fault Refusal :=
  let c := ctx.toNat
  match walk s c va with
  | .stop _ _ _ => .next s
  | .leaf e _ _ z =>
    match leafTarget e (va.toNat % pageSize z) with
    | .hbm q true =>
      if !(s.ctxRec c).alive || va.toNat % 64 != 0 || ring.toNat % 64 != 0 || decide (logcap.toNat < 4 ∨ 20 < logcap.toNat) ||
          s.allot c die.toNat == 0xFFFFFFFF || s.isQueue q ||
          s.queues.any (fun e => e.2.ctx == c && bits (s.qIds e.1) 15 0 == qid.toNat) then .next s
      else
        let flags := 2 ^ 24 * (if hostq then 1 else 0) + 2 ^ 16 * qprio.toNat + 2 ^ 8 * die.toNat + logcap.toNat
        let s1 := (s.dropFrame q 64).write q 64
          (2 ^ 256 * ring.toNat + 2 ^ 320 * flags + 2 ^ 384 * (2 ^ 16 * c + qid.toNat))
        .next (s1.setQueue q { Queue.none_ with ctx := c, va := va }).wake
    | _ => .next s

/-- Reset of a FAULTED queue. One with packets to take takes a free slot at once, as one that is posted to does: the spec names a post
alone (DESIGN CHOICE, assumption 73). -/
def execQueueReset (queue : Nat) (s : State) : Host.Outcome State Fault Refusal :=
  if s.isQueue queue && s.qState queue == 2 then .next ((s.setQState queue 0 0).wantSlot queue false).wake else .next s

/-- Close: no further post is accepted, and untaken packets are never taken. -/
def execQueueClose (queue : Nat) (s : State) : Host.Outcome State Fault Refusal :=
  if s.isQueue queue then .next (s.setQState queue 3 0).wake else .next s

/-- The host's doorbell (R252, R422): a 16-byte write of a descriptor's address and the new WRITE. One that is ignored is reported as a
refused write over the host link is, to the ring of die 0 (R415). -/
def execHostDoorbell (die : BitVec 3) (k : BitVec 6) (full : Bool) (desc write : Word) (s : State) :
    Host.Outcome State Fault Refusal :=
  let q := desc.toNat
  let n := write.toNat
  let ok := full && s.isQueue q && s.qHost q && s.qDie q == die.toNat && s.qState q != 3 &&
    decide (s.qWrite q < n ∧ n ≤ s.qRead q + 2 ^ s.qLogcap q)
  if ok then
    let was := s.untaken q
    let v := s.queue q
    let fresh := ((List.range (n - s.qRead q)).map (· + s.qRead q)).filter
      (fun i => !v.published.contains i && !v.taken.contains i)
    let s1 := (s.write q 8 n).setQueue q { v with published := v.published ++ fresh }
    .next (s1.wantSlot q was).wake
  else
    .next (s.report 0 { kind := 15, va := BitVec.ofNat 64 (dieBlock die.toNat + 0x30_0000 + 0x10 * k.toNat) }).wake

/-! ## Validity of a packet (R243) -/

/-- The CAUSE with which the control cores' read of a target is refused (R318): a core outside the allotment, a position of a
strand's window, a module without a route, a module that has failed (R343). -/
def State.sysCause (s : State) (ctx : Nat) : Target → Option Nat
  | .lm c off => if !s.inAllot ctx c then some 33 else if 0x20000 ≤ off then some 8 else none
  | .peer m _ _ => if (s.route m).isNone then some 32 else if (s.modEnt m).state = .failed then some 9 else none
  | _ => none

/-- A read of the control cores that fails: its CAUSE, the first byte that failed, and the level and the entry at which its walk ended
(R317, R318, R407). -/
structure SysStop where
  cause : Nat
  va    : Nat
  level : Nat
  entry : Word
  deriving DecidableEq, Repr

/-- n bytes of a context's memory as the control cores read them: the bytes, or where the read fails; or nothing yet,
for the LM of a core where the context is not ACTIVE (R161). What lies on an MMIO page is read as bytes of memory: the spec does not say
whether it may be there (DESIGN CHOICE, assumption 76). -/
def State.sysRead (s : State) (ctx : Nat) : Nat → Nat → Nat → Except (Option SysStop) (List Byte)
  | 0, _, _ => .ok []
  | fuel + 1, va, n =>
    if n = 0 then .ok []
    else
      match walk s ctx (BitVec.ofNat 64 va) with
      | .stop c l e => .error (some ⟨c, va, l, stopEntry c e⟩)
      | .leaf e l _ z =>
        let off := va % pageSize z
        let tgt := leafTarget e off
        let k := min n (pageSize z - off)
        let f := frameFlat e + off
        if !pteR e then .error (some ⟨4, va, l, e⟩)
        else if (s.sysCause ctx tgt).isSome then .error ((s.sysCause ctx tgt).map (fun c => ⟨c, va, l, e⟩))
        else if (match tgt with | .lm c _ => !s.isActive ctx c | _ => false) then .error none
        else match (unitsOf f k).find? (fun u => (s.homeCause u 1).isSome) with
        | some u => .error (some ⟨(s.homeCause u 1).getD 0, va + (u - f), 0, 0⟩)
        | none =>
          match s.sysRead ctx fuel (va + k) (n - k) with
          | .error x => .error x
          | .ok t => .ok ((List.range k).map (fun i => memByte s.mem (f + i)) ++ t)

/-- The fields of a packet that make it valid. -/
def State.packetOk (s : State) (k : Kernel) (n : Nat) : Bool :=
  let ndep := k.pk 0x20 15 14
  let dep (i : Nat) : Bool :=
    let o := 0x28 + 8 * i
    if i < ndep then
      k.pk o 63 33 == 0 && decide (1 ≤ k.pk o 31 0 ∧ k.pk o 31 0 ≤ n) && (k.pk o 32 32 == 0 || s.feature2.getLsbD 7)
    else k.pk o 63 0 == 0
  k.code % 4 == 0 && k.argsVa % 8 == 0 && k.gridX != 0 && k.gridY != 0 && k.pk 0x10 63 50 == 0 &&
  decide (k.pk 0x10 49 40 ≤ 512) && reqOk (BitVec.ofNat 64 (k.pk 0x18 63 0)) &&
  k.pk 0x20 63 16 == 0 && k.pk 0x20 13 12 == 0 && k.pk 0x20 7 4 == 0 && dep 0 && dep 1 && dep 2 &&
  (!k.replay || s.feature2.getLsbD 6)

/-- Packet n of a queue as the scheduler reads it: the kernel it would make, or its fault, or nothing yet. -/
def State.readPacket (s : State) (q n : Nat) : Except (Option SysStop) Kernel :=
  let v := s.queue q
  let at_ := (s.qEntry q n).toNat
  match s.sysRead v.ctx 2 at_ 64 with
  | .error x => .error x
  | .ok bs =>
    let k : Kernel := { Kernel.none_ with
      ctx := v.ctx, qdesc := q, qva := v.va, qid := bits (s.qIds q) 15 0, die := s.qDie q, kseq := n,
      packet := BitVec.ofNat 512 (natOfBytes bs) }
    if !s.packetOk k n then .error (some ⟨0, at_, 0, 0⟩)
    else
      match s.sysRead v.ctx 3 k.argsVa k.argBytes with
      | .error x => .error x
      | .ok args => .ok { k with args := args }

/-- The dependences of a packet are met. -/
def State.depsMet (s : State) (q : Nat) (k : Kernel) : Bool :=
  let met (i : Nat) : Bool :=
    let o := 0x28 + 8 * i
    !decide (i < k.pk 0x20 15 14) || decide (k.kseq - k.pk o 31 0 < s.qCount q (k.pk o 32 32 == 1))
  met 0 && met 1 && met 2 && (k.pk 0x20 11 11 == 0 || s.qDone q == k.kseq)

/-! ## A pass of the scheduler (R247, R248) -/

/-- The packets the scheduler considers from a queue, in sequence order. -/
def State.considered (s : State) (q : Nat) : List Nat :=
  let v := s.queue q
  ((List.range 16).map (· + s.qRead q)).filter (fun k =>
    decide (k < s.qWrite q) && v.published.contains k && !v.taken.contains k)

/-- What a pass finds in a queue: an invalid packet, or the one it would take. -/
inductive Found where
  | bad (n : Nat) (x : SysStop)
  | take (k : Kernel)
  | nothing
  deriving DecidableEq, Repr

/-- Every considered packet is checked in each pass, in sequence order: one that cannot be read yet holds the queue up; none is taken
while READ - CONFD is 1,024 (R247, R253). -/
def State.candidate (s : State) (q : Nat) : Found :=
  let heavy := AMap.get false s.heavy (s.qDie q)
  let full := decide (s.qConfd q + 1024 ≤ s.qRead q)
  let reads := (s.considered q).map (fun n => (n, s.readPacket q n))
  match reads.findSome? (fun r => match r.2 with | .error e => some (r.1, e) | .ok _ => none) with
  | some (n, some x) => .bad n x
  | some (_, none) => .nothing
  | none =>
    reads.foldl (fun x r =>
      match r.2 with
      | .error _ => x
      | .ok k =>
        if full || !s.depsMet q k then x
        else match x with
          | .take best =>
            let rank (k : Kernel) : Nat := 2 * k.pk 0x20 3 0 + (if heavy then k.pk 0x20 10 10 else 0)
            if rank best < rank k then .take k else x
          | _ => .take k) .nothing

/-- READ moves past every taken packet. -/
def State.advanceRead (s : State) (q : Nat) : Nat → State
  | 0 => s
  | n + 1 =>
    let v := s.queue q
    let r := s.qRead q
    if v.taken.contains r then
      ((s.write (q + 0x08) 8 (r + 1)).setQueue q { v with taken := v.taken.filter (fun k => k != r) }).advanceRead q n
    else s

/-- A packet taken: its kernel is PENDING (R253, R258). -/
def State.takePacket (s : State) (q : Nat) (k : Kernel) : State :=
  let v := s.queue q
  let s1 := s.setQueue q { v with published := v.published.filter (fun n => n != k.kseq), taken := k.kseq :: v.taken }
  let s2 := s1.setKernel s1.nextId { k with takenAt := s1.nextId }
  State.advanceRead { s2 with nextId := s2.nextId + 1 } q 17

/-- One queue served in a pass. -/
def State.serveQueue (s : State) (q : Nat) : State :=
  if s.qState q ≠ 1 then s
  else
    match s.candidate q with
    | .nothing => s
    | .bad n x =>
      if !s.ringReady (s.qDie q) then s
      else
        let s1 := (s.setQState q 2 0).write (q + 0x38) 8 n
        s1.report (s.qDie q) { kind := 16, cause := x.cause, va := BitVec.ofNat 64 x.va, level := x.level, entry := x.entry,
                                 ctx := (s.queue q).ctx }
    | .take k =>
      let die := s.qDie q
      let s1 := s.takePacket q k
      if (s1.firstQ.lookup (8 + die)).isSome then s1 else { s1 with firstQ := AMap.put s1.firstQ (8 + die) q }

/-- A list of numbers put in rising order of a rank. -/
def insertBy (rank : Nat → Nat) (x : Nat) : List Nat → List Nat
  | [] => [x]
  | y :: t => if rank x ≤ rank y then x :: y :: t else y :: insertBy rank x t
def sortBy (rank : Nat → Nat) (l : List Nat) : List Nat := l.foldr (insertBy rank) []

/-- The order of a pass, with the keys of the last slice boundary (R246; one of a queue mapped since is as its mapping found it,
assumption 65): by key; then, while HEAVY, queues whose candidate is LIGHT; then round-robin after the queue served
first in the previous slice, in the circular order of the descriptors' addresses, for the spec names none (DESIGN CHOICE,
assumption 75). -/
def State.passRank (s : State) (die q : Nat) : Nat :=
  let light := match s.candidate q with
    | .take k => AMap.get false s.heavy die && k.pk 0x20 10 10 == 1
    | _ => false
  ((255 - (s.queue q).key) * 2 + (if light then 0 else 1)) * 2 ^ 64 + (q + 2 ^ 60 - AMap.get 0 s.firstQ die - 1) % 2 ^ 60

def execSchedulerPass (die : BitVec 3) (s : State) : Host.Outcome State Fault Refusal :=
  let d := die.toNat
  .next ((sortBy (s.passRank d) (s.queuesIn d 1)).foldl State.serveQueue s).wake

end Sys2Proof.Machine
end

