-- ==== Sys2Proof/Machine/Group.lean ====
section
/-!
DEFINITION. Groups as the die placer handles them: placement, start, slice boundaries and patience (R59, R246, R254, R255,
R264-R270).
-/
namespace Sys2Proof.Machine

/-! ## Placement (R265-R268) -/

/-- A rectangle of a kernel lies on its die and in the allotment of its context, and no core of it is fenced (R413). -/
def State.rectFits (s : State) (k : Kernel) (x0 y0 : Nat) : Bool :=
  decide (x0 + k.gw ≤ 256 ∧ y0 + k.gh ≤ 128) &&
  (rectCores (k.rectAt x0 y0)).all (fun c => dieOf c == k.die && s.inAllot k.ctx c && !(s.core c).fenced)

/-- No strand of another kernel runs on a core, or has a place reserved there; asked for a kernel with an .lm image. -/
def State.imageOk (s : State) (kid : Nat) (k : Kernel) (c : Nat) : Bool :=
  (s.ctxRec k.ctx).image.isEmpty ||
  ((List.range 4).all (fun n =>
      let st := (s.ctxState k.ctx c).strand n
      st.run != .running || ofKernel kid st.job) &&
    s.kernels.all (fun e => e.1 == kid || e.2.ctx != k.ctx || e.2.groups.all (fun g =>
      g.2.state != .starting || g.2.members.all (fun m => m.who.core != c))))

/-- The region of the HOLDING group of the die keeps a younger group off a core (R268). -/
def State.keptOff (s : State) (k : Kernel) (c : Nat) : Bool :=
  match (AMap.get Patience.none_ s.patience k.die).holding with
  | none => false
  | some (hk, hg) => decide ((s.kernel hk).takenAt < k.takenAt) && inRect ((s.kernel hk).groupRect hg) c

/-- Every core of a rectangle meets the conditions of R265. -/
def State.mayPlace (s : State) (kid x0 y0 : Nat) : Bool :=
  let k := s.kernel kid
  s.rectFits k x0 y0 && k.claim.le Counts.pool &&
  (rectCores (k.rectAt x0 y0)).all (fun c =>
    s.isActive k.ctx c && !(s.freePlaces k.ctx c).isEmpty && s.imageOk kid k c && !s.keptOff k c)

/-- The kernel's groups may be placed, and with ORDERED no lower group is unplaced (R267). -/
def Kernel.turnOf (k : Kernel) (g : Nat) : Bool :=
  (k.state == .pending || k.state == .running) && decide (g < k.grid) &&
  (!k.ordered || (List.range g).all (fun h => (k.group h).state != .pending && (k.group h).state != .holding))

/-- The placer finds a corner, or a held region is complete: places are reserved. -/
def State.placeGroup (s : State) (kid g x0 y0 : Nat) : State :=
  let s0 := s.holdPlaces (s.kernel kid).die
  let k := s0.kernel kid
  let gr := k.group g
  if !k.turnOf g then s
  else if gr.state = .holding then
    if (rectCores (k.groupRect g)).all (fun c => !(s0.core c).fenced && gr.members.any (fun m => m.who.core == c)) then
      let p := AMap.get Patience.none_ s0.patience k.die
      let s1 := s0.setGroup kid g { gr with state := .starting }
      { s1 with patience := AMap.put s1.patience k.die { p with holding := none } }
    else s0
  else if gr.state = .pending ∧ s0.mayPlace kid x0 y0 then
    let ms := (rectCores (k.rectAt x0 y0)).map (fun c => (⟨⟨c, ((s0.freePlaces k.ctx c).headD 0)⟩, false⟩ : Member))
    s0.setGroup kid g { state := .starting, x0 := x0, y0 := y0, members := ms }
  else s0

def execGroupPlace (kernel group x0 y0 : Nat) (s : State) : Host.Outcome State Fault Refusal :=
  .next (s.placeGroup kernel group x0 y0).wake

/-! ## Start (R254, R255, R266) -/

/-- The registers of a base block at the start of a strand. -/
def startRegs (regs : AMap Word) (n : Nat) (vs : List Word) : AMap Word :=
  (List.range 16).foldl (fun m i => AMap.put m (16 * n + i) (vs.getD i 0)) regs

/-- A strand with the start values of its kernel, in a group with a corner. -/
def Kernel.startStrand (k : Kernel) (kid g : Nat) (gr : Group) (w : Who) (birth : Nat) : Strand :=
  { Strand.reset with
    run := .running, pc := BitVec.ofNat 64 k.code, claim := k.claim, job := some (kid, g), birth := birth
    domain := BitVec.ofNat 64 (2 ^ 32 + k.rectAt gr.x0 gr.y0)
    gid := BitVec.ofNat 64 (2 ^ 36 * (coreY w.core - gr.y0) + 2 ^ 32 * (coreX w.core - gr.x0) + g) }

/-- Errors in the storage a start writes whole are gone (R407). -/
def startClean (n : Nat) (e : PErr) : Bool :=
  match e with
  | .reg r => r / 16 != n
  | .pred m => m != n
  | .status m sel => m != n || sharedStatus sel
  | _ => true

/-- One strand of a group set running. -/
def State.startMember (s : State) (kid g : Nat) (w : Who) : State :=
  let k := s.kernel kid
  let c := s.core w.core
  let l := c.live
  let st := k.startStrand kid g (k.group g) w s.nextId
  let l1 := { l with
    strands := AMap.put l.strands w.strand st
    regs := startRegs l.regs w.strand [0, BitVec.ofNat 64 k.argsVa, BitVec.ofNat 64 k.kseq, k.qva]
    perr := l.perr.filter (startClean w.strand) }
  let s1 := s.setCore w.core { c with live := l1, lastK := 3 }
  { s1 with nextId := s1.nextId + 1 }

/-- Bytes written from an LM offset on, one by one but for those of a block that only the Hinge engine writes (R356). -/
def State.putAround (s : State) (c off : Nat) : List Byte → State
  | [] => s
  | b :: t => (if (s.live c).hingeCovers off 1 then s else s.write (lmFlat c off) 1 b.toNat).putAround c (off + 1) t

/-- The .lm image of a context written into the LM of a core: at most 64 KiB from offset 0 (R59), around the blocks of its open Hinge
slots (R356). -/
def State.putImage (s : State) (ctx c : Nat) : State :=
  let image := (s.ctxRec ctx).image.take 0x10000
  if (s.live c).hingeCovers 0 image.length then s.putAround c 0 image
  else { s with mem := memWriteBytes s.mem (lmFlat c 0) image }.clearUnits (lmFlat c 0) image.length

/-- A group of the kernel's present run has started on a core (R59, R265). -/
def Kernel.startedOn (k : Kernel) (c : Nat) : Bool :=
  k.groups.any (fun g => (g.2.state == .running || g.2.state == .ended) && g.2.members.any (fun m => m.who.core == c))

/-- A group starts as one event, once every core of it is ACTIVE for its context. -/
def State.startGroup (s : State) (kid g : Nat) : State :=
  let k := s.kernel kid
  let gr := k.group g
  let cs := gr.members.map (·.who.core)
  let before (h : Nat) : Bool := let x := (k.group h).state; x == .running || x == .ended
  if (k.state ≠ .pending ∧ k.state ≠ .running) ∨ gr.state ≠ .starting ∨ !cs.all (s.isActive k.ctx) ∨
      gr.members.any (fun m => s.takeCut m.who .all) ∨ (k.ordered && !(List.range g).all before) then s
  else
    let s1 := cs.foldl (fun acc c => if k.startedOn c then acc else acc.putImage k.ctx c) s
    let s2 := gr.members.foldl (fun acc m => acc.startMember kid g m.who) s1
    let s3 := gr.members.foldl (fun acc m => acc.takeIn m.who .all) s2
    let k3 := s3.kernel kid
    let s4 := s3.setKernel kid { k3 with state := .running, cores := k3.cores ++ cs.filter (fun c => !k3.cores.contains c),
                                              sinceScan := k3.sinceScan ++ cs.filter (fun c => !k3.sinceScan.contains c) }
    s4.setGroup kid g { gr with state := .running }

def execGroupStart (kernel group : Nat) (s : State) : Host.Outcome State Fault Refusal := .next (s.startGroup kernel group).wake

/-! ## Slice boundaries (R246, R268) -/

/-- The first pending group of a kernel. -/
def Kernel.firstPending (k : Kernel) : Option Nat :=
  if k.state ≠ .pending ∧ k.state ≠ .running then none
  else (List.range (k.groups.length + 1)).find? (fun g => decide (g < k.grid) && (k.group g).state == .pending)

/-- The oldest pending group of a die. -/
def State.oldestPending (s : State) (die : Nat) : Option (Nat × Nat) :=
  (s.kernels.foldl (fun (best : Option (Nat × Nat × Nat)) e =>
    if e.2.die ≠ die then best
    else match e.2.firstPending with
      | none => best
      | some g => match best with
        | some (t, _, _) => if e.2.takenAt < t then some (e.2.takenAt, e.1, g) else best
        | none => some (e.2.takenAt, e.1, g)) none).map (·.2)

/-- The region of a group that becomes HOLDING: the corner whose cores have the most free places; the lowest row, then the
lowest column, on a tie. -/
def State.bestRegion (s : State) (kid : Nat) : Option (Nat × Nat) :=
  let k := s.kernel kid
  let corners := (List.range 64).flatMap (fun y => (List.range 64).map (fun x => (k.die % 4 * 64 + x, k.die / 4 * 64 + y)))
  (corners.foldl (fun (best : Option (Nat × Nat × Nat)) c =>
    let cs := rectCores (k.rectAt c.1 c.2)
    if s.rectFits k c.1 c.2 && k.claim.le Counts.pool && cs.all (s.imageOk kid k) then
      let n := cs.foldl (fun a x => a + (s.freePlaces k.ctx x).length) 0
      match best with
      | some (m, _, _) => if m < n then some (n, c) else best
      | none => some (n, c)
    else best) none).map (·.2)

/-- The step of placement patience at a boundary. Where no corner will do at the eighth, the group stays PENDING, and each later boundary
tries again (DESIGN CHOICE, assumption 88). -/
def State.stepPatience (s : State) (die : Nat) : State :=
  let p := AMap.get Patience.none_ s.patience die
  let old := s.oldestPending die
  let n := if old = none then 0 else if old = p.oldest then p.count + 1 else 1
  let p1 := { p with oldest := old, count := n, seen := some s.time.toNat }
  let s1 : State := { s with patience := AMap.put s.patience die p1 }
  match old, p.holding with
  | some (kid, g), none =>
    if n < 8 then s1
    else
      match s1.bestRegion kid with
      | none => s1
      | some (x, y) =>
        let s2 : State := { s1 with patience := AMap.put s1.patience die { p1 with holding := some (kid, g), oldest := none, count := 0 } }
        (s2.setGroup kid g { state := .holding, x0 := x, y0 := y, members := [] }).holdPlaces die
  | _, _ => s1

/-- The MAPPED queues of a die take their places with their present keys (R246). -/
def State.settleOrder (s : State) (die : Nat) : State :=
  (s.queuesIn die 1).foldl (fun acc q => acc.setQueue q { acc.queue q with key := acc.qKey q }) s

/-- A slice boundary of a die (R246). The occupancy of the HBM ports in the slice, compared with HEAVYPCT, comes in as
`heavy`. -/
def State.boundary (s : State) (die : Nat) (heavy : Bool) : State :=
  let t := (s.tslice.lookup die).getD (s.ctl (dieBlock die)).toNat
  let p := AMap.get Patience.none_ s.patience die
  if t = 0 ∨ s.time.toNat % t ≠ 0 ∨ p.seen = some s.time.toNat then s
  else
    let s1 : State := { s with
      tslice := AMap.del s.tslice die, heavy := AMap.put s.heavy die heavy
      firstQ := match s.firstQ.lookup (8 + die) with
        | some q => AMap.del (AMap.put s.firstQ die q) (8 + die)
        | none => s.firstQ }
    let n := s1.queues.length + 1
    (((s1.settleIdle die n).settleKeys die n).settleOrder die).stepPatience die

def execSliceBoundary (die : BitVec 3) (heavy : Bool) (s : State) : Host.Outcome State Fault Refusal :=
  .next (s.boundary die.toNat heavy).wake

end Sys2Proof.Machine
end

