-- ==== Sys2Proof/Machine/Domain.lean ====
section
/-!
DEFINITION. Supersteps: gid, gdom, sstep, tsend, and the phases of a domain (R272-R281); class 7, 16 eu.
-/
namespace Sys2Proof.Machine

/-! ## gid, gdom (R278, R279) -/

/-- The kernel record, the kernel and the group of a strand; a strand of no kernel has none. -/
def State.jobOf (s : State) (w : Who) : Kernel × Nat × Nat :=
  match (s.strand w).job with
  | some (k, g) => (s.kernel k, k, g)
  | none => (Kernel.none_, 0, 0)

/-- The value q selects. -/
def gidVal (s : State) (w : Who) (q : Nat) : Word :=
  let (k, _, g) := s.jobOf w
  let v := (s.strand w).gid
  if q = 0 then BitVec.ofNat 64 (bits v 31 0)
  else if q = 1 then BitVec.ofNat 64 (2 ^ 32 * (g / k.gridX) + g % k.gridX)
  else if q = 2 then BitVec.ofNat 64 (if (s.strand w).job.isSome then k.groupRect g else 0)
  else if q = 3 then BitVec.ofNat 64 (2 ^ 32 * k.gridY + k.gridX)
  else BitVec.ofNat 64 (bits v 39 32)

def execGid (f : Form) (d : Reg) (q : BitVec 6) (s : State) : Host.Outcome State Fault Refusal :=
  runInstr f (.dst d :: if q = 0 ∨ 3 < q.toNat then [.status 0x26] else []) (fun s w => done (s.setReg w d (gidVal s w q.toNat)) 16) s

/-- Every group of the level-n block of a strand has started. -/
def State.blockUp (s : State) (w : Who) (n : Nat) : Bool :=
  let (k, _, g) := s.jobOf w
  (k.block n g).all (fun h => (k.group h).state == .running || (k.group h).state == .ended)

/-- DOMAIN set to a level (R272). -/
def State.setDomain (s : State) (w : Who) (n : Nat) : State :=
  let (k, _, g) := s.jobOf w
  (s.setStrand w { s.strand w with domain := BitVec.ofNat 64 (2 ^ 32 * n + k.blockRect n g) }).clearStatus w 0x24

/-- The allotment's rectangle is too small for the block ever to be resident (R279). -/
def State.neverResident (s : State) (w : Who) (n : Nat) : Bool :=
  let (k, _, g) := s.jobOf w
  let r := s.allot (s.ctxOf w.core) (dieOf w.core)
  let wd := field r 23 16 + 1 - field r 7 0
  let ht := field r 31 24 + 1 - field r 15 8
  decide (4 * (wd / k.gw) * (ht / k.gh) < (k.block n g).length)

def execGdom (f : Form) (n : BitVec 6) (s : State) : Host.Outcome State Fault Refusal :=
  runInstr f [] (fun s w =>
    if (s.strand w).phase.inPhase || s.neverResident w n.toNat then .error { code := .slot }
    else if s.blockUp w n.toNat then done (s.setDomain w n.toNat) 16
    else .ok (.hold (s.waiting w { mkWait .gdom false (lenBytes f.len) 16 with gen := n.setWidth 64 }))) s

def execGdomWaitEnd (core strand : Nat) (s : State) : Host.Outcome State Fault Refusal :=
  let w : Who := ⟨core, strand⟩
  match s.waitOf w [.gdom] with
  | none => .next s
  | some v => .next (if s.blockUp w v.gen.toNat then ((s.setDomain w v.gen.toNat).finish w v.len v.eu).wake else s)

/-! ## Slot maps (R274) -/

def mapHalf (m : BitVec 512) (n : Nat) : Nat := m.toNat / 2 ^ (16 * n) % 2 ^ 16
def mapNslot (m : BitVec 512) : Nat := field (mapHalf m 0) 12 8
/-- L of R275: 4 ns for each unit. -/
def mapLen (m : BitVec 512) : Nat := 4 * field (mapHalf m 0) 7 0
/-- Entry s, and whether it grants a send. -/
def mapEntry (m : BitVec 512) (s : Nat) : Nat := mapHalf m (s + 1)
def mapGrants (m : BitVec 512) (s : Nat) : Bool := decide (s < mapNslot m) && field (mapEntry m s) 15 15 == 1
def mapDest (m : BitVec 512) (s : Nat) : Nat := coreAt (field (mapEntry m s) 7 0) (field (mapEntry m s) 14 8)

/-- A map whose reserved bits are zero and whose counts are in range. -/
def mapOk (m : BitVec 512) : Bool :=
  field (mapHalf m 0) 15 13 == 0 && mapNslot m != 0 && mapLen m != 0 &&
  (List.range 31).all (fun s => mapEntry m s == 0 || mapGrants m s)

/-! ## sstep (R273, R280) -/

/-- The map that an sstep reads and checks at issue: its flat address, 0 for no map, or the trap. -/
def State.readMap (s : State) (w : Who) (a : Reg) : Except Trap Nat :=
  if a = 0 then .ok 0
  else
    let m := s.reg w a
    if m.toNat % 64 ≠ 0 then .error (.align m)
    else if 0x30000 ≤ m.toNat then .error (.access 35 m)
    else
      match lmPhys (s.strand w).hold m.toNat with
      | none => .error (.access 8 m)
      | some p =>
        let flat := lmFlat w.core p
        match s.eccCause (clusterOf w.core) flat 64 with
        | some c => .error { code := .ecc, cause := c, va := m }
        | none =>
          if mapOk (BitVec.ofNat 512 (s.read flat 64)) then .ok flat else .error .illop

/-- The rectangle of a strand's domain as a scope (R272, R280). -/
def Strand.domScope (st : Strand) : Scope := .rect (bits st.domain 31 0)

/-- An sstep is a release point; then it arrives at the barrier of its level and waits (R273, R277). It copies its map when it
retires (R274). -/
def execSstep (f : Form) (a : Reg) (s : State) : Host.Outcome State Fault Refusal :=
  runInstr f [.mem, .src a, .status 0x24] (fun s w =>
    let st := s.strand w
    if st.phase.inPhase then .error { code := .slot }
    else
      match s.readMap w a with
      | .error t => .error t
      | .ok m =>
        if s.mustWait w false m (if m = 0 then 0 else 64) then s.holdBack w .sstep
        else if s.relBusy w .all st.domScope then s.holdBack w .sstep
        else
          let n := bits st.domain 34 32
          let s1 := s.publish w .all st.domScope
          let p := { st.phase with
            arrived := true, level := n, counts := AMap.put st.phase.counts n (st.phase.arrivals n + 1) }
          let s2 := (s1.setStrand w { s1.strand w with phase := p }).waiting w
            { mkWait .sstep false (lenBytes f.len) 16 with flat := m }
          .ok (.hold s2.settleDomains)) s

/-- sstep.end waits for its release, which the first column of its domain decides (R276). -/
def execSstepEnd (f : Form) (s : State) : Host.Outcome State Fault Refusal :=
  runInstr f [.mem, .status 0x24] (fun s w =>
    let st := s.strand w
    if !st.phase.inPhase then .error { code := .slot }
    else if s.relBusy w .all st.domScope then s.holdBack w .sstep
    else
      let s1 := s.publish w .all st.domScope
      let s2 := (s1.setStrand w { s1.strand w with phase := { st.phase with ended := true } }).waiting w
        (mkWait .sstep false (lenBytes f.len) 16)
      .ok (.hold s2.settleDomains)) s

/-! ## The end of a phase (R276) -/

def execPhaseEnd (kernel level bx by_ count : Nat) (s : State) : Host.Outcome State Fault Refusal :=
  .next (s.endPhase kernel level bx by_ count).wake

/-- The TIME from which a member's sstep.end may retire. -/
def Domain.release (d : Domain) (tc : Word) (domain : Word) (core : Nat) : Nat :=
  tc.toNat + d.stag * (coreX core / 16 - bits domain 7 0 / 16)

/-- A member's sstep.end may retire: the phase has ended and the stagger of its column has passed. -/
def State.mayLeave (s : State) (w : Who) : Bool :=
  let st := s.strand w
  match s.waitOf w [.sstep], st.job with
  | some _, some (k, g) =>
    st.phase.inPhase && st.phase.ended &&
    (match s.domain k st.phase.level ((s.kernel k).blockAt st.phase.level g) (st.phase.arrivals st.phase.level) with
      | some d => d.tc.any (fun tc => decide (d.release tc st.domain w.core ≤ s.time.toNat))
      | none => false)
  | _, _ => false

def execStaggeredRelease (core strand : Nat) (s : State) : Host.Outcome State Fault Refusal :=
  let w : Who := ⟨core, strand⟩
  let st := s.strand w
  match s.waitOf w [.sstep] with
  | none => .next s
  | some v =>
    if !s.mayLeave w || s.takeCut w .all then .next s
    else
      let p := { st.phase with inPhase := false, ended := false, map := 0, used := 0, tOpen := 0, tsRow := none }
      .next (((s.setStrand w { st with phase := p }).takeIn w .all).finish w v.len v.eu).wake

/-! ## tsend (R275, R281) -/

/-- The TIME at which a slot of a phase begins. -/
def Phase.slotStart (p : Phase) (k : Nat) : Nat := p.tOpen.toNat + 64 + k * mapLen p.map

/-- A row leaves for the core that its slot names. Its packet says in `hid` which slot, in `cmp` which T_open, and in `expiry` when the
slot ends. -/
def State.sendRow (s : State) (w : Who) (slot : Nat) (row : Row) (off : Nat) : State :=
  let p := (s.strand w).phase
  s.send w { (s.packet w .row none).aim (.away (mapDest p.map slot) off) 64 with
    data := row, hid := slot, cmp := p.tOpen, expiry := BitVec.ofNat 64 (p.slotStart (slot + 1)) }

/-- Two sends, each from a core to a core along x and then y, use a link in one direction (R275). -/
def sendsShare (a b : Nat × Nat) : Bool :=
  (meshRoute 0 a.1 a.2).any (fun k => (meshRoute 0 b.1 b.2).contains k &&
    (if k % 4 = 0 then decide (coreX a.1 ≤ coreX a.2) == decide (coreX b.1 ≤ coreX b.2)
     else decide (coreY a.1 ≤ coreY a.2) == decide (coreY b.1 ≤ coreY b.2)))

/-- Two sends reach their common destination by one link. -/
def sendsMerge (a b : Nat × Nat) : Bool :=
  a.2 == b.2 && sendsShare a b && (meshRoute 0 a.1 a.2).getLast? == (meshRoute 0 b.1 b.2).getLast?

/-- The phases that a row may belong to: of its group's blocks, with its T_open. -/
def State.rowDomains (s : State) (p : Packet) : List Domain :=
  match p.job with
  | none => []
  | some (k, g) => s.domains.filter (fun d => d.kernel == k && (d.bx, d.by_) == (s.kernel k).blockAt d.level g && d.tOpen == p.cmp)

/-- The sends that the slot maps of its phase grant in a row's slot: the member, and the core that it sends to. -/
def State.granted (s : State) (p : Packet) : List (Who × Nat) :=
  (s.rowDomains p).flatMap (fun d => d.maps.filterMap (fun m => if mapGrants m.2 p.hid then some (m.1, mapDest m.2 p.hid) else none))

/-- A row that shares no link with another send of its slot lands before its slot ends (R275). -/
def State.rowPrompt (s : State) (p : Packet) : Bool :=
  (s.granted p).all (fun g => g.1 == p.src || !sendsShare (g.1.core, g.2) (p.src.core, p.core))

/-- Of rows of one domain that reach one core by one link in one slot the one of the lower core lands first (R275). -/
def State.rowTurn (s : State) (p : Packet) : Bool :=
  s.net.all (fun e => e.2.kind != .row || e.2.landed || e.2.refused || e.2.hid != p.hid || e.2.cmp != p.cmp ||
    decide (p.src.core ≤ e.2.src.core) || !(s.rowDomains p).any (fun d => (s.rowDomains e.2).contains d) ||
    !sendsMerge (e.2.src.core, e.2.core) (p.src.core, p.core))

/-- A row that is to land before TIME goes on. -/
def State.rowDue (s : State) (p : Packet) : Bool :=
  p.kind == .row && !p.landed && !p.refused && !p.full && decide (p.expiry.toNat ≤ s.time.toNat + 1) && s.carried p && s.rowPrompt p

def execTsend (f : Form) (slot : BitVec 6) (t : Tile) (b : Reg) (s : State) : Host.Outcome State Fault Refusal :=
  runInstr f [.mem, .tsrc t, .src b, .status 0x24, .status 0x13] (fun s w =>
    let st := s.strand w
    let p := st.phase
    let k := slot.toNat
    let v := s.reg w b
    let off := bits v 17 0
    let dest := mapDest p.map k
    if !p.inPhase || !mapGrants p.map k || p.used.getLsbD k || !inRect (bits st.domain 31 0) dest ||
        !s.inAllot (s.ctxOf w.core) dest then .error { code := .slot }
    else if off % 64 ≠ 0 then .error (.align (BitVec.ofNat 64 off))
    else if 0x20000 ≤ off then .error (.access 35 (BitVec.ofNat 64 off))
    else if p.slotStart (k + 1) ≤ s.time.toNat then .error { code := .slot }
    else
      let row := (s.tile w t).row (bits v 35 32)
      let s1 := s.setStrand w { st with phase := { p with used := p.used ||| ((1 : BitVec 31) <<< k) } }
      if p.slotStart k ≤ s.time.toNat then done (s1.sendRow w k row off) 16
      else
        let s2 := s1.setStrand w { s1.strand w with phase := { (s1.strand w).phase with tsRow := some (row, k, off) } }
        .ok (.hold (s2.waiting w (mkWait .tsend false (lenBytes f.len) 16)))) s

/-- The slot of a waiting tsend begins, and the row is sent. -/
def execTsendSlotStart (core strand : Nat) (s : State) : Host.Outcome State Fault Refusal :=
  let w : Who := ⟨core, strand⟩
  let st := s.strand w
  match s.waitOf w [.tsend], st.phase.tsRow with
  | some v, some (row, k, off) =>
    if s.time.toNat < st.phase.slotStart k then .next s
    else
      let s1 := s.sendRow w k row off
      .next ((s1.setStrand w { s1.strand w with phase := { (s1.strand w).phase with tsRow := none } }).finish w v.len v.eu).wake
  | _, _ => .next s

/-- A tsend that resumes after its slot has ended traps SLOT, and its used bit clears (R281). -/
def State.resumeRow (s : State) (w : Who) : Host.Outcome State Fault Refusal :=
  let st := s.strand w
  match s.waitOf w [.tsend], st.phase.tsRow with
  | some v, some (_, k, _) =>
    if s.time.toNat < st.phase.slotStart (k + 1) then .next s
    else
      let p := { st.phase with tsRow := none, used := st.phase.used &&& ~~~((1 : BitVec 31) <<< k) }
      (s.setStrand w { st with phase := p }).takeTrap w { code := .slot } st.pc (st.pc + BitVec.ofNat 64 v.len)
  | _, _ => .next s

/-- A row lands in the LM of its core, or is diverted there (R161, R275), where the links of its path carry it, and once each earlier
store of its strand to its bytes has landed (R145). -/
def State.landRow (s : State) (id : Nat) : State :=
  match s.pkt id with
  | none => s
  | some p =>
    if p.kind ≠ .row ∨ !s.carried p ∨ !s.rowTurn p ∨ (!p.landed && s.blocked p false) then s
    else
      let s1 := if p.landed || p.refused then s else State.storeArrive.go s id false p
      match s1.pkt id with
      | some q => if q.landed then (s1.delPkt id).settleDomains else s1
      | none => s1

def execTsendLand (pkt : Nat) (s : State) : Host.Outcome State Fault Refusal := .next (s.landRow pkt).wake

end Sys2Proof.Machine
end

