-- ==== Sys2Proof/Machine/Hinge.lean ====
section
/-!
DEFINITION. Hinge sets: records, slots and blocks, push, receipt and settlement, and the Hinge instructions (R81, R82,
R350-R376). A block is read and written in the LM of its core.
-/
namespace Sys2Proof.Machine

/-! ## Records and slots (R350, R351) -/

/-- A dword of the record of an id in the context's table. -/
def State.hrec (s : State) (ctx id k : Nat) : Word := s.readW ((s.descW ctx 0x18).toNat + 32 * id + 8 * k)

/-- A record that is not invalid (R350). -/
def hrecOk (r0 r2 r3 : Word) : Bool :=
  let e := sval 8 (bits r0 55 48)
  bit r0 63 && bits r0 61 56 == 0 && bits r0 47 8 == 0 && r2 == 0 && r3 == 0 &&
  decide (-64 ≤ e ∧ e ≤ 63) && decide (1 ≤ bits r0 7 0 ∧ bits r0 7 0 ≤ 128)

/-- Elements, exponent, mode, timeout and period of a slot, from its copy of the record. -/
def HSlot.n (h : HSlot) : Nat := 16 * bits h.attr0 7 0
def HSlot.e (h : HSlot) : Int := sval 8 (bits h.attr0 55 48)
def HSlot.background (h : HSlot) : Bool := bit h.attr0 62
def HSlot.holdNs (h : HSlot) : Nat := bits h.attr1 63 32
def HSlot.period (h : HSlot) : Nat := bits h.attr1 31 0
/-- The ticks of a background set up to a TIME fall away (R359). -/
def HSlot.skipTicks (h : HSlot) (now : Word) : HSlot :=
  if h.period = 0 ∨ now.toNat < h.nextTick.toNat then h
  else
    let next := h.nextTick.toNat + h.period * ((now.toNat - h.nextTick.toNat) / h.period + 1)
    { h with nextTick := BitVec.ofNat 64 (min (2 ^ 64 - 1) next) }

/-- Word k of a partner list: in use, and the partner it names. -/
def partWord (l : BitVec 512) (k : Nat) : Nat := l.toNat / 2 ^ (32 * k) % 2 ^ 32
def partUsed (l : BitVec 512) (k : Nat) : Bool := field (partWord l k) 31 31 == 1
def partName (l : BitVec 512) (k : Nat) : Nat × Nat :=
  let w := partWord l k
  (field w 30 15, coreAt (field w 7 0) (field w 14 8))

/-- The index of a partner in use. -/
def partIndex (l : BitVec 512) (p : Nat × Nat) : Option Nat :=
  (List.range 16).find? (fun k => partUsed l k && partName l k == p)

/-- A list that names the executing core, or a partner twice (R351). -/
def partBad (l : BitVec 512) (own : Nat × Nat) : Bool :=
  let ks := (List.range 16).filter (partUsed l)
  ks.any (fun k => partName l k == own || partIndex l (partName l k) != some k)

/-- The target word of a push (R346). -/
def pushTarget (v : Word) : Nat × Nat := (bits v 47 32, coreAt (bits v 7 0) (bits v 14 8))

def State.hslot (s : State) (core k : Nat) : HSlot := (s.live core).hslot k
def State.setHSlot (s : State) (core k : Nat) (h : HSlot) : State :=
  s.setLive core { s.live core with hslots := AMap.put (s.live core).hslots k h }

/-- The slot of a context that holds an id. -/
def CoreCtx.hfind (l : CoreCtx) (id : Nat) : Option Nat :=
  (List.range 4).find? (fun k => (l.hslot k).state != .closed && (l.hslot k).id.toNat == id)

/-! ## Blocks (R355) -/

/-- Flat address of a slot's block. -/
def HSlot.at_ (h : HSlot) (core : Nat) : Nat := lmFlat core h.block.toNat

/-- The CAUSE that the reading of parts of a block meets, and the LM offset of the first of them that meets one (R407, R408). -/
def State.blockErr (s : State) (core : Nat) (h : HSlot) (parts : List (Nat × Nat)) : Option (Nat × Nat) :=
  parts.findSome? (fun r => (s.eccCause (clusterOf core) (h.at_ core + r.1) r.2).map (fun c => (c, h.block.toNat + r.1)))

/-- Parts of a block: its mass, its word of HELD, its header, elements of its values. -/
def blkMass : Nat × Nat := (0, 8)
def blkHeld : Nat × Nat := (0x20, 8)
def blkHead : Nat × Nat := (0, 0x48)
def blkElem (k : Nat) : Nat × Nat := (0x80 + 8 * k, 8)
def HSlot.blkVals (h : HSlot) : Nat × Nat := (0x80, 8 * h.n)
def HSlot.blkHalves (h : HSlot) : Nat × Nat := (0x80 + 8 * h.n, 16 * h.n)

/-- An instruction reads parts of a block: an uncorrectable error there traps (R407). -/
def withBlock (s : State) (w : Who) (h : HSlot) (parts : List (Nat × Nat)) (go : Except Trap Ans) : Except Trap Ans :=
  match s.blockErr w.core h parts with
  | some e => .error { code := .ecc, cause := e.1, va := BitVec.ofNat 64 e.2 }
  | none => go

/-- The Hinge engine of a core meets an error in a block: an engine fault to the control cores (R25, R407). PROG1 says how far the push
is: held, acknowledged or returned; PROG2 is its sequence number (R317). -/
def State.hingeFault (s : State) (core k : Nat) (e : Nat × Nat) (ctx strand : Nat) (pc : Word) (prog seq : Nat) : State :=
  s.report (dieOf core)
    { kind := 7, cause := e.1, va := BitVec.ofNat 64 e.2, pc := pc, eng := 1, strand := strand, eslot := k, ctx := ctx,
      core := core, prog1 := BitVec.ofNat 64 prog, prog2 := BitVec.ofNat 64 seq }

/-- Dwords from an address, as signed values; and a list of values written there, which clears what was in error (R408). -/
def State.vals (s : State) (a n : Nat) : List Int := (List.range n).map (fun k => sval 64 (s.read (a + 8 * k) 8))
def State.putVals (s : State) (a : Nat) : List Int → State
  | [] => s
  | v :: t => ((s.write a 8 (wrap 64 v)).clearUnits a 8).putVals (a + 8) t

/-- HELD, and held half i: in use, its sequence number, its mass, its values. -/
def State.hHeld (s : State) (b : Nat) : Nat := bits (s.readW (b + 0x20)) 9 8
def State.halfUsed (s : State) (b i : Nat) : Bool := bit (s.readW (b + 0x28 + 16 * i)) 63
def State.halfSeq (s : State) (b i : Nat) : Nat := bits (s.readW (b + 0x28 + 16 * i)) 31 0
def State.halfMass (s : State) (b i : Nat) : Nat := (s.readW (b + 0x30 + 16 * i)).toNat
def halfVals (b n i : Nat) : Nat := b + 0x80 + 8 * n * (1 + i)

/-- The sums over the held halves in use: of the masses, and of the values of element k. -/
def State.heldMass (s : State) (b : Nat) : Nat :=
  [0, 1].foldl (fun a i => if s.halfUsed b i then a + s.halfMass b i else a) 0
def State.heldVals (s : State) (b n : Nat) : List Int :=
  [0, 1].foldl (fun a i => if s.halfUsed b i then List.zipWith (· + ·) a (s.vals (halfVals b n i) n) else a) (List.replicate n 0)

/-- Adding to a dword modulo 2^64. -/
def State.addW (s : State) (a v : Nat) : State := s.write a 8 ((s.readW a).toNat + v)

/-- The sticky saturation flag set. -/
def State.setSat (s : State) (b : Nat) : State := s.write (b + 0x20) 8 (setBits (s.readW (b + 0x20)) 0 0 1).toNat

/-! ## Push (R358) -/

/-- What a push does at its block: the sent part leaves and is held; its sequence number, values and mass. -/
def State.splitBlock (s : State) (core k : Nat) (target : Nat × Nat) (whole : Bool) : State × Nat × List Int × Nat :=
  let h := s.hslot core k
  let b := h.at_ core
  let n := h.n
  let q := s.vals (b + 0x80) n
  let m := (s.readW b).toNat
  let dq := if whole then q else q.map (· / 2)
  let dm := if whole then m else m / 2
  let i := if s.halfUsed b 0 then 1 else 0
  let ctl := s.readW (b + 0x20)
  let seq := bits ctl 63 32
  let word := 2 ^ 63 + 2 ^ 56 * coreY target.2 + 2 ^ 48 * coreX target.2 + 2 ^ 32 * target.1 + seq
  let s1 := (s.putVals (b + 0x80) (List.zipWith (· - ·) q dq)).write b 8 (m - dm)
  let s2 := ((s1.write (b + 0x28 + 16 * i) 8 word).write (b + 0x30 + 16 * i) 8 dm).putVals (halfVals b n i) dq
  let s3 := s2.write (b + 0x20) 8 (setBits (setBits ctl 63 32 (seq + 1)) 9 8 (bits ctl 9 8 + 1)).toNat
  (s3.addW (b + 0x08) dm, seq, dq, dm)

/-- Settlement of the held half with a sequence number (R361). -/
def State.settleHalf (s : State) (core k seq code : Nat) : State :=
  let h := s.hslot core k
  let b := h.at_ core
  let n := h.n
  match [0, 1].find? (fun i => s.halfUsed b i && s.halfSeq b i == seq) with
  | none => s
  | some i =>
    let dm := s.halfMass b i
    let s1 := if code = 0 then s.addW (b + 0x10) dm
      else (s.putVals (b + 0x80) (List.zipWith (· + ·) (s.vals (b + 0x80) n) (s.vals (halfVals b n i) n))).addW b dm
    let v := s1.readW (b + 0x28 + 16 * i)
    let ctl := s1.readW (b + 0x20)
    (s1.write (b + 0x28 + 16 * i) 8 (setBits v 63 63 0).toNat).write (b + 0x20) 8 (setBits ctl 9 8 (bits ctl 9 8 - 1)).toNat

/-- A push of a slot to a target: of a strand's instruction, counted on its path, or of the background, counted on none.
A target module that is not UP is not sent to: the half returns at once with the code given back (R358, R343). -/
def State.hingePush (s : State) (core k : Nat) (target : Nat × Nat) (whole : Bool) (by_ : Option Who) : State × Option Nat :=
  let h := s.hslot core k
  let (s1, seq, dq, dm) := s.splitBlock core k target whole
  let own := target.1 == s.module_.toNat
  let path := by_.map (fun w => (s.strand w).adaptive)
  if !own && !s.modUp target.1 then
    let code := if (s.modEnt target.1).state = .failed then 7 else 1
    let s2 := s1.settleHalf core k seq code
    (match by_ with
      | some w => s2.ackNow w
      | none => s2, some code)
  else
    let w := by_.getD ⟨core, 0⟩
    let p0 := s1.packet w .push path
    let p := { p0 with
      module_ := if own then none else some target.1, core := target.2, hseq := seq, hid := h.id.toNat,
      expiry := addSpan s.time (BitVec.ofNat 64 h.holdNs), mass := dm, expo := h.e, vals := dq }
    match by_ with
    | some w => (s1.send w p, none)
    | none =>
      ({ s1 with net := AMap.put s1.net s1.nextId (s1.routed { p with job := none, birth := 0, seq := 0 }), nextId := s1.nextId + 1 }, none)

/-! ## Receipt (R360, R363) -/

/-- Disagree: the largest difference of the estimates, rounded to f32. -/
def disagree (e : Int) (q : List Int) (m : Nat) (dq : List Int) (dm : Nat) : Nat :=
  if m = 0 ∨ dm = 0 then 0x7FC00000
  else
    let top := (List.zipWith (fun (a d : Int) => (d * (m : Int) - a * (dm : Int)).natAbs) q dq).foldl max 0
    if top = 0 then 0
    else (roundTo (fmtOf .f32) 0 false ((divReal (Num.ofInt top) (Num.ofInt ((m * dm : Nat) : Int))).1.scale e)).1

/-- The distance from a partner's highest sequence number back to s (R360). -/
def seqBack (high s : Nat) : Nat := (high + 2 ^ 32 - s) % 2 ^ 32

/-- Seen, or Stale. -/
def HSlot.knows (h : HSlot) (k s : Nat) : Bool :=
  if h.none_.getLsbD k then false
  else
    let v := AMap.get (0 : Word) h.seen k
    let d := seqBack (bits v 63 32) s
    d == 0 || (decide (1 ≤ d ∧ d ≤ 32) && bit v (d - 1)) || decide (33 ≤ d ∧ d < 2 ^ 31)

/-- MarkSeen. -/
def HSlot.mark (h : HSlot) (k s : Nat) : HSlot :=
  let v := AMap.get (0 : Word) h.seen k
  let high := bits v 63 32
  let d := seqBack high s
  if h.none_.getLsbD k then
    { h with none_ := h.none_ &&& ~~~((1 : BitVec 16) <<< k), seen := AMap.put h.seen k (BitVec.ofNat 64 (2 ^ 32 * s)) }
  else if 2 ^ 31 ≤ d then
    let e := (s + 2 ^ 32 - high) % 2 ^ 32
    let w := if 32 < e then 0 else (bits v 31 0 * 2 ^ e + 2 ^ (e - 1)) % 2 ^ 32
    { h with seen := AMap.put h.seen k (BitVec.ofNat 64 (2 ^ 32 * s + w)) }
  else if 1 ≤ d ∧ d ≤ 32 then { h with seen := AMap.put h.seen k (setBits v (d - 1) (d - 1) 1) }
  else h

/-- A reply leaves the receiver; at the sender's block it may be held anew. -/
def State.hingeReply (s : State) (id : Nat) (p : Packet) (code : Nat) : State :=
  s.setPkt id { p with kind := .reply code, landed := true, held := false }

/-- Receive (R360): the reply, or nothing where the push was seen before: an explicit push of this module then stays unsettled
(R367). While the block is in error the push waits at the receiver, whose engine reports it once. -/
def State.receive (s : State) (id : Nat) (p : Packet) : State :=
  let c := p.core
  let here := match s.msgCtx p with
    | some ctx => s.isActive ctx c && s.resident ctx c && !(s.core c).fenced
    | none => false
  match (if here then (s.live c).hfind p.hid else none) with
  | none => s.hingeReply id p 1
  | some k =>
    let h := s.hslot c k
    let b := h.at_ c
    if h.state ≠ .opened then s.hingeReply id p 1
    else
      match partIndex h.part (p.smodule, p.src.core) with
      | none => s.hingeReply id p 5
      | some i =>
        match s.blockErr c h [blkHead, h.blkVals, h.blkHalves] with
        | some e =>
          if p.held then s else (s.setPkt id { p with held := true }).hingeFault c k e (s.ctxOf c) p.src.strand p.pc 0 p.hseq
        | none =>
        if h.knows i p.hseq then (if s.fromHere p && p.path.isSome then s.setPkt id { p with landed := true } else s.delPkt id)
        else
          let s1 := s.setHSlot c k (h.mark i p.hseq)
          let q := s.vals (b + 0x80) h.n
          let m := (s.readW b).toNat
          let held := s.heldVals b h.n
          if p.vals.length ≠ h.n ∨ p.expo ≠ h.e then s1.hingeReply id p 6
          else if p.expiry.toNat < s.time.toNat then s1.hingeReply id p 4
          else if 2 ^ 64 ≤ m + s.heldMass b + p.mass then s1.hingeReply id p 2
          else if (List.zipWith (fun x y => x + y) (List.zipWith (fun x y => x + y) q held) p.vals).any
              (fun v => decide (v < -(2 ^ 63 : Int) ∨ (2 ^ 63 : Int) ≤ v)) then s1.hingeReply id p 3
          else
            let h1 := { h.mark i p.hseq with hdisag := BitVec.ofNat 32 (disagree h.e q m p.vals p.mass) }
            let s2 := (s1.setHSlot c k h1).putVals (b + 0x80) (List.zipWith (· + ·) q p.vals)
            ((s2.write b 8 (m + p.mass)).addW (b + 0x18) p.mass).hingeReply id p 0

/-! ## Waiting Hinge instructions (R367, R368, R374, R376) -/

/-- A slot opens again, or stays paused for the save that is under way (R353). -/
def State.reopen (s : State) (core k : Nat) : State :=
  let h := s.hslot core k
  s.setHSlot core k (if (s.core core).st = .saving then { h with state := .paused, savep := true } else { h with state := .opened })

/-- A whole push of a slot (R368): LEAVING, or the code with which the half came back at once. -/
def State.leaveNow (s : State) (w : Who) (k : Nat) (target : Nat × Nat) : State × Option Nat :=
  let (s1, code) := s.hingePush w.core k target true (some w)
  match code with
  | some c => (s1, some c)
  | none => (s1.setHSlot w.core k { s1.hslot w.core k with state := .leaving }, none)

/-- A strand that waits in hpause or hleave. The wait's `flat` is 0 for hpause, 1 for an hleave that has not pushed, 2 for
one that waits for its reply; `gen` is the slot, `obj` the target word. Where its block is in error the instruction issues again, and
traps. -/
def State.settleHingeOf (s : State) (w : Who) : State :=
  match s.waitOf w [.hinge] with
  | none => s
  | some v =>
    let k := v.gen.toNat
    let h := s.hslot w.core k
    let held := s.hHeld (h.at_ w.core)
    if v.flat ≠ 2 ∧ (s.blockErr w.core h [blkHead, h.blkVals]).isSome then
      s.setStrand w { s.strand w with wait := some { v with retry := true, woken := true } }
    else if v.flat = 0 then (if held = 0 then s.finish w v.len v.eu else s)
    else if v.flat = 1 then
      if h.state ≠ .opened then (s.setReg w v.d 1).finish w v.len v.eu
      else if held ≠ 0 then s
      else
        let (s1, code) := s.leaveNow w k (pushTarget v.obj)
        match code with
        | some c => (s1.setReg w v.d (BitVec.ofNat 64 c)).finish w v.len v.eu
        | none => s1.setStrand w { s1.strand w with wait := some { v with flat := 2 } }
    else s

def State.settleHinge (s : State) (core : Nat) : State := (List.range 4).foldl (fun acc n => acc.settleHingeOf ⟨core, n⟩) s

/-- The end of a leave (R368): the slot closes with its block's mass and values zero, or opens again; the hleave that made the push
retires (R374). -/
def State.leaveReply (s : State) (w : Who) (birth k code : Nat) : State :=
  let h := s.hslot w.core k
  let b := h.at_ w.core
  let s1 := if code = 0 then
      ((s.write b 8 0).putVals (b + 0x80) (List.replicate h.n 0)).setHSlot w.core k { h with state := .closed }
    else s.reopen w.core k
  match (s1.strand w).wait with
  | some v => if v.kind = .hinge ∧ v.flat = 2 ∧ v.gen.toNat = k ∧ (s1.strand w).birth = birth then
      (s1.setReg w v.d (BitVec.ofNat 64 code)).finish w v.len v.eu
    else s1
  | none => s1

/-- A reply reaches the sender of a push (R361); while the block is in error the reply waits, and the engine reports it once. -/
def State.hingeReplied (s : State) (id : Nat) (p : Packet) (code : Nat) : State :=
  if p.smodule ≠ s.module_.toNat then s.delPkt id
  else if !s.home p then s
  else
    let c := p.src.core
    let s1 := s.ackPkt id p
    match (s1.live c).hfind p.hid with
    | none => s1
    | some k =>
      match s.blockErr c (s.hslot c k) [blkHead, (s.hslot c k).blkVals, (s.hslot c k).blkHalves] with
      | some e =>
        if p.held then s
        else (s.setPkt id { p with held := true }).hingeFault c k e p.ctx p.src.strand p.pc (if code = 0 then 1 else 2) p.hseq
      | none =>
      let leaving := (s1.hslot c k).state == .leaving
      let s2 := s1.settleHalf c k p.hseq code
      (if leaving then s2.leaveReply p.src p.birth k code else s2).settleHinge c

/-- OPEN slots of a core pause for a plan (R353). -/
def State.planPause (s : State) (core : Nat) : State :=
  ((List.range 4).foldl (fun acc k =>
    let h := acc.hslot core k
    if h.state = .opened then acc.setHSlot core k { h with state := .paused, planp := true } else acc) s).settleHinge core

/-! ## Instructions (R370-R376); class 7, 16 eu -/

def Trap.hinge (cause : Nat) : Trap := { code := .hinge, cause := cause }

/-- A Hinge instruction on the slot that holds its id. -/
def hingeOp (f : Form) (id : BitVec 4) (ops : List Opnd) (s : State)
    (go : State → Who → Nat → HSlot → Except Trap Ans) : Host.Outcome State Fault Refusal :=
  runInstr f (.feat 4 :: .mem :: ops) (fun s w =>
    match (s.live w.core).hfind id.toNat with
    | none => .error (.hinge 12)
    | some k => go s w k (s.hslot w.core k)) s

/-- hopen and hjoin (R372). -/
def openSet (f : Form) (join : Bool) (id : BitVec 4) (slot : BitVec 2) (a b : Reg) (s : State) :
    Host.Outcome State Fault Refusal :=
  runInstr f [.feat 4, .mem, .src a, .src b] (fun s w =>
    let at_ := s.reg w a
    let lst := s.reg w b
    let ctx := s.ctxOf w.core
    let r (k : Nat) : Word := s.hrec ctx id.toNat k
    let n := 16 * bits (r 0) 7 0
    if at_.toNat % 64 ≠ 0 then .error (.align at_)
    else if lst.toNat % 64 ≠ 0 then .error (.align lst)
    else if !hrecOk (r 0) (r 2) (r 3) then .error (.hinge 14)
    else if (s.hslot w.core slot.toNat).state ≠ .closed ∨ ((s.live w.core).hfind id.toNat).isSome then .error (.hinge 13)
    else if 0x20000 < at_.toNat + 128 + 24 * n ∨ 0x30000 ≤ lst.toNat then .error (.hinge 19)
    else
      match lmPhys (s.strand w).hold lst.toNat with
      | none => .error { code := .access, cause := 8, va := lst }
      | some p =>
        let pf := lmFlat w.core p
        match s.eccCause (clusterOf w.core) pf 64 with
        | some c => .error { code := .ecc, cause := c, va := lst }
        | none =>
          let l : BitVec 512 := BitVec.ofNat 512 (s.read pf 64)
          if partBad l (s.module_.toNat, w.core) then .error (.hinge 18)
          else
            let bf := lmFlat w.core at_.toNat
            match (if join then none else s.eccCause (clusterOf w.core) bf 8) with
            | some c => .error { code := .ecc, cause := c, va := at_ }
            | none =>
            let s0 := if join then s.putVals bf [0] else s
            let s1 := if join then s0.putVals (bf + 0x80) (List.replicate n 0) else s0
            let s2 := State.clearUnits (State.clearUnits
              { s1 with mem := memClear (memClear s1.mem (bf + 0x08) 0x78) (bf + 0x80 + 8 * n) (16 * n) } (bf + 0x08) 0x78)
              (bf + 0x80 + 8 * n) (16 * n)
            done (s2.setHSlot w.core slot.toNat
              { HSlot.closed with
                state := .opened, id := id, block := at_.setWidth 18, attr0 := r 0, attr1 := r 1, attr2 := r 2,
                m0 := s2.readW bf, part := l, nextTick := addSpan s.time (BitVec.ofNat 64 (bits (r 1) 31 0)) }) 16) s

def execHopen (f : Form) (id : BitVec 4) (slot : BitVec 2) (a b : Reg) (s : State) : Host.Outcome State Fault Refusal :=
  openSet f false id slot a b s
def execHjoin (f : Form) (id : BitVec 4) (slot : BitVec 2) (a b : Reg) (s : State) : Host.Outcome State Fault Refusal :=
  openSet f true id slot a b s

/-- The elements a tile takes part with: row, column, element of the block. -/
def hingeElems (st : Strand) (k0 n : Nat) : List (Nat × Nat × Nat) :=
  ((List.range 16).filter (fun i => st.rowActive i && decide (k0 + 16 * i < n))).flatMap
    (fun i => (List.range 16).map (fun j => (i, j, k0 + 16 * i + j)))

/-- The first element is one of the block (17). -/
def firstBad (k0 : Word) (n : Nat) : Bool := k0.toNat % 16 != 0 || decide (n ≤ k0.toNat)

/-- A value of hload as stored, and whether it saturates or is a NaN (R82). -/
def loadQ (e : Int) (x : Num) : Int × Bool :=
  match x with
  | .nan _ => (0, true)
  | .inf n => (if n then -(2 ^ 63) else 2 ^ 63 - 1, true)
  | x =>
    let r := (roundInt 0 (x.scale (48 - e))).1
    if r < -(2 ^ 63) then (-(2 ^ 63), true) else if (2 ^ 63 : Int) ≤ r then (2 ^ 63 - 1, true) else (r, false)

/-- A value of hadd: the element after the step, with the held halves' values kept within range, and SAT (R82, R373). -/
def addQ (e : Int) (m : Nat) (q held : Int) (x : Num) : Int × Bool :=
  let lo : Int := -(2 ^ 63) - held
  let hi : Int := 2 ^ 63 - 1 - held
  match x with
  | .nan _ => (q, true)
  | .inf n => if m = 0 then (q, true) else (if n then max lo (-(2 ^ 63)) else min hi (2 ^ 63 - 1), true)
  | x =>
    let t := q + (roundInt 0 ((numMul (Num.ofInt (m : Int)) x).1.scale (-e))).1
    let lo' := max lo (-(2 ^ 63))
    let hi' := min hi (2 ^ 63 - 1)
    if t < lo' then (lo', true) else if hi' < t then (hi', true) else (t, false)

/-- hload and hadd write the elements their tile takes part with. -/
def State.putElems (s : State) (b : Nat) (rs : List (Nat × Int × Bool)) : State :=
  rs.foldl (fun acc r =>
    let s1 := acc.putVals (b + 0x80 + 8 * r.1) [r.2.1]
    if r.2.2 then s1.setSat b else s1) s

/-- The rows of a tile that take part, in an instruction on the set that holds an id (R373). -/
def hingeRows (s : State) (id : BitVec 4) (b : Reg) : List Nat :=
  match (s.live s.cur.core).hfind id.toNat with
  | some k => ((hingeElems (s.strand s.cur) (s.reg s.cur b).toNat (s.hslot s.cur.core k).n).map (·.1)).eraseDups
  | none => []

def execHload (f : Form) (ty : Ty) (id : BitVec 4) (a : Tile) (b : Reg) (s : State) : Host.Outcome State Fault Refusal :=
  hingeOp f id ([.tpart a (hingeRows s id b), .src b] ++ shapeOps) s (fun s w _ h =>
    let blk := h.at_ w.core
    let k0 := s.reg w b
    if firstBad k0 h.n then .error (.hinge 17)
    else withBlock s w h [blkHeld] <|
    if s.hHeld blk ≠ 0 then .error (.hinge 16)
    else
      let fm := fmtOf ty
      done (s.putElems blk ((hingeElems (s.strand w) k0.toNat h.n).map (fun x =>
        (x.2.2, loadQ h.e (fVal fm ((s.tile w a).elem fm.w x.1 x.2.1)))))) 16)

def execHadd (f : Form) (ty : Ty) (id : BitVec 4) (a : Tile) (b : Reg) (s : State) : Host.Outcome State Fault Refusal :=
  hingeOp f id ([.tpart a (hingeRows s id b), .src b] ++ shapeOps) s (fun s w _ h =>
    let blk := h.at_ w.core
    let k0 := s.reg w b
    if firstBad k0 h.n then .error (.hinge 17)
    else
      let ks := (hingeElems (s.strand w) k0.toNat h.n).map (·.2.2)
      let halves := (([0, 1].filter (s.halfUsed blk)).flatMap (fun i => ks.map (fun k => (0x80 + 8 * h.n * (1 + i) + 8 * k, 8))))
      withBlock s w h (blkHead :: ks.map blkElem ++ halves) <|
      let fm := fmtOf ty
      let m := (s.readW blk).toNat
      let held := s.heldVals blk h.n
      done (s.putElems blk ((hingeElems (s.strand w) k0.toNat h.n).map (fun x =>
        let q := sval 64 (s.read (blk + 0x80 + 8 * x.2.2) 8)
        (x.2.2, addQ h.e m q (held.getD x.2.2 0) (fVal fm ((s.tile w a).elem fm.w x.1 x.2.1)))))) 16)

/-- The estimate of an element (R82). -/
def estimate (e : Int) (m : Nat) (q : Int) : Num × FFlags :=
  if m = 0 then (.nan false, fNV) else ((numDiv (Num.ofInt q) (Num.ofInt (m : Int))).1.scale e, 0)

def execHread (f : Form) (ty : Ty) (id : BitVec 4) (d : Tile) (b : Reg) (s : State) : Host.Outcome State Fault Refusal :=
  hingeOp f id (ldtWhole s d ++ [.tdst d, .src b] ++ shapeOps ++ fctlOps true) s (fun s w _ h =>
    let blk := h.at_ w.core
    let k0 := s.reg w b
    let st := s.strand w
    if firstBad k0 h.n then .error (.hinge 17)
    else withBlock s w h (blkMass :: (hingeElems st k0.toNat h.n).map (fun x => blkElem x.2.2)) <|
      let fm := fmtOf ty
      let m := (s.readW blk).toNat
      let rows := (List.range 16).map (fun i =>
        if st.rowActive i then
          if k0.toNat + 16 * i < h.n then
            let es := (List.range 16).map (fun j =>
              rounded fm st.fctl (estimate h.e m (sval 64 (s.read (blk + 0x80 + 8 * (k0.toNat + 16 * i + j)) 8))))
            (rowOf fm.w (es.map (·.1)), es.foldl (fun x r => x ||| r.2) (0 : FFlags))
          else (0, 0)
        else ((s.tile w d).row i, 0))
      s.withFlags w (rows.foldl (fun x r => x ||| r.2) 0) 16 (fun s => s.setTile w d (rows.map (·.1)) 0))

def execHpush (f : Form) (id : BitVec 4) (d a : Reg) (s : State) : Host.Outcome State Fault Refusal :=
  hingeOp f id [.dst d, .src a] s (fun s w k h =>
    let t := pushTarget (s.reg w a)
    let blk := h.at_ w.core
    if (partIndex h.part t).isNone then .error (.hinge 15)
    else if h.state ≠ .opened then done (s.setReg w d 3) 16
    else withBlock s w h [blkHead, h.blkVals] <|
    if s.hHeld blk = 2 then done (s.setReg w d 1) 16
    else if (s.readW blk).toNat < 2 then done (s.setReg w d 2) 16
    else done ((s.hingePush w.core k t false (some w)).1.setReg w d 0) 16)

def execHleave (f : Form) (id : BitVec 4) (d a : Reg) (s : State) : Host.Outcome State Fault Refusal :=
  hingeOp f id [.dst d, .src a] s (fun s w k h =>
    let t := pushTarget (s.reg w a)
    let hold (s : State) (phase : Nat) : Except Trap Ans :=
      .ok (.hold (s.waiting w { mkWait .hinge false (lenBytes f.len) 16 with
        d := d, obj := s.reg w a, flat := phase, gen := BitVec.ofNat 64 k }))
    if (partIndex h.part t).isNone then .error (.hinge 15)
    else if h.state ≠ .opened then done (s.setReg w d 1) 16
    else withBlock s w h [blkHead, h.blkVals] <|
    if s.hHeld (h.at_ w.core) ≠ 0 then hold s 1
    else
      let (s1, code) := s.leaveNow w k t
      match code with
      | some c => done (s1.setReg w d (BitVec.ofNat 64 c)) 16
      | none => hold s1 2)

def execHmass (f : Form) (id : BitVec 4) (d : Reg) (s : State) : Host.Outcome State Fault Refusal :=
  hingeOp f id [.dst d] s (fun s w _ h => withBlock s w h [blkMass] (done (s.setReg w d (s.readW (h.at_ w.core))) 16))

def execHmassSet (f : Form) (id : BitVec 4) (a : Reg) (s : State) : Host.Outcome State Fault Refusal :=
  hingeOp f id [.src a] s (fun s w k h =>
    withBlock s w h [blkHeld] <|
    if s.hHeld (h.at_ w.core) ≠ 0 then .error (.hinge 16)
    else done ((s.putVals (h.at_ w.core) [((s.reg w a).toNat : Int)]).setHSlot w.core k { h with m0 := s.reg w a }) 16)

def execHdisag (f : Form) (id : BitVec 4) (d : Reg) (s : State) : Host.Outcome State Fault Refusal :=
  hingeOp f id [.dst d] s (fun s w k h =>
    match parityTrap s w (.status (0x1B + k)) with
    | some t => .error t
    | none => done (((s.setHSlot w.core k { h with hdisag := 0 }).clearStatus w (0x1B + k)).setReg w d (h.hdisag.setWidth 64)) 16)

def execHpause (f : Form) (id : BitVec 4) (s : State) : Host.Outcome State Fault Refusal :=
  hingeOp f id [] s (fun s w k h =>
    if h.state = .leaving then .error (.hinge 12)
    else withBlock s w h [blkHeld] <|
      let s1 := (s.setHSlot w.core k { h with state := .paused }).settleHinge w.core
      if s1.hHeld (h.at_ w.core) = 0 then done s1 16
      else .ok (.hold (s1.waiting w { mkWait .hinge false (lenBytes f.len) 16 with gen := BitVec.ofNat 64 k })))

def execHresume (f : Form) (id : BitVec 4) (s : State) : Host.Outcome State Fault Refusal :=
  hingeOp f id [] s (fun s w k h =>
    if h.state = .leaving then .error (.hinge 12)
    else if h.state = .paused then done (s.setHSlot w.core k { h with state := .opened, planp := false }) 16
    else done s 16)

/-! ## Steps of the Hinge engine -/

/-- NEXTTICK of a background set has come (R359). A record of MODE 1 whose PERIOD is 0 lies outside the range of the field and is not in R350's
list of invalid records: it is accepted, its ticks are due without end, and TIME stands (DESIGN CHOICE, assumption 94). -/
def State.tickDue (s : State) (core k : Nat) : Bool :=
  let h := s.hslot core k
  (s.core core).st == .active && h.state != .closed && h.background && decide (h.nextTick.toNat ≤ s.time.toNat)

/-- A background tick (R359); a block in error sends nothing, and the engine reports it (R407). -/
def State.hingeTick (s : State) (core k : Nat) : State :=
  let h := s.hslot core k
  let b := h.at_ core
  if !s.tickDue core k then s
  else
    let s1 := s.setHSlot core k { h with nextTick := addSpan h.nextTick (BitVec.ofNat 64 h.period) }
    let order := (List.range 16).map (fun i => (h.nextPart.toNat + i) % 16)
    match order.find? (partUsed h.part) with
    | none => s1
    | some i =>
      match s.blockErr core h [blkHead, h.blkVals] with
      | some e => if h.state ≠ .opened then s1 else s1.hingeFault core k e (s.ctxOf core) 0 0 0 (bits (s.readW (b + 0x20)) 63 32)
      | none =>
      if h.state ≠ .opened ∨ 2 ≤ s.hHeld b ∨ (s.readW b).toNat < 2 then s1
      else
        let after := ((List.range 16).map (fun j => (i + 1 + j) % 16)).find? (partUsed h.part)
        let (s2, _) := s1.hingePush core k (partName h.part i) false none
        s2.setHSlot core k { s2.hslot core k with nextPart := BitVec.ofNat 4 (after.getD i) }

def execHingeBgTick (core : Nat) (slot : BitVec 2) (s : State) : Host.Outcome State Fault Refusal :=
  .next (s.hingeTick core slot.toNat).wake

/-- A push reaches its target core on this module, where the links of its path carry it. -/
def execHingePushArrive (pkt : Nat) (s : State) : Host.Outcome State Fault Refusal :=
  match s.pkt pkt with
  | some p => .next (if p.kind = .push ∧ !p.landed ∧ p.module_.isNone ∧ s.carried p then (s.receive pkt p).wake else s)
  | none => .next s

/-- A reply reaches the sender, on a core that does not droop (R420): of a core of this module, or, with its code given, of another
module, whose links are UP (R339). The reply to a push of another module leaves by a link. -/
def execHingeReplyArrive (pkt : Nat) (code : BitVec 3) (s : State) : Host.Outcome State Fault Refusal :=
  match s.pkt pkt with
  | none => .next s
  | some p =>
    match p.kind with
    | .reply c => .next (if (if s.fromHere p then !s.drooping p.src.core else s.wayUp p.smodule) then (s.hingeReplied pkt p c).wake else s)
    | .push =>
      .next (if p.module_.any s.wayUp ∧ s.carried p ∧ !s.drooping p.src.core ∧ code ≠ 7 then (s.hingeReplied pkt p code.toNat).wake else s)
    | _ => .next s

end Sys2Proof.Machine
end

