-- ==== Sys2Proof/Machine/System.lean ====
section
/-!
DEFINITION. sys, eret, exit, mts and mfs (R47, R94-R110, R131-R135); class 7, 16 eu (R113).
-/
namespace Sys2Proof.Machine

def execSys (f : Form) (code : BitVec 12) (s : State) : Host.Outcome State Fault Refusal :=
  runInstr f [] (fun s _ => .ok (.sysEntry s code.toNat 16)) s

/-- The privilege an eret asks for (R132). -/
def eretPriv (st : Strand) (rc : BitVec 2) : Priv :=
  match rc.toNat with
  | 0 => if st.priv = .hv then st.eprivH else st.eprivS
  | 1 => .user
  | 2 => .sv
  | _ => .hv

def execEret (f : Form) (rc : BitVec 2) (a : Reg) (s : State) : Host.Outcome State Fault Refusal :=
  runInstr f [.sys, .src a] (fun s w =>
    let st := s.strand w
    let p := eretPriv st rc
    let t := s.reg w a
    if privCode st.priv < privCode p then .error { code := .priv }
    else if t.toNat % 4 ≠ 0 then .error { code := .align }
    else jumpAns (s.returnTo w t p) w t 16) s

/-- exit (R133): it waits for the loads and accesses that use what the strand holds, then the strand stops. -/
def execExit (f : Form) (s : State) : Host.Outcome State Fault Refusal :=
  runInstr f [] (fun s w =>
    if s.relWaits w (s.strand w).hold.counts then s.holdBack w .operand
    else done (s.exitStrand w) 16) s

/-! ## Status registers (R47) -/

/-- Selectors that system software alone may write (R47). -/
def statusSys (sel : Nat) : Bool := sel == 0x10 || sel == 0x15 || sel == 0x16

/-- The trap that a value meets (R11, R95, R101, R104). -/
def statusTrap (sel : Nat) (v : Word) : Option Trap :=
  if v &&& statusReserved sel ≠ 0 then some .illop
  else if sel = 0x02 then
    (if bits v 15 8 = 0 ∨ 16 < bits v 15 8 ∨ bits v 7 0 = 0 ∨ 128 < bits v 7 0 then some .illop else none)
  else if sel = 0x10 then
    (if bits v 35 18 ≤ bits v 17 0 ∧ bits v 17 0 ≤ bits v 53 36 ∧ bits v 53 36 ≤ 0x30000 ∧
        bits v 35 18 % 8 = 0 ∧ bits v 17 0 % 8 = 0 ∧ bits v 53 36 % 8 = 0 then none else some .illop)
  else if 0x04 ≤ sel ∧ sel ≤ 0x0F ∧ sel % 3 ≠ 0 then
    (if canonVa v ≠ v then some .illop else if v.toNat % 4 ≠ 0 then some { code := .align } else none)
  else none

/-- A status register written. -/
def State.putStatus (s : State) (w : Who) (sel : Nat) (v : Word) : State :=
  let st := s.strand w
  let l := s.live w.core
  match sel with
  | 0x00 => s.setStrand w { st with fctl := v }
  | 0x01 => s.setStrand w { st with fflag := v }
  | 0x02 => s.setStrand w { st with shape := v }
  | 0x03 => s.setStrand w { st with mask := v }
  | 0x10 => s.setStrand w { st with spill := v }
  | 0x11 => s.setStrand w { st with bitbuf := v }
  | 0x12 => s.setStrand w { st with wgen := v }
  | 0x15 => s.setLive w.core { l with energy := v }
  | 0x16 => s.setLive w.core { l with enstat := v }
  | 0x23 => s.setLive w.core { l with xconf := v }
  | n =>
    if 0x04 ≤ n ∧ n ≤ 0x0F then
      let lv := (n - 4) / 3
      s.setStrand w (st.setLoop lv ((st.loopRegs lv).set ((n - 4) % 3) v))
    else s

/-- The CORE register (R105). -/
def State.coreWord (s : State) (c : Nat) : Word :=
  BitVec.ofNat 64 (2 ^ 32 * s.module_.toNat + 2 ^ 20 * clusterOf c + 2 ^ 8 * coreY c + coreX c)

/-- HMASSn: the mass of the block in slot n, 0 for an empty slot (R105). -/
def State.hmassOf (s : State) (core k : Nat) : Word :=
  let h := s.hslot core k
  if h.state = .closed then 0 else s.readW (h.at_ core)

/-- A status register as mfs reads it. -/
def State.getStatus (s : State) (w : Who) (sel : Nat) : Word :=
  let st := s.strand w
  let l := s.live w.core
  match sel with
  | 0x00 => st.fctl
  | 0x01 => st.fflag
  | 0x02 => st.shape
  | 0x03 => st.mask
  | 0x10 => st.spill
  | 0x11 => st.bitbuf
  | 0x12 => st.wgen
  | 0x13 => s.time
  | 0x14 => l.vtime
  | 0x15 => l.energy
  | 0x16 => l.enstat
  | 0x23 => l.xconf
  | 0x24 => st.domain
  | 0x25 => s.coreWord w.core
  | 0x26 => st.gid
  | 0x27 => 0x08040100
  | 0x28 => 0xFF
  | 0x29 => s.feature2.setWidth 64
  | 0x2A => 0
  | n =>
    if 0x04 ≤ n ∧ n ≤ 0x0F then (st.loopRegs ((n - 4) / 3)).get ((n - 4) % 3)
    else if 0x17 ≤ n ∧ n ≤ 0x1A then s.hmassOf w.core (n - 0x17)
    else if 0x1B ≤ n ∧ n ≤ 0x1E then (s.hslot w.core (n - 0x1B)).hdisag.setWidth 64
    else if 0x1F ≤ n ∧ n ≤ 0x22 then st.pack (n - 0x1F)
    else 0

/-- A LOOP register is written after the instruction's own LoopStep, which sees the old values (R135): the answer carries the
PC that this LoopStep leaves. -/
def putLoop (s : State) (w : Who) (len sel : Nat) (v : Word) : Ans :=
  let st := s.strand w
  let st' := ({ st with pc := st.pc + BitVec.ofNat 64 len }).loopStep st.pc
  .jump (((s.setStrand w { st' with pc := st.pc }).putStatus w sel v).clearStatus w sel) st'.pc 16

/-- mts (R134, R135). The energy of an mts to ENERGY or ENSTAT falls in its own cycle and is discarded. -/
def execMts (f : Form) (ssel : BitVec 6) (a : Reg) (s : State) : Host.Outcome State Fault Refusal :=
  let sel := ssel.toNat
  runInstr f ((if statusSys sel then [Opnd.sys] else []) ++ [.src a]) (fun s w =>
    let v := s.reg w a
    match statusTrap sel v with
    | some t => .error t
    | none =>
      if 0x04 ≤ sel ∧ sel ≤ 0x0F then .ok (putLoop s w (lenBytes f.len) sel v)
      else done ((s.putStatus w sel v).clearStatus w sel) (if sel = 0x15 ∨ sel = 0x16 then 0 else 16)) s

def execMfs (f : Form) (ssel : BitVec 6) (d : Reg) (s : State) : Host.Outcome State Fault Refusal :=
  runInstr f [.dst d, .status ssel.toNat] (fun s w => done (s.setReg w d (s.getStatus w ssel.toNat)) 16) s

/-! ## The encoding that is no instruction (R49) -/

/-- A fetched encoding that the tables do not assign traps ILLOP; NEXTPC is PC plus the length of its first word. -/
def execUnassignedEncoding (s : State) : Host.Outcome State Fault Refusal :=
  let w := s.cur
  let pc := (s.strand w).pc
  s.trapNow w .illop pc (pc + BitVec.ofNat 64 (s.lenAt w pc))

end Sys2Proof.Machine
end

