-- ==== Sys2Proof/Machine/Xfer.lean ====
section
/-!
DEFINITION. The xfer engine: its instruction, its records, the transforms, and its steps (R83, R84, R214, R308, R319-R327,
R329). A step moves an operation's bytes up to the next boundary of 64, or up to where it completes, faults or is stopped.
-/
namespace Sys2Proof.Machine

/-! ## The block code FRC (R83) -/

/-- The biased exponent field of a bf16 or f32 encoding. -/
def biasedExp (f : Fmt) (x : Nat) : Nat := fMag f x / 2 ^ f.fb

/-- The exponent below every value and every scale of a block. -/
def frcLow : Int := -160

/-- FrcEncode: the block as a little-endian number, and its side code. -/
def frcEncode (f : Fmt) (m : Nat) (xs : List Nat) : Nat × Nat :=
  if xs.any (fun x => fIsNan f x || fIsInf f x) then (0xFF, 0xFF)
  else
    let top := (xs.map (biasedExp f)).foldl max 0
    let sc : Int := (top : Int) - 125 - m
    let lim : Int := 2 ^ (m - 1)
    let cs := xs.map (fun x => max (-lim) (min (lim - 1) (roundInt 0 ((fVal f x).scale (-sc))).1))
    let errs := List.zipWith (fun x c => ((fVal f x).at frcLow - c * 2 ^ (sc - frcLow).toNat).natAbs) xs cs
    let err := errs.foldl max 0
    let lg := if err = 2 ^ Nat.log2 err then Nat.log2 err else Nat.log2 err + 1
    let side := if err = 0 then 0 else max 1 (lg - 33)
    (top + 2 ^ 8 * cs.foldr (fun c acc => wrap m c + 2 ^ m * acc) 0, side)

/-- Element i of FrcDecode. -/
def frcDecode (f : Fmt) (m code i : Nat) : Nat :=
  let top := code % 256
  if top = 0xFF then f.nan
  else (roundTo f 0 false ((Num.ofInt (sval m (code / 2 ^ (8 + m * i)))).scale ((top : Int) - 125 - m))).1

/-! ## Transforms (R323) -/

def isF16or32 (t : Ty) : Bool := t == .bf16 || t == .f16 || t == .f32

/-- The pairing of records that a transform accepts. -/
def xformOk (xf bud : Nat) (s d : LRec) : Bool :=
  let n := 8 * frcBytes bud
  match xf with
  | 0 => s.ty == d.ty && s.count == d.count
  | 1 => s.ty == d.ty && d.e0 == s.e1 && d.e1 == s.e0 && d.e2 == s.e2 && d.e3 == s.e3
  | 2 => (s.ty == .bf16 || s.ty == .f32) && d.ty == .n8 && s.e0 % 4 == 0 && s.e1 % 4 == 0 && d.count * 128 == s.count * n
  | 3 => s.ty == .n8 && (d.ty == .bf16 || d.ty == .f32) && d.e0 % 4 == 0 && d.e1 % 4 == 0 && s.count * 128 == d.count * n
  | 4 => isF16or32 s.ty && (d.ty == .e4m3 || d.ty == .e5m2) && s.e0 == d.e0 && s.e1 == d.e1 && s.e2 == d.e2 && s.e3 == d.e3 &&
         s.e0 % 32 == 0
  | 5 => s.ty == .lut4 && (d.ty == .i8 || d.ty == .i16 || d.ty == .i32 || isF16or32 d.ty) && s.count == d.count
  | _ => false

/-- The number of an element in element order. -/
def LRec.number (r : LRec) (i : Nat × Nat × Nat × Nat) : Nat := i.1 + r.e0 * (i.2.1 + r.e1 * (i.2.2.1 + r.e2 * i.2.2.2))

/-- The FRC block of an element, and its index within the block. -/
def LRec.frcBlock (r : LRec) (i : Nat × Nat × Nat × Nat) : Nat × Nat :=
  (i.1 / 4 + r.e0 / 4 * (i.2.1 / 4 + r.e1 / 4 * (i.2.2.1 + r.e2 * i.2.2.2)), 4 * (i.2.1 % 4) + i.1 % 4)
/-- Element k of FRC block n. -/
def LRec.frcElem (r : LRec) (n k : Nat) : Nat :=
  let b0 := n % (r.e0 / 4)
  let b1 := n / (r.e0 / 4) % (r.e1 / 4)
  let i2 := n / (r.e0 / 4 * (r.e1 / 4)) % r.e2
  let i3 := n / (r.e0 / 4 * (r.e1 / 4) * r.e2)
  r.number (4 * b0 + k % 4, 4 * b1 + k / 4, i2, i3)

/-- The source elements that destination element j is made of. -/
def xferNeeds (xf bud : Nat) (s d : LRec) (j : Nat) : List Nat :=
  match xf with
  | 1 => let i := d.index j; [s.number (i.2.1, i.1, i.2.2.1, i.2.2.2)]
  | 2 => (List.range 16).map (s.frcElem (j / frcBytes bud))
  | 3 => (List.range (frcBytes bud)).map (fun k => (d.frcBlock (d.index j)).1 * frcBytes bud + k)
  | 4 => (List.range 32).map (fun k => j / 32 * 32 + k)
  | _ => [j]

/-- Those of them whose reading is counted with element j (R327): a source element is read once for its block. -/
def xferCounted (xf bud : Nat) (s d : LRec) (j : Nat) : List Nat :=
  let first : Bool := match xf with
    | 2 => j % frcBytes bud == 0
    | 3 => (d.frcBlock (d.index j)).2 == 0
    | 4 => j % 32 == 0
    | _ => true
  if first then xferNeeds xf bud s d j else []

/-- Destination element j from the values of the elements it needs, and the AUX byte written with it: number and value. -/
def xferValue (r : XferRec) (s d : LRec) (j : Nat) (vs : List Nat) : Nat × Option (Nat × Nat) :=
  let bud := r.budget.toNat
  match r.xform.toNat with
  | 2 =>
    let n := frcBytes bud
    let (code, side) := frcEncode (fmtOf s.ty) (frcBits bud) vs
    (code / 2 ^ (8 * (j % n)) % 256, if j % n = n - 1 then some (j / n, side) else none)
  | 3 =>
    let code := vs.foldr (fun b acc => b + 256 * acc) 0
    (frcDecode (fmtOf d.ty) (frcBits bud) code (d.frcBlock (d.index j)).2, none)
  | 4 =>
    let (sc, cs, _) := mxQuantise (fmtOf d.ty) r.fctlc (vs.map (readF (fmtOf s.ty) r.fctlc))
    (cs.getD (j % 32) 0, if j % 32 = 31 then some (j / 32, sc) else none)
  | 5 =>
    let v := lutEntry r.lut (vs.headD 0)
    (if isF16or32 d.ty then (roundTo (fmtOf d.ty) 0 false (Num.ofInt v)).1 else wrap (8 * memWidth d.ty) v, none)
  | _ => (vs.headD 0, none)

/-! ## The accesses of the engine (R214, R319-R321, R325) -/

/-- Where an operation stops short: it waits for something elsewhere, or meets a fault of R317. -/
inductive XStop where
  | wait
  | fault (f : XFault)
  deriving DecidableEq, Repr

/-- The strand that an operation acts for. -/
def XferRec.who (r : XferRec) (core : Nat) : Who := ⟨core, r.strand⟩

/-- What that strand holds, or held when it exited (R133; DEDUCED, assumption 81). -/
def State.engHold (s : State) (core : Nat) (r : XferRec) : Holdings := r.left.getD (s.strand (r.who core)).hold

/-- The flat address of a target as the engine of a core reaches it; none for a window position that is not held. -/
def State.engFlat (s : State) (core : Nat) (r : XferRec) (t : Target) : Option Nat :=
  match t with
  | .lm c off => (if c = core then lmPhys (s.engHold core r) off else s.awayPhys r.job c off).map (lmFlat c)
  | .hbm pa _ => some pa
  | .peer m a _ => some (peerFlat m a)
  | .host a => some (hostFlat a)
  | .mmio pa => some pa

/-- A target that the engine cannot reach now: the LM of another core on which the context is not ACTIVE, or one to which the links of the
first path do not lead. -/
def State.engAway (s : State) (core : Nat) (t : Target) : Bool :=
  match t with
  | .lm c _ => c != core && (!s.isActive (s.ctxOf core) c || !s.pathUp 0 core none c)
  | .peer m _ _ => !s.pathUp 0 core (some m) 0
  | .hbm pa _ => !s.meshCarries 0 core (stackEntry (stackOf pa))
  | .host _ => !s.meshCarries 0 core hostEntry
  | .mmio pa => !s.meshCarries 0 core (mmioEntry pa)

/-- A target in a FAILED module (R343). -/
def State.engDead (s : State) (t : Target) : Bool :=
  match t with
  | .peer m _ _ => (s.modEnt m).state == .failed
  | _ => false

/-- The place of a target whose flat address is known. -/
def Target.placed (t : Target) (f : Nat) : Place :=
  match t with
  | .lm _ _ => .lm f
  | .hbm pa sy => .hbm pa sy
  | .host _ => .host f
  | .peer m _ sy => .peer m f sy
  | .mmio pa => .mmio pa

/-- The engine reads n bytes as a load of the operation's strand (R214), which may have exited since. -/
def State.engRead (s : State) (core : Nat) (r : XferRec) (va : Word) (n : Nat) : Except XStop (Nat × Nat × State) :=
  let w := r.who core
  let stop (c l : Nat) (e : Word) : Except XStop (Nat × Nat × State) := .error (.fault ⟨4, c, l, e, va⟩)
  match s.xlatFor core r.priv (r.job.map (·.1)) va .load .all with
  | .error t => stop t.cause t.level t.entry
  | .ok x =>
    if s.engDead x.tgt then stop 9 x.ent.level x.ent.entry
    else if s.engAway core x.tgt then .error .wait
    else
      match s.engFlat core r x.tgt with
      | none => stop 8 x.ent.level x.ent.entry
      | some f =>
        if (s.mineOf w r.birth).any (fun e => e.2.ahead false f n) || (r.left.isNone && s.loadAhead w f n) then .error .wait
        else
          match s.eccCause (clusterOf core) f n (match x.tgt with | .hbm _ sy => !sy | _ => false) with
          | some c => stop c x.ent.level x.ent.entry
          | none =>
            let s1 := s.useXlat w { x with claim := false }
            let (v, s2) := if r.left.isNone then s1.loadAt w va (x.tgt.placed f) n else s1.readAt core (x.tgt.placed f) n
            .ok (v, f, s2)

/-- The CAUSE with which the engine's write to a page is refused, or none. Pages of host memory and of control registers have no
shadow frame (R314, R319). -/
def State.engCause (s : State) (core : Nat) (r : XferRec) (t : TlbEnt) (va : Word) : Option Nat :=
  let kern := r.job.map (·.1)
  let replay := match kern with | some k => (s.kernel k).replay && !pteSync t.entry | none => false
  let tgt := leafTarget t.entry (va.toNat - t.base)
  if !rightsOk t.entry .store r.priv then some 4
  else if (match tgt with | .lm c _ => !s.inAllot t.ctx c | _ => false) then some 33
  else if (match tgt with | .peer m _ _ => (s.route m).isNone | _ => false) then some 32
  else if !pteSp t.entry then some 6
  else if s.shadowBad t then some 3
  else match s.claimant t.slot with
    | some k => if kern = some k then none else some 7
    | none => if replay && pteTT t.entry != 2 && pteSw (s.shadowWord t.slot) then some 7 else none

/-- n bytes copied by the engine, around the blocks that only the Hinge engine writes (R356). -/
def State.copyAround (s : State) (src dst n : Nat) : State :=
  let open_ (a k : Nat) : Bool := isLm a && (s.live (lmCore a)).hingeCovers (a - lmFlat (lmCore a) 0) k
  if open_ dst n then
    (List.range n).foldl (fun acc i => if open_ (dst + i) 1 then acc else acc.write (dst + i) 1 (s.read (src + i) 1)) s
  else s.copyFrame src dst n

/-- The live frame copied into the shadow frame of a page: 4 KiB at a time in LM, where a frame may lie in a window. -/
def State.fillFrame (s : State) (core : Nat) (r : XferRec) (t : TlbEnt) : State :=
  let sh := s.shadowWord t.slot
  let n := pageSize t.z
  if pteTT t.entry = 2 then
    (List.range (n / 4096)).foldl (fun acc i =>
      match acc.engFlat core r (leafTarget t.entry (4096 * i)), acc.engFlat core r (leafTarget sh (4096 * i)) with
      | some a, some b => acc.copyAround a b 4096
      | _, _ => acc) s
  else
    (s.dropFrame (frameFlat t.entry) n).copyFrame (frameFlat t.entry) (frameFlat sh) n

/-- The first write to a shadow frame since the last latch (R320). -/
def State.touchShadow (s : State) (core : Nat) (r : XferRec) (t : TlbEnt) : State :=
  let sh := s.shadowWord t.slot
  if pteSw sh then s
  else
    match r.job with
    | some (k, _) =>
      if (s.kernel k).replay && !pteSync t.entry && pteTT t.entry != 2 then s.claimFrame k t.entry t.slot else plain s sh
    | none => plain s sh
where
  plain (s : State) (sh : Word) : State :=
    (if pteSf t.entry then s.fillFrame core r t else s).setShadow t.slot t.z (setBits sh 8 8 1)

/-- The engine writes n bytes to the shadow frame of their page: under a mask of bits, for a nibble. -/
def State.engWrite (s : State) (core : Nat) (r : XferRec) (va : Word) (n v mask : Nat) : Except XStop (Nat × State) :=
  let w := r.who core
  let stop (c l : Nat) (e : Word) : Except XStop (Nat × State) := .error (.fault ⟨5, c, l, e, va⟩)
  match s.leafFor core va with
  | .error (c, l, e) => stop c l (stopEntry c e)
  | .ok t =>
    match s.engCause core r t va with
    | some c => stop c t.level t.entry
    | none =>
      let tgt := leafTarget (s.shadowWord t.slot) (va.toNat - t.base)
      if s.engDead tgt then stop 9 t.level t.entry
      else if s.engAway core tgt then .error .wait
      else
        match s.engFlat core r tgt with
        | none => stop 8 t.level t.entry
        | some f =>
          let s1 := (s.useXlat w ⟨va, tgt, t, false⟩).touchShadow core r t
          if isLm f && (s1.live (lmCore f)).hingeCovers (f - lmFlat (lmCore f) 0) n then .ok (f, s1)
          else
            let s2 := if isLm f then s1 else s1.dropFrame (f / 64 * 64) 64
            let old := s2.read f n
            .ok (f, ((s2.write f n (old - (old &&& mask) + (v &&& mask))).clearUnits f n).setHeads [] false f n)

/-! ## A run of an operation (R324, R327) -/

/-- What a group of up to 16 elements adds to XCONF: bank conflicts among its accesses to the core's own LM. -/
def bankConflicts (core : Nat) (flats : List Nat) : Nat :=
  let own := ((flats.filter (fun f => isLm f && lmCore f == core)).map (fun f => f / 8)).eraseDups
  ((List.range 16).map (fun b => (own.filter (fun x => x % 16 == b)).length)).foldl max 1 - 1

/-- A list cut into groups of 16. -/
def groups16 (l : List Nat) : Nat → List (List Nat)
  | 0 => []
  | k + 1 => if l = [] then [] else l.take 16 :: groups16 (l.drop 16) k

def State.addConf (s : State) (core : Nat) (flats : List Nat) : State :=
  let n := ((groups16 flats (flats.length / 16 + 1)).map (bankConflicts core)).foldl (· + ·) 0
  if n = 0 then s
  else
    let l := s.live core
    s.setLive core { l with xconf := BitVec.ofNat 64 (min (l.xconf.toNat + n) (2 ^ 32 - 1)) }

/-- Source elements read, in order, until one cannot be: the value and the flat address of each, and what stopped them. -/
def State.readElems (s : State) (core : Nat) (r : XferRec) (src : LRec) : List Nat → State × AMap (Nat × Nat) × Option XStop
  | [] => (s, [], none)
  | k :: t =>
    match s.engRead core r (src.addr (src.index k)) src.width with
    | .error e => (s, [], some e)
    | .ok (v, f, s1) =>
      let (s2, m, e) := s1.readElems core r src t
      let v' := if src.ty = .lut4 then v / (if (src.index k).1 % 2 = 0 then 1 else 16) % 16 else v
      (s2, AMap.put m k (v', f), e)

/-- Destination elements written, in order, until one cannot be: how many, the flat addresses, and what stopped them. -/
def State.writeElems (s : State) (core : Nat) (r : XferRec) (src dst : LRec) (m : AMap (Nat × Nat)) :
    List Nat → State × Nat × List Nat × Option XStop
  | [] => (s, 0, [], none)
  | j :: t =>
    let need := xferNeeds r.xform.toNat r.budget.toNat src dst j
    if !need.all (fun k => (m.lookup k).isSome) then (s, 0, [], none)
    else
      let (v, aux) := xferValue r src dst j (need.map (fun k => (AMap.get (0, 0) m k).1))
      let i := dst.index j
      let odd := dst.ty = .lut4 ∧ i.1 % 2 = 1
      let mask := if dst.ty = .lut4 then (if odd then 0xF0 else 0x0F) else 2 ^ (8 * dst.width) - 1
      match s.engWrite core r (dst.addr i) dst.width (if odd then v * 16 else v) mask with
      | .error e => (s, 0, [], some e)
      | .ok (f, s1) =>
        let auxed : Except XStop State := match aux with
          | some (n, b) =>
            match s1.engWrite core r (dst.aux + BitVec.ofNat 64 n) 1 b 0xFF with
            | .error e => .error e
            | .ok (_, s2) => .ok s2
          | none => .ok s1
        match auxed with
        | .error e => (s, 0, [], some e)
        | .ok s2 =>
          let (s3, n, fs, e) := s2.writeElems core r src dst m t
          (s3, n + 1, f :: fs, e)

/-- Elements with their flat addresses, written in one run: a unit in error that one piece of 64 bytes covers whole is cleared (R408). -/
def State.clearPieces (s : State) (dst : LRec) (ws : List (Nat × Nat)) : State :=
  if s.badUnits = [] ∧ s.poisoned = [] then s
  else
    let whole (u : Nat) : Bool :=
      let k := if isLm u then 8 else 64
      let js := ws.filter (fun e => decide (u ≤ e.2 ∧ e.2 < u + k))
      let pieces := (js.map (fun e => dst.bytes e.1 / 64)).eraseDups
      decide (pieces.length = 1 ∧ (js.map (·.2)).eraseDups.length * dst.width = k ∧ (dst.ty = .lut4 → js.length = 2 * k)) &&
        !(isLm u && (s.live (lmCore u)).hingeCovers (u - lmFlat (lmCore u) 0) 8)
    { s with badUnits := s.badUnits.filter (fun u => !whole u), poisoned := s.poisoned.filter (fun u => !whole u) }

/-- Destination elements j up to a limit, group by group: the state, the next element, what was written where, and what stopped it. -/
def State.runElems (s : State) (core : Nat) (r : XferRec) (src dst : LRec) (limit : Nat) :
    Nat → Nat → List (Nat × Nat) → State × Nat × List (Nat × Nat) × Option XStop
  | 0, j, all => (s, j, all, none)
  | fuel + 1, j, all =>
    if limit ≤ j then (s, j, all, none)
    else
      let js := (List.range (min 16 (limit - j))).map (· + j)
      let need := (js.flatMap (xferNeeds r.xform.toNat r.budget.toNat src dst)).eraseDups
      let (s1, m, e1) := s.readElems core r src need
      let (s2, n, ws, e2) := s1.writeElems core r src dst m js
      let fs := ((js.take n).flatMap (xferCounted r.xform.toNat r.budget.toNat src dst)).map (fun k => (AMap.get (0, 0) m k).2)
      let s3 := (s2.addConf core fs).addConf core ws
      let out := all ++ js.zip ws
      match e2, e1 with
      | some e, _ => (s3, j + n, out, some e)
      | none, some e => (s3, j + n, out, some e)
      | none, none => s3.runElems core r src dst limit fuel (j + n) out

def State.setXfer (s : State) (core slot : Nat) (r : Option XferRec) : State :=
  s.setLive core { s.live core with xfers := AMap.put (s.live core).xfers slot r }
def State.xferRec (s : State) (core slot : Nat) : Option XferRec := AMap.get none (s.live core).xfers slot

/-- A record's operation run to its end, or up to so many destination bytes, with DONE as it then stands. -/
def State.runXfer (s : State) (core slot : Nat) (r : XferRec) (upTo : Option Nat) : State × XferRec × Option XStop :=
  let src := LRec.of r.src
  let dst := LRec.of r.dst
  let j0 := 8 * r.done / dst.elemBits
  let limit := match upTo with
    | some b => min dst.count (8 * b / dst.elemBits)
    | none => dst.count
  let (s0, j, ws, e) := s.runElems core r src dst limit (dst.count / 16 + 2) j0 []
  let s1 := s0.clearPieces dst ws
  let r1 := { r with done := if j = dst.count then dst.total else dst.bytes j }
  (s1.setXfer core slot (some r1), r1, e)

/-! ## xfer (R329) -/

/-- A record in the strand's LM: 64 bytes through its window, or the trap. -/
def State.readLrec (s : State) (w : Who) (off : Word) : Except Trap (BitVec 512) :=
  if off.toNat % 64 ≠ 0 then .error (.align off)
  else if 0x30000 ≤ off.toNat then .error (.access 35 off)
  else
    match lmPhys (s.strand w).hold off.toNat with
    | none => .error (.access 8 off)
    | some p =>
      let f := lmFlat w.core p
      match s.eccCause (clusterOf w.core) f 64 with
      | some c => .error { code := .ecc, cause := c, va := off }
      | none => .ok (BitVec.ofNat 512 (s.read f 64))

/-- An earlier access of the strand to the bytes of a record has not performed (R145). -/
def State.lrecBusy (s : State) (w : Who) (off : Word) : Bool :=
  match lmPhys (s.strand w).hold off.toNat with
  | some p => s.mustWait w false (lmFlat w.core p) 64
  | none => false

/-- The barrier that an operation names stands in its kernel's record from its start (R304), by the operation's own name where it does not
translate yet. -/
def State.noteXferBar (s : State) (core : Nat) (r : XferRec) : State :=
  if r.bar = 0 then s
  else s.noteBarOf (r.job.map (·.1)) (match s.xlatFor core r.priv (r.job.map (·.1)) r.bar .atomic .object with
    | .error _ => xferName r.order
    | .ok x => (s.engFlat core r x.tgt).getD (xferName r.order)) none

/-- xfer (R329). Of several traps ALIGN and ACCESS of the offsets come first, then the reads, then the checks of the source's record before
the destination's, ILLOP before ALIGN in each, then the pairing: the rule gives no order (DESIGN CHOICE, assumption 92). -/
def execXfer (f : Form) (xf : BitVec 3) (bud : BitVec 2) (d a b : Reg) (s : State) : Host.Outcome State Fault Refusal :=
  let feat : List Opnd := if xf = 2 ∨ xf = 3 then [.feat 2] else if xf = 5 then [.feat 1] else []
  runInstr f (feat ++ [.mem, .status 0, .src a, .src b] ++ if d = 0 then [] else [.src d]) (fun s w =>
    let so := s.reg w a
    let dof := s.reg w b
    let bar := if d = 0 then 0 else s.reg w d
    let range (o : Word) : Option Trap :=
      if o.toNat % 64 ≠ 0 then some (.align o) else if 0x30000 ≤ o.toNat then some (.access 35 o) else none
    match range so, range dof with
    | some t, _ => .error t
    | none, some t => .error t
    | none, none =>
      if [so, dof].any (s.lrecBusy w) then s.holdBack w .operand else
      match s.readLrec w so with
      | .error t => .error t
      | .ok sr =>
        match s.readLrec w dof with
        | .error t => .error t
        | .ok dr =>
          match lrecTrap sr so, lrecTrap dr dof with
          | some t, _ => .error t
          | none, some t => .error t
          | none, none =>
            if !xformOk xf.toNat bud.toNat (LRec.of sr) (LRec.of dr) then .error .illop
            else if bar.toNat % 64 ≠ 0 then .error (.align bar)
            else
              match (List.range 4).find? (fun k => (s.xferRec w.core k).isNone) with
              | none => s.holdBack w .xferFull
              | some k =>
                let st := s.strand w
                let r : XferRec := {
                  xform := xf, budget := bud, strand := w.strand, pc := st.pc, srec := so.setWidth 18,
                  drec := dof.setWidth 18, bar := bar, done := 0, fctlc := st.fctl, lut := (s.live w.core).lut, src := sr,
                  dst := dr, started := false, fault := none, order := s.nextId, job := st.job, priv := st.priv, birth := st.birth, left := none,
                  stale := false }
                let s1 : State := { s with nextId := s.nextId + 1 }
                done ((s1.setXfer w.core k (some r)).noteXferBar w.core r) 16) s

/-! ## The steps of the engine -/

/-- Records in use on a core, with their places. -/
def CoreCtx.xferList (l : CoreCtx) : List (Nat × XferRec) :=
  (List.range 4).filterMap (fun k => (AMap.get none l.xfers k).map (fun r => (k, r)))

/-- The engine begins the oldest operation that has not begun, once every one that has begun has completed (R324). -/
def State.xferStart (s : State) (core : Nat) : State :=
  let rs := (s.live core).xferList
  if (s.core core).st ≠ .active ∨ rs.any (fun e => e.2.started) then s
  else
    match rs.find? (fun e => rs.all (fun o => decide (e.2.order ≤ o.2.order))) with
    | some (k, r) => s.setXfer core k (some { r with started := true })
    | none => s

def execXferOpStart (core : Nat) (s : State) : Host.Outcome State Fault Refusal := .next (s.xferStart core).wake

/-- A fault stops an operation, with DONE as it stands, and is reported (R325). -/
def State.xferStop (s : State) (core slot : Nat) (r : XferRec) (f : XFault) : State :=
  (s.setXfer core slot (some { r with fault := some f })).report (dieOf core) (r.report (s.ctxOf core) core slot f)

/-- What becomes of the arrival at the end of an operation. -/
inductive XArrive where
  | arrived (s : State)
  | invalid
  | wait
  | fault (cause level : Nat) (entry : Word)

/-- The engine arrival (R299, R308). It names no object: that was done at the start (R304). -/
def State.engArrive (s : State) (core : Nat) (r : XferRec) : XArrive :=
  if r.bar = 0 then .arrived s
  else
    match s.xlatFor core r.priv (r.job.map (·.1)) r.bar .atomic .object with
    | .error t => .fault t.cause t.level t.entry
    | .ok x =>
      if s.engAway core x.tgt then .wait
      else
        match s.engFlat core r x.tgt with
        | none => .fault 8 x.ent.level x.ent.entry
        | some f =>
          if isLm f && (s.live (lmCore f)).hingeCovers (f - lmFlat (lmCore f) 0) 16 then .fault 11 x.ent.level x.ent.entry
          else
            let s1 := (s.bypass (clusterOf core) f 16).recall (clusterOf core) f
            let v := s1.bar0 f
            match s1.eccCause (clusterOf core) f 16 with
            | some c => .fault c x.ent.level x.ent.entry
            | none =>
              if barInvalid v then .invalid
              else .arrived (((s1.barArriveAt f).barDone r.birth [] (some (s.ctxOf core, r.bar.toNat / 64)) f).genOf (r.job.map (·.1)) r.order f
                (barGen v))

/-- A started operation that is not stopped, on a core that is ACTIVE. -/
def State.xferLive (s : State) (core slot : Nat) : Option XferRec :=
  match s.xferRec core slot with
  | some r => if r.started && r.fault.isNone && (s.core core).st == .active then some r else none
  | none => none

/-- The bytes up to the next boundary of 64 reach their frames (R321, R325). -/
def State.xferPiece (s : State) (core slot : Nat) : State :=
  match s.xferLive core slot with
  | none => s
  | some r =>
    let (s1, _, e) := s.runXfer core slot r (some ((r.done / 64 + 1) * 64))
    if e.isSome then s else s1

/-- Every byte reaches its frame; the operation arrives on its barrier, and its record is freed (R324). An arrival at an
INVALID object is reported, and the record stays for service (R308). -/
def State.xferComplete (s : State) (core slot : Nat) : State :=
  match s.xferLive core slot with
  | none => s
  | some r =>
    let (s1, r1, e) := s.runXfer core slot r none
    match e with
    | some _ => s
    | none =>
      match s1.engArrive core r1 with
      | .arrived s2 => s2.setXfer core slot none
      | .invalid => s1.xferStop core slot r1 ⟨18, 39, 0, 0, r1.bar⟩
      | _ => s

def execXferComplete (core : Nat) (slot : BitVec 2) (s : State) : Host.Outcome State Fault Refusal :=
  .next (s.xferComplete core slot.toNat).wake

/-- A run that meets a fault: the operation stops there. -/
def State.xferFault (s : State) (core slot : Nat) : State :=
  match s.xferLive core slot with
  | none => s
  | some r =>
    let (s1, r1, e) := s.runXfer core slot r none
    match e with
    | some (.fault f) => s1.xferStop core slot r1 f
    | some .wait => s
    | none =>
      match s1.engArrive core r1 with
      | .fault c l en => s1.xferStop core slot r1 ⟨5, c, l, en, r1.bar⟩
      | _ => s

def execXferFault (core : Nat) (slot : BitVec 2) (s : State) : Host.Outcome State Fault Refusal :=
  .next (s.xferFault core slot.toNat).wake

/-- The layout records of an operation read again from LM (R326): a record in error is a fault of the engine's read (R407). What they hold
then is not checked again, and a record at a position that its strand no longer holds stays as it was copied (DESIGN CHOICE, assumption
91). -/
def State.lrecsAgain (s : State) (core : Nat) (r : XferRec) : Except XFault XferRec :=
  let rd (off : Nat) (old : BitVec 512) : Except XFault (BitVec 512) :=
    match lmPhys (s.engHold core r) off with
    | none => .ok old
    | some p => match s.eccCause (clusterOf core) (lmFlat core p) 64 with
      | some c => .error ⟨4, c, 0, 0, BitVec.ofNat 64 off⟩
      | none => .ok (BitVec.ofNat 512 (s.read (lmFlat core p) 64))
  match rd r.srec.toNat r.src, rd r.drec.toNat r.dst with
  | .ok a, .ok b => .ok { r with src := a, dst := b, stale := false }
  | .error f, _ => .error f
  | _, .error f => .error f

/-- An operation reads its layout records again, or stops on the fault that it meets; one that has stopped already does so when it goes
on. -/
def State.rereadXfer (s : State) (core slot : Nat) (r : XferRec) : State :=
  match s.lrecsAgain core r with
  | .ok r1 => s.setXfer core slot (some r1)
  | .error f => if r.fault.isSome then s.setXfer core slot (some { r with stale := true }) else s.xferStop core slot { r with stale := true } f

/-- The control cores have serviced the fault: the operation goes on from byte DONE (R325). -/
def execXferResume (core : Nat) (slot : BitVec 2) (s : State) : Host.Outcome State Fault Refusal :=
  match s.xferRec core slot.toNat with
  | some r =>
    if r.fault.isNone then .next s
    else if r.stale then .next (s.rereadXfer core slot.toNat { r with fault := none }).wake
    else .next (s.setXfer core slot.toNat (some { r with fault := none })).wake
  | none => .next s

/-- A save stops an operation that runs at a 64-byte boundary of DONE, so many blocks further on (R223, R325). -/
def State.xferPark (s : State) (core blocks : Nat) : State :=
  (s.live core).xferList.foldl (fun acc e =>
    if e.2.started && e.2.fault.isNone then
      let (s1, r1, x) := acc.runXfer core e.1 e.2 (some ((e.2.done + 63) / 64 * 64 + 64 * blocks))
      match x with
      | some (.fault f) => s1.xferStop core e.1 r1 f
      | _ => s1
    else acc) s

/-- After a restore the engine of a core reads its layout records again (R326). -/
def State.xferReread (s : State) (core : Nat) : State :=
  (s.live core).xferList.foldl (fun acc e => acc.rereadXfer core e.1 e.2) s

end Sys2Proof.Machine
end

