-- ==== Sys2Proof/Machine/Context.lean ====
section
/-!
DEFINITION. Contexts on cores: SaveCore and RestoreCore, gang switches, pre-emption, redelivery, creation and
destruction, ctxinfo and enrd (R217-R240).
-/
namespace Sys2Proof.Machine

/-! ## States of a context (R219, R220) -/

/-- STATE of the descriptor follows the core states. -/
def State.noteCtx (s : State) (ctx : Nat) : State :=
  let c := s.ctxRec ctx
  s.write (c.desc + 3) 1 (if !c.alive then 3 else if c.running then 2 else if c.ran then 1 else 0)

def State.setCoreSt (s : State) (ctx core : Nat) (st : CoreSt) : State :=
  let c := s.ctxRec ctx
  let c1 : Ctx := { c with cores := AMap.put c.cores core st, ran := c.ran || st != .away }
  State.noteCtx { s with contexts := AMap.put s.contexts ctx c1 } ctx

/-! ## SaveCore (R223, R353) -/

/-- The wait of a strand whose instruction is saved as its next instruction: an offer that is withdrawn, a Hinge instruction
that has not pushed. -/
def Wait.parked (v : Wait) : Wait :=
  if v.kind = .msend ∨ (v.kind = .hinge ∧ v.flat ≠ 2) then { v with retry := true } else v

/-- SaveCore begins for the context that is ACTIVE on a core. -/
def State.beginSave (s : State) (core : Nat) : State :=
  match (s.core core).ctx with
  | none => s
  | some ctx =>
    if (s.core core).st ≠ .active then s
    else
      let s1 := (List.range 4).foldl (fun acc n =>
        let w : Who := ⟨core, n⟩
        match (acc.strand w).wait with
        | some v =>
          let acc1 := if v.kind = .msend ∧ !v.retry then acc.msgWithdraw w v.obj.toNat else acc
          acc1.setStrand w { acc1.strand w with wait := some v.parked }
        | none => acc) s
      let c := s1.core core
      let slots := (List.range 4).foldl (fun (m : AMap HSlot) k =>
        let h := c.live.hslot k
        if h.state = .opened then AMap.put m k { h with state := .paused, savep := true } else m) c.live.hslots
      (s1.setCore core { c with st := .saving, live := { c.live with hslots := slots } }).setCoreSt ctx core .saving

/-- Nothing is held by the set in a slot. -/
def State.hingeIdle (s : State) (core k : Nat) : Bool :=
  let h := s.hslot core k
  h.state == .closed || s.hHeld (h.at_ core) == 0

/-- An operation that a save need not wait for (R217, R223): it has performed or been diverted, it reads and waits at its target, it is
held for a full spill queue or for service, or it is an offer or a push. -/
def Packet.parked (p : Packet) : Bool :=
  p.landed || (p.kind.isRead && p.held) || p.full || p.refused || p.kind == .msg || p.kind == .push

/-- An operation that a save need not wait for, or one behind such an operation of its strand. -/
def State.pktParked (s : State) (p : Packet) : Bool :=
  p.parked || (s.blocked p (p.kind == .store true) &&
    s.net.any (fun e => e.2.src == p.src && e.2.birth == p.birth && decide (e.2.seq < p.seq) &&
      (e.2.full || e.2.refused || (e.2.kind.isRead && e.2.held))))

/-- A load of a strand that SaveCore need not wait for: it waits, or has performed, at its target, or its read has met an error. -/
def State.loadParked (s : State) (w : Who) (l : PLoad) : Bool :=
  match l.pkt with
  | none => (s.loadError w l).isSome
  | some id => (s.pkt id).all s.pktParked

/-- The loads of a core that have met an error keep it, whatever becomes of their storage. -/
def State.keepErrors (s : State) (core : Nat) : State :=
  s.setLive core { s.live core with strands := AMap.mapVals (s.live core).strands (fun n st => { st with
    loads := st.loads.map (fun l => match l.pkt, s.loadError ⟨core, n⟩ l with
      | none, some c => { l with val := some (l.val.getD 0), poison := c }
      | _, _ => l) }) }

/-- Issued work of the strands of a core has drained, as far as SaveCore waits for it. -/
def State.drained (s : State) (core : Nat) : Bool :=
  let l := s.live core
  l.queue.isEmpty &&
  (List.range 4).all (fun n =>
    let st := l.strand n
    (match st.wait with | some v => v.kind != .pause && !(v.kind == .hinge && v.flat == 2) | none => true) &&
    st.loads.all (s.loadParked ⟨core, n⟩) && s.hingeIdle core n) &&
  s.net.all (fun e => e.2.src.core != core || e.2.smodule != s.module_.toNat || some e.2.ctx != (s.core core).ctx ||
    s.pktParked e.2)

/-- Storage errors of the core's LM stay with the image: their lines of the slot are poisoned. -/
def State.errsOut (s : State) (core base : Nat) : State :=
  let mine (u : Nat) : Bool := isLm u && lmCore u == core
  let bad := (s.badUnits.filter mine ++ s.poisoned.filter mine).map (fun u => (base + (u - lmFlat core 0)) / 64 * 64)
  { s with badUnits := s.badUnits.filter (fun u => !mine u), poisoned := bad.eraseDups ++ s.poisoned.filter (fun u => !mine u) }

/-- Poisoned lines of an image make their words of LM poisoned. -/
def State.errsIn (s : State) (core base : Nat) : State :=
  let mine (u : Nat) : Bool := decide (base ≤ u ∧ u < base + lmImageBytes)
  let hurt := s.badUnits.filter mine ++ s.poisoned.filter mine
  { s with poisoned := hurt.flatMap (fun u => (List.range 8).map (fun k => lmFlat core (u - base) + 8 * k)) ++ s.poisoned }

/-- Every written line of a cluster goes home, and none stays. -/
def State.dropCache (s : State) (cl : Nat) : State := (s.cache cl).foldl (fun acc l => acc.dropLine cl l.1) s

/-- The state of a core as its slot receives it: Limbo settles (R292), and no strand keeps an early reading, since every access has
performed (R217). -/
def CoreCtx.parked (l : CoreCtx) (base : Nat) : CoreCtx :=
  let l1 := l.settle
  { l1 with strands := AMap.mapVals l1.strands (fun _ st => { st with early := [] }), slot := base }

/-! ### Names of a context's LM objects while it is away (R217) -/

/-- The name of byte q of the image in a slot: no address of memory. -/
def slotName (base q : Nat) : Nat := 2 ^ 100 + base + q
/-- Names of the LM of a core become those of a slot, and back. -/
def toSlot (core base u : Nat) : Nat := if lmFlat core 0 ≤ u ∧ u < lmFlat core lmImageBytes then slotName base (u - lmFlat core 0) else u
def fromSlot (core base u : Nat) : Nat := if slotName base 0 ≤ u ∧ u < slotName base lmImageBytes then lmFlat core (u - slotName base 0) else u

/-- What the waits of a context's strands name. -/
def CoreCtx.rename (l : CoreCtx) (f : Nat → Nat) : CoreCtx :=
  { l with strands := AMap.mapVals l.strands (fun _ st => { st with wait := st.wait.map (fun v =>
      { v with flat := f v.flat, acq := v.acq.map (fun a => { a with obj := f a.obj }) }) }) }

/-- What a context names: its strands' waits, the barriers of its kernels, the objects of its binds. -/
def State.rename (s : State) (ctx : Nat) (f : Nat → Nat) : State :=
  { s with
    cores := AMap.mapVals s.cores (fun _ c => if c.ctx = some ctx then { c with live := c.live.rename f } else c)
    saved := AMap.mapVals s.saved (fun k l => if savedCtx k = ctx then l.rename f else l)
    kernels := AMap.mapVals s.kernels (fun _ k => if k.ctx ≠ ctx then k else { k with
      bars := k.bars.map (fun b => { b with flat := f b.flat }), poisons := k.poisons.map (fun p => { p with flat := f p.flat }) })
    contexts := AMap.mapVals s.contexts (fun k c => if k ≠ ctx then c else { c with
      binds := c.binds.map (fun b => (b.1, b.2.1, f b.2.2)) }) }

/-- The release sequences of n bytes go with the bytes (R150). -/
def moveHeads (h : AMap (List Nat)) (src dst n : Nat) : AMap (List Nat) :=
  (h.filter (fun e => decide (src ≤ e.1 ∧ e.1 < src + n))).foldl (fun acc e => AMap.put acc (e.1 - src + dst) e.2)
    (h.filter (fun e => !decide (src ≤ e.1 ∧ e.1 < src + n) && !decide (dst ≤ e.1 ∧ e.1 < dst + n)))

/-- Drains have finished: the slot is written, and the context is AWAY (R223). `blocks` is how many 64-byte pieces of its
destination an xfer in progress still completes. What the strands wrote stands at its home from then on, wherever they resume
(R217). -/
def State.endSave (s : State) (core blocks : Nat) : State :=
  match (s.core core).ctx with
  | none => s
  | some ctx =>
    if (s.core core).st ≠ .saving ∨ !s.drained core then s
    else
      let s0 := ((s.keepErrors core).xferPark core blocks).publishAll [core]
      let base := s0.slotBase ctx core
      let l := (s0.live core).parked base
      let s1 := (s0.dropFrame base slotBytes).clearUnits base slotBytes
      let s2 : State := { s1 with
        mem := memCopy s1.mem (lmFlat core 0) base lmImageBytes, heads := moveHeads s1.heads (lmFlat core 0) base lmImageBytes }
      let s3 := s2.writeSlot base l
      let s4 := (List.range 4).foldl (fun acc k => acc.write (base + 0x31820 + 8 * k) 8 (s0.hmassOf core k).toNat) s3
      let s5 : State := { s4.errsOut core base with mem := memClear s4.mem (lmFlat core 0) lmImageBytes }
      let s6 : State := { s5 with saved := AMap.put s5.saved (savedKey ctx core) l }
      ((s6.setCore core { s6.core core with ctx := none, st := .away, live := .fresh }).setCoreSt ctx core .away).rename ctx
        (toSlot core base)

/-! ## RestoreCore (R224, R232, R236) -/

/-- A scan of the core's cluster is in progress (R412). -/
def State.scanning (s : State) (core : Nat) : Bool := (s.scans.lookup (clusterOf core)).isSome

/-- RestoreCore may begin: the core is free, not fenced and not in a scan, and the context AWAY in its allotment. -/
def State.mayRestore (s : State) (core ctx : Nat) : Bool :=
  (s.ctxRec ctx).alive && !s.scanning core && s.inAllot ctx core && (s.core core).ctx.isNone && !(s.core core).fenced &&
  s.coreSt ctx core == .away

/-- The kept state that goes with a slot, with its key: of the core that saved there, which may be another (R217); of a slot that no
core has saved to, the state of a context that has not run. -/
def State.keptAt (s : State) (ctx core base : Nat) : Nat × CoreCtx :=
  (s.saved.find? (fun e => savedCtx e.1 == ctx && e.2.slot == base)).getD (savedKey ctx core, .fresh)

/-- A context resumes on a core other than the one that saved it (R217): its strands stand there for their groups and for what
they have on its way, which names the own LM where it did, and their kernels run on that core from then on. The core's cluster drops its
lines, so that the strands read nothing older than before. -/
def State.moved (s : State) (ctx old core : Nat) : State :=
  if old = core then s
  else
    let strands := (s.live core).strands
    let at_ (kid g : Nat) : Option (Nat × Nat) := strands.findSome? (fun e =>
      if e.2.run == .running && e.2.job == some (kid, g) then some (e.1, bits e.2.gid 39 32) else none)
    let s1 : State := { s with
      kernels := AMap.mapVals s.kernels (fun kid k =>
        if k.ctx ≠ ctx then k
        else
          let groups := AMap.mapVals k.groups (fun g gr => match at_ kid g with
            | some (n, l) =>
              let ms := gr.members.set (l / 16 * k.gw + l % 16) ⟨⟨core, n⟩, false⟩
              { gr with members := ms, x0 := ms.foldl (fun a m => min a (coreX m.who.core)) 255
                        y0 := ms.foldl (fun a m => min a (coreY m.who.core)) 127 }
            | none => gr)
          if strands.any (fun e => e.2.run == .running && ofKernel kid e.2.job) then
            { k with groups := groups, cores := core :: k.cores.filter (· != core)
                     sinceScan := core :: k.sinceScan.filter (· != core) }
          else k)
      net := AMap.mapVals s.net (fun _ p =>
        if p.ctx = ctx ∧ p.smodule = s.module_.toNat ∧ p.src.core = old ∧
            strands.any (fun e => e.1 == p.src.strand && e.2.birth == p.birth) then
          { p with src := ⟨core, p.src.strand⟩
                   core := if p.core = old ∧ p.module_.isNone then core else p.core
                   flat := if p.core = old ∧ p.module_.isNone ∧ isLm p.flat then lmFlat core (p.flat - lmFlat old 0) else p.flat }
        else p) }
    if clusterOf old = clusterOf core then s1 else s1.dropCache (clusterOf core)

/-- RestoreCore begins: the slot and the LM image are read, and a request for it is met (R221). A slot that is inconsistent is not
restored (R236). The slot of a fenced core stands as SaveCore left it (R413), and its context goes on as it is kept: what has stopped
since stays stopped (R260). -/
def State.beginRestore (s : State) (core ctx : Nat) : State :=
  if !s.mayRestore core ctx then s
  else
    let base := s.slotBase ctx core
    let s1 := s.dropFrame base slotBytes
    let kept := s1.keptAt ctx core base
    let read := s1.readSlot base kept.2
    let l := if (s1.core (kept.1 / 2 ^ 16)).fenced then kept.2 else read
    if !s1.slotOk base read then s1.report (dieOf core) { kind := 17, ctx := ctx, core := core }
    else
      let s2 : State := { s1 with
        mem := memCopy s1.mem base (lmFlat core 0) lmImageBytes, saved := AMap.del s1.saved kept.1
        heads := moveHeads s1.heads base (lmFlat core 0) lmImageBytes }
      let s3 := s2.errsIn core base
      let c := s3.core core
      (((s3.setCore core { c with
        ctx := some ctx, st := .restoring, live := { l with switches := l.switches + 1 }
        asked := c.asked.filter (fun x => x != ctx) }).moved ctx (kept.1 / 2 ^ 16) core).setCoreSt ctx core .restoring).rename ctx
        (fromSlot core base)

/-- The physical LM byte of a diverted store: through the window of the strand of its sender's group; where the entry's sender is not
known, of a strand whose group has a member on the sending core. -/
def State.sqPhys (s : State) (core off source : Nat) (job : Option (Nat × Nat)) : Option Nat :=
  if off < 0x20000 then some off
  else if job.isSome then
    ((List.range 4).find? (fun n => ((s.live core).strand n).job == job && ((s.live core).strand n).run == .running)).bind (fun n =>
      lmPhys ((s.live core).strand n).hold off)
  else
    (List.range 4).findSome? (fun n =>
      let st := (s.live core).strand n
      match st.job with
      | some (k, g) =>
        if ((s.kernel k).group g).members.any (fun m => m.who.core == source) then lmPhys st.hold off else none
      | none => none)

/-- A diverted store lands (R161, R232, R356), and heads the sequences of its sender's release points (R150). -/
def State.redeliver (s : State) (ctx core n : Nat) : State :=
  let a := s.sqAddr ctx n
  let w0 := s.readW a
  let k := bits w0 15 8
  let by_ := s.spillOf ctx n
  let s1 := match s.sqPhys core (bits (s.readW (a + 8)) 17 0) (coreAt (bits w0 39 32) (bits w0 46 40)) by_.job with
    | some q =>
      if (s.live core).hingeCovers q k then s
      else (((s.write (lmFlat core q) k (s.read (a + 64) 64 % 2 ^ (8 * k))).clearUnits (lmFlat core q) k).setHeads by_.points false
        (lmFlat core q) k).missed by_.bearer by_.via (lmFlat core q) k
    | none => s
  s1.sqDone ctx n

/-- Slots that SaveCore paused open again; a plan pause stays (R353, R354). Of a slot that stays paused the ticks that fell while the
context was away fall away (R359). -/
def State.hingeBack (s : State) (core : Nat) : State :=
  (List.range 4).foldl (fun acc k =>
    let h := acc.hslot core k
    if h.state = .paused ∧ h.savep then
      acc.setHSlot core k (if h.planp then { h.skipTicks acc.time with savep := false }
        else { h with state := .opened, savep := false, nextTick := addSpan acc.time (BitVec.ofNat 64 h.period) })
    else if h.state = .paused then acc.setHSlot core k (h.skipTicks acc.time)
    else acc) s

/-- An outcome goes on. -/
def andThen (o : Host.Outcome State Fault Refusal) (k : State → Host.Outcome State Fault Refusal) :
    Host.Outcome State Fault Refusal :=
  match o with
  | .next s => k s
  | .fault f => .fault f
  | .refused r => .refused r

/-- The end of RestoreCore: diverted stores, waiting atomics and reads, diverted messages, poisonings that have waited (R299); then the context
is ACTIVE, and a tsend whose slot has gone traps (R224, R281). Several atomics that wait perform in the order in which they issued
(DESIGN CHOICE, assumption 59). -/
def State.endRestore (s : State) (core : Nat) : Host.Outcome State Fault Refusal :=
  match (s.core core).ctx with
  | none => .next s
  | some ctx =>
    if (s.core core).st ≠ .restoring then .next s
    else
      let s1 := (s.sqPending ctx core false).foldl (fun acc n => acc.redeliver ctx core n) s
      let s2 := (s1.setCore core { s1.core core with st := .active }).setCoreSt ctx core .active
      let s3 := s2.net.foldl (fun acc e =>
        if e.2.kind.isRead && e.2.held && e.2.core == core && isLm e.2.flat && e.2.ctx == ctx then acc.loadArrive e.1 else acc) s2
      let s4 := ((((s3.fillInbox ctx core 16).hingeBack core).xferReread core).poisonWaiting ctx core).wake
      let o := (List.range 4).foldl (fun o n => andThen o (fun t => t.resumeRow ⟨core, n⟩)) (Host.Outcome.next s4)
      andThen o (fun t => .next (((t.settleDomains).settleHinge core).holdPlaces (dieOf core)))

def execRestorecoreEnd (core : Nat) (s : State) : Host.Outcome State Fault Refusal := wakeAfter (s.endRestore core)

/-- A plan entry has switched a context out of a core and not yet another one in. -/
def State.planWaits (s : State) (core : Nat) : Bool :=
  s.plans.any (fun p => p.acted.contains (2 * core) && !p.acted.contains (2 * core + 1))

/-- The resumptions asked for of a core, in order, until one has begun: one whose slot is inconsistent is met without a restore. -/
def State.resumeFirst (s : State) (core : Nat) : List Nat → State
  | [] => s.setCore core { s.core core with asked := [] }
  | ctx :: rest =>
    if s.mayRestore core ctx then
      let s1 := (s.setCore core { s.core core with asked := rest }).beginRestore core ctx
      if s1.resident ctx core then s1 else s1.resumeFirst core rest
    else s.setCore core { s.core core with asked := ctx :: rest }

/-- The oldest resumption asked for of a core begins, once no other context is on it (R221); a plan entry at work there goes first
(the spec gives no order: DESIGN CHOICE, assumption 70). -/
def State.resumeAsked (s : State) (core : Nat) : State :=
  let c := s.core core
  if s.planWaits core ∨ c.asked = [] then s
  else s.resumeFirst core (c.asked.filter (fun x => (s.ctxRec x).alive && s.inAllot x core && s.coreSt x core == .away))

/-- SaveCore ends: the core is free for a context that is asked for. -/
def execSavecoreEnd (core blocks : Nat) (s : State) : Host.Outcome State Fault Refusal :=
  .next ((s.endSave core blocks).resumeAsked core).wake

/-- System software asks for the context on a core (R221): RestoreCore begins at once, or as soon as the core is free. -/
def execResumeRequest (core ctx : Nat) (s : State) : Host.Outcome State Fault Refusal :=
  if s.coreSt ctx core ≠ .away then .next s
  else
    let c := s.core core
    .next ((s.setCore core { c with asked := if c.asked.contains ctx then c.asked else c.asked ++ [ctx] }).resumeAsked core).wake

/-- A mesh interrupt message (R221, R229): only an ACTIVE context is switched out. During a scan the context that the scan has
saved stays AWAY (R412). -/
def execMeshInterruptMessage (core ctx : Nat) (s : State) : Host.Outcome State Fault Refusal :=
  match s.scans.lookup (clusterOf core) with
  | some sc => .next { s with scans := AMap.put s.scans (clusterOf core) { sc with saved := sc.saved.filter (fun e => e != (core, ctx)) } }
  | none => .next (if s.resident ctx core then (s.beginSave core).wake else s)

/-! ## Gang switches (R226-R228) -/

/-- A core has acted on the switch-out, or on all, of an entry. -/
def Plan.outDone (p : Plan) (core : Nat) : Bool := p.acted.contains (2 * core)
def Plan.inDone (p : Plan) (core : Nat) : Bool := p.acted.contains (2 * core + 1)

def State.setPlan (s : State) (p : Plan) : State :=
  { s with plans := s.plans.map (fun q => if q.die = p.die ∧ q.n = p.n then p else q) }

/-- An entry on which every core has acted leaves the table, and PLANHEAD moves as far as it may. -/
def State.planOver (s : State) (p : Plan) : State :=
  if (rectCores (s.planRect p.die p.n)).all p.inDone then
    State.advancePlan { s with plans := s.plans.filter (fun q => !(q.die == p.die && q.n == p.n)) } p.die
      (s.planTail p.die - s.planHead p.die)
  else s

/-- The switch-out of an entry on a core. -/
def State.planOut (s : State) (core out : Nat) (hpause : Bool) : Host.Outcome State Fault Refusal :=
  if out = 0xFFFF ∨ !s.resident out core then .next s
  else
    let save (t : State) : Host.Outcome State Fault Refusal :=
      if (t.core core).st = .active then .next ((if hpause then t.planPause core else t).beginSave core) else .next t
    if (s.core core).st = .restoring then andThen (s.endRestore core) save else save s

/-- A core acts on a plan entry once its TIME has reached T: the switch-out at once, the switch-in once the core is free; one without a
switch-in leaves the core to the resumptions that wait (R221). -/
def State.planAct (s : State) (p : Plan) (core : Nat) : Host.Outcome State Fault Refusal :=
  let a := s.planAddr p.die p.n
  let w := s.readW (a + 8)
  let fl := s.readW (a + 0x18)
  let out := bits w 15 0
  let inn := bits w 31 16
  let first : Host.Outcome State Fault Refusal :=
    if p.outDone core then .next s
    else
      andThen (s.planOut core out (bit fl 0)) (fun t =>
        .next (if p.late then t.write (a + 0x18) 8 (setBits fl 1 1 1).toNat else t))
  andThen first (fun t =>
    let p1 : Plan := if p.outDone core then p else { p with acted := 2 * core :: p.acted }
    let skip := inn == 0xFFFF || !t.inAllot inn core || !(t.ctxRec inn).alive || t.coreSt inn core != .away
    if skip || (t.core core).ctx.isNone then
      let p2 : Plan := { p1 with acted := (2 * core + 1) :: p1.acted }
      let t1 := if skip then t else t.beginRestore core inn
      .next (((t1.setPlan p2).planOver p2).resumeAsked core)
    else .next (t.setPlan p1))

def execGangSwitchTime (die : BitVec 3) (n core : Nat) (s : State) : Host.Outcome State Fault Refusal :=
  match s.plans.find? (fun p => p.die == die.toNat && p.n == n) with
  | none => .next s
  | some p =>
    if !inRect (s.planRect p.die p.n) core || p.inDone core || s.scanning core || s.time < s.readW (s.planAddr p.die p.n) then
      .next s
    else wakeAfter (s.planAct p core)

/-- The control cores post entries (R226). -/
def execPlantailWrite (die : BitVec 3) (v : Word) (s : State) : Host.Outcome State Fault Refusal :=
  .next (s.writePlanTail die.toNat die.toNat (dieBlock die.toNat + 0x50) v).wake

/-! ## Creation and destruction (R218, R219) -/

/-- The cores of a context's allotment. -/
def State.allotCores (s : State) (ctx : Nat) : List Nat :=
  (List.range 8).flatMap (fun d => if s.allot ctx d = 0xFFFFFFFF then [] else rectCores (s.allot ctx d))

/-- A descriptor that a context can be made of: a rectangle of its partition on each die, its save slots in a stack of that die. An
ALLOT0 of 0 is the rectangle (0,0) to (0,0), which R396 has, though R233 says that the value is not used (DEDUCED, assumption 80). -/
def State.descOk (s : State) (desc : Nat) : Bool :=
  let w := s.readW desc
  let cap := (s.readW (desc + 0x88)).toNat
  let inStack (a d : Nat) : Bool := stackDie (stackOf a) == d
  decide (desc % 256 = 0) && inHbm desc 256 && bits w 15 0 != 0xFFFF && decide (bits w 39 32 ≤ 15) &&
  !(s.ctxRec (bits w 15 0)).alive && isPow2 cap 256 (2 ^ 24) &&
  (List.range 8).all (fun d =>
    let r := s.read (desc + 0x20 + 4 * d) 4
    r == 0xFFFFFFFF ||
    ((r != 0 || d == 0) && decide (field r 7 0 ≤ field r 23 16 ∧ field r 15 8 ≤ field r 31 24 ∧ field r 31 24 < 128) &&
     (rectCores r).all (fun c => dieOf c == d && s.inPart (bits w 23 16) c) &&
     (let a := (s.readW (desc + 0x40 + 8 * d)).toNat
      let n := slotBytes * (rectCores r).length
      inHbm a n && inStack a d && inStack (a + n - 1) d)))

/-- A context is created: its descriptor's STATE, SQHEAD and SQTAIL are 0, and its save area is initialised. A partition holds
at most 16; an .lm image has at most 64 KiB (R59). -/
def State.createCtx (s : State) (desc : Nat) (image : List Byte) : State :=
  let w := s.readW desc
  let id := bits w 15 0
  let full := decide (16 ≤ (s.contexts.filter (fun e => e.2.alive && s.ctxPart e.1 == bits w 23 16)).length)
  if !s.descOk desc || full || decide (0x10000 < image.length) then s
  else
    let s1 := ((s.write (desc + 3) 1 0).write (desc + 0x90) 8 0).write (desc + 0x98) 8 0
    let s2 : State := { s1 with
      contexts := AMap.put s1.contexts id { desc := desc, alive := true, ran := false, cores := [], binds := [], redone := [],
                                            image := image }
      saved := s1.saved.filter (fun e => e.1 % 2 ^ 16 != id), spills := s1.spills.filter (fun e => e.1 / 2 ^ 64 != id) }
    (s2.allotCores id).foldl (fun acc c =>
      let base := acc.slotBase id c
      let a := acc.dropFrame base slotBytes
      State.writeSlot { a with
        mem := memClear a.mem base slotBytes, heads := a.heads.filter (fun e => !decide (base ≤ e.1 ∧ e.1 < base + slotBytes)) } base .fresh) s2

def execContextCreate (desc : Nat) (image : List Byte) (s : State) : Host.Outcome State Fault Refusal :=
  .next (s.createCtx desc image).wake

/-- A context that is not RUNNING is destroyed. -/
def execContextDestroy (ctx : Nat) (s : State) : Host.Outcome State Fault Refusal :=
  let c := s.ctxRec ctx
  if !c.alive ∨ c.running then .next s
  else
    let s1 : State := { s with
      contexts := AMap.put s.contexts ctx { c with alive := false }
      saved := s.saved.filter (fun e => e.1 % 2 ^ 16 != ctx) }
    .next (s1.noteCtx ctx).wake

/-! ## ctxinfo, enrd (R239, R240); class 7, 16 eu -/

/-- The value q selects of the executing strand's context. -/
def ctxinfoVal (s : State) (w : Who) (q : Nat) : Word :=
  let ctx := s.ctxOf w.core
  match q with
  | 0 => BitVec.ofNat 64 (2 ^ 16 * s.ctxPart ctx + ctx)
  | 1 => BitVec.ofNat 64 (s.allot ctx (dieOf w.core))
  | 2 => BitVec.ofNat 64 (s.ctxPrio ctx)
  | 3 => BitVec.ofNat 64 (s.ctxGang ctx)
  | 4 => (s.live w.core).switches.setWidth 64
  | 5 => BitVec.ofNat 64 ((s.ctxRec ctx).cores.filter (fun e => e.2 == .active)).length
  | _ => BitVec.ofNat 64 (s.sqPending ctx w.core true).length

def execCtxinfo (f : Form) (d : Reg) (q : BitVec 6) (s : State) : Host.Outcome State Fault Refusal :=
  runInstr f [.dst d] (fun s w => done (s.setReg w d (ctxinfoVal s w q.toNat)) 16) s

/-- ENERGY, ENSTAT or VTIME of a context on a core: the live register, or the value in the save slot. -/
def State.energyReg (s : State) (ctx core q : Nat) : Word :=
  if !s.inAllot ctx core then 0
  else if s.resident ctx core then
    let l := s.live core
    if q = 0 then l.energy else if q = 1 then l.enstat else l.vtime
  else s.readW (s.slotBase ctx core + 0x31800 + (if q = 0 then 8 else if q = 1 then 16 else 0))

/-- ENERGY.EU. -/
def euOf (v : Word) : Nat := bits v 47 0

def enrdVal (s : State) (ctx core q : Nat) : Word :=
  if q = 3 then
    BitVec.ofNat 64 (min energyMax ((s.allotCores ctx).foldl (fun a c => a + euOf (s.energyReg ctx c 0)) 0))
  else if q = 0 then BitVec.ofNat 64 (euOf (s.energyReg ctx core 0))
  else s.energyReg ctx core q

/-- A live register that an enrd reads has an uncorrectable error (R9, R240, R407). -/
def State.enrdBad (s : State) (ctx core q : Nat) : Bool :=
  let sel := if q = 1 then 0x16 else if q = 2 then 0x14 else 0x15
  (if q = 3 then s.allotCores ctx else if s.inAllot ctx core then [core] else []).any (fun c =>
    s.resident ctx c && (s.live c).perr.any (·.inStatus 0 sel))

def execEnrd (f : Form) (d a : Reg) (q : BitVec 6) (s : State) : Host.Outcome State Fault Refusal :=
  runInstr f [.sys, .dst d, .src a] (fun s w =>
    let v := s.reg w a
    let ctx := bits v 31 16
    if !(s.ctxRec ctx).alive ∨ ((s.strand w).priv ≠ .hv ∧ s.ctxPart ctx ≠ s.ctxPart (s.ctxOf w.core)) then
      .error (.access 37 0)
    else if s.enrdBad ctx (coreAt (bits v 7 0) (bits v 14 8)) q.toNat then .error { code := .ecc, cause := 30 }
    else done (s.setReg w d (enrdVal s ctx (coreAt (bits v 7 0) (bits v 14 8)) q.toNat)) 16) s

end Sys2Proof.Machine
end

