-- ==== Sys2Proof/Machine/Link.lean ====
section
/-!
DEFINITION. Link events, module time, the module table, what a failed module's traffic becomes, and lquery (R333-R349).
-/
namespace Sys2Proof.Machine

/-! ## Counters (R349) -/

/-- A counter that saturates. -/
def satAdd {n : Nat} (c : BitVec n) (k : Nat) : BitVec n := BitVec.ofNat n (min (c.toNat + k) (2 ^ n - 1))

/-- A link's state changes: the module table follows, packets of a port that has gone take another (R339), and what waited for the
link may go on. -/
def State.putLink (s : State) (k : Nat) (l : Link) : State := ((s.setLink k l).settleModules).wake

/-- A mesh or seam link that enters FAILED: a machine check (R335, R410). -/
def State.linkFailed (s : State) (k : Nat) (l : Link) : State :=
  (s.putLink k { l with state := .failed }).report (dieOf (meshEnds k).1) { kind := 11, core := (meshEnds k).1 }

/-! ## Link events (R335) -/

/-- Reset is released: every mesh and seam link trains at once. -/
def execLinkResetRelease (s : State) : Host.Outcome State Fault Refusal := .next { s with released := true }

/-- Training succeeds. For a port, the neighbour's module and port are known from then on. -/
def execTrainingSuccess (link : Nat) (nmod : BitVec 16) (nport : BitVec 5) (s : State) : Host.Outcome State Fault Refusal :=
  let l := s.link link
  if l.state ≠ .training ∨ !(isMeshKey link || isPortKey link) then .next s
  else
    let l1 := { l with state := .up, trains := satAdd l.trains 1, fails := 0, tries := 0, since := none }
    .next (s.putLink link (if isPortKey link then { l1 with nmod := nmod, nport := nport } else l1))

/-- Training fails: a mesh or seam link fails at the third failure in a row; a port goes DOWN. -/
def execTrainingFailure (link : Nat) (s : State) : Host.Outcome State Fault Refusal :=
  let l := s.link link
  if l.state ≠ .training then .next s
  else if isPortKey link then .next (s.putLink link { l with state := .down, since := some s.time.toNat })
  else if isMeshKey link then
    if 2 ≤ l.fails then .next (s.linkFailed link { l with fails := l.fails + 1 })
    else .next (s.setLink link { l with fails := l.fails + 1 })
  else .next s

/-- 100 ms after the failure of a port its training starts again. -/
def execPortTrainRetry (port : BitVec 5) (s : State) : Host.Outcome State Fault Refusal :=
  let k := portKey port.toNat
  let l := s.link k
  match l.since with
  | some t =>
    if l.state = .down ∧ t + 100000000 ≤ s.time.toNat then .next (s.putLink k { l with state := .training, since := none })
    else .next s
  | none => .next s

/-- A flit arrives in error: it is sent again, and a ninth retry of the same flit starts retraining. `same` says that it is the
flit of the last error; `fixed` counts the FEC codewords corrected since then, and `fec` says that one was not correctable. -/
def execFlitCrcError (link : Nat) (same : Bool) (fixed : BitVec 32) (fec : Bool) (s : State) : Host.Outcome State Fault Refusal :=
  let l := s.link link
  if l.state ≠ .up ∨ !(isMeshKey link || isPortKey link) then .next s
  else
    let n := if same then l.tries + 1 else 1
    let l1 := { l with retry := satAdd l.retry 1, crcerr := satAdd l.crcerr 1, tries := n }
    let l2 := if isPortKey link then
        { l1 with fecOk := satAdd l.fecOk fixed.toNat, fecBad := satAdd l.fecBad (if fec then 1 else 0) }
      else l1
    .next (s.putLink link (if 9 ≤ n then { l2 with state := .retraining } else l2))

/-- FEC codewords of a port corrected (R336, R349). -/
def State.fecFixed (s : State) (port : BitVec 5) (n : BitVec 32) : State :=
  let k := portKey port.toNat
  let l := s.link k
  if l.state = .up then s.setLink k { l with fecOk := satAdd l.fecOk n.toNat } else s

/-- Retraining succeeds: the held flits are sent again in their order. -/
def execRetrainSuccess (link : Nat) (s : State) : Host.Outcome State Fault Refusal :=
  let l := s.link link
  if l.state ≠ .retraining then .next s
  else .next (s.putLink link { l with state := .up, trains := satAdd l.trains 1, tries := 0 })

/-- Retraining fails: a mesh or seam link fails, a port goes DOWN and its flits take another port of their route (R339). -/
def execRetrainFailure (link : Nat) (s : State) : Host.Outcome State Fault Refusal :=
  let l := s.link link
  if l.state ≠ .retraining then .next s
  else if isPortKey link then .next (s.putLink link { l with state := .down, since := some s.time.toNat })
  else .next (s.linkFailed link l)

/-- System software disables a port. -/
def execPortDisable (port : BitVec 5) (s : State) : Host.Outcome State Fault Refusal :=
  let k := portKey port.toNat
  let l := s.link k
  if l.state = .absent ∨ l.state = .failed then .next s
  else .next (s.putLink k { l with state := .disabled, since := none, fails := 0, tries := 0 })

/-- System software enables a port: one that is DISABLED trains, and so does one that has not trained since reset. -/
def execPortEnable (port : BitVec 5) (s : State) : Host.Outcome State Fault Refusal :=
  let k := portKey port.toNat
  let l := s.link k
  if l.state = .disabled ∨ (l.state = .down ∧ l.since.isNone ∧ s.released) then .next (s.putLink k { l with state := .training })
  else .next s

/-! ## Module time (R341) -/

/-- The largest offset within lock, in ns; estimates in a row that end it; ns without a time flit that end it. -/
def lockNs : Nat := 16
def lockMisses : Nat := 10
def flitNs : Nat := 100000

/-- A time flit arrives at an UP port: an estimate of the module's own offset in ns, and whether a module is in lock. -/
def execTimeFlit (port : BitVec 5) (src : BitVec 16) (offset : Word) (locked : Bool) (s : State) : Host.Outcome State Fault Refusal :=
  let k := portKey port.toNat
  let l := s.link k
  if l.state ≠ .up then .next s
  else
    let good := decide (offset.toInt.natAbs ≤ lockNs)
    let bad := if good then 0 else s.badEst + 1
    let s1 : State := { s with
      badEst := bad, lastFlit := s.time, lock := if good then true else if lockMisses ≤ bad then false else s.lock }
    let s2 := s1.setLink k { l with flitAt := some s.time.toNat }
    .next ((s2.setMod src.toNat { s2.modEnt src.toNat with lock := locked }).settleModules)

/-- 100 us with no time flit take the module out of lock. -/
def execTimeFlitTimeout (s : State) : Host.Outcome State Fault Refusal :=
  if s.lastFlit.toNat + flitNs ≤ s.time.toNat then .next { s with lock := false } else .next s

/-! ## The module table (R342) -/

/-- System software adds a module: it is JOINING, and UP at once where it is reachable in lock. -/
def execModuleAdd (m : BitVec 16) (s : State) : Host.Outcome State Fault Refusal :=
  let e := s.modEnt m.toNat
  if e.state ≠ .unknown then .next s
  else .next ((s.setMod m.toNat { e with state := .joining, downAt := none }).settleModules).wake

/-- System software clears a FAILED module. -/
def execModuleClear (m : BitVec 16) (s : State) : Host.Outcome State Fault Refusal :=
  let e := s.modEnt m.toNat
  if e.state ≠ .failed then .next s else .next (s.setMod m.toNat { e with state := .unknown, downAt := none })

/-! ## A module that fails (R343) -/

/-- Work on its way to a module: what one outstanding operation becomes. While the fault ring is full a failed service is held
(R409), and its kernel's fault comes later. -/
def State.settlePkt (s : State) (cc id : Nat) : Host.Outcome State Fault Refusal :=
  match s.pkt id with
  | none => .next s
  | some p =>
    let failed (kind : Nat) : State :=
      if !s.ringReady (dieOf p.src.core) then s.setPkt id { p with refused := true, landed := false }
      else
        let s1 := (s.report (dieOf p.src.core) (p.report kind 9)).lostPkt id p
        match p.job with
        | some (k, _) => s1.kernelFaulted k cc
        | none => s1
    let returned : State := s.setPkt id { p with landed := true, refused := true, poison := 0 }
    match p.kind with
    | .store _ | .near | .row => .next (failed 1)
    | .amo _ _ => .next (if p.ret then returned else failed 2)
    | .load | .nearLoad => .next returned
    | .msg => s.msgRefuse id 9
    | .push | .reply _ => .next (s.hingeReplied id p 7)

def State.settlePkts (s : State) (cc : Nat) : List Nat → Host.Outcome State Fault Refusal
  | [] => .next s
  | id :: t =>
    match s.settlePkt cc id with
    | .next s1 => s1.settlePkts cc t
    | r => r

/-- A packet of a module that has reached its target and waits there. -/
def Packet.arrived (p : Packet) : Bool := !p.landed && (p.held || p.full || p.refused || (p.kind == .msg && p.hseq != 0))

/-- A module enters FAILED, and its traffic is settled: what it has sent and what has not arrived is discarded, and what is outstanding
to it fails (R343, R369). `cc` is the control core that acts. -/
def State.failModule (s : State) (m cc : Nat) : Host.Outcome State Fault Refusal :=
  let s1 := s.setMod m { s.modEnt m with state := .failed }
  let s2 : State := { s1 with net := s1.net.filter (fun e => e.2.smodule != m || s1.fromHere e.2 || e.2.arrived) }
  s2.settlePkts cc ((s2.net.filter (fun e =>
    e.2.module_ == some m && s2.fromHere e.2 && !(e.2.landed && e.2.refused))).map (·.1))

/-- JOINING or UP. -/
def State.modLive (s : State) (m : Nat) : Bool := (s.modEnt m).state == .joining || (s.modEnt m).state == .up

/-- Every route to a module has been down for MFAILNS. -/
def execModuleFailTimeout (m : BitVec 16) (cc : BitVec 2) (s : State) : Host.Outcome State Fault Refusal :=
  match (s.modEnt m.toNat).downAt with
  | some t =>
    if s.modLive m.toNat && decide (t + s.mfailns ≤ s.time.toNat) then wakeAfter (s.failModule m.toNat cc.toNat) else .next s
  | none => .next s

/-- The control cores declare a module FAILED. -/
def execModuleDeclareFailed (m : BitVec 16) (cc : BitVec 2) (s : State) : Host.Outcome State Fault Refusal :=
  if s.modLive m.toNat then wakeAfter (s.failModule m.toNat cc.toNat) else .next s

/-! ## Arrivals (R160-R163, R343) -/

/-- An operation on its way to a module that has FAILED meets the end that R343 gives it. -/
def State.unlessDead (s : State) (pkt : Nat) (go : Host.Outcome State Fault Refusal) : Host.Outcome State Fault Refusal :=
  match s.pkt pkt with
  | some p =>
    if s.fromHere p && !p.landed && p.module_.any (fun m => (s.modEnt m).state == .failed) then
      wakeAfter (s.settlePkt (Config.controlCore s.freeCtr).toNat pkt)
    else go
  | none => go

def execRemoteStoreArrive (pkt : Nat) (refused : Bool) (s : State) : Host.Outcome State Fault Refusal :=
  s.unlessDead pkt (.next (s.storeArrive pkt refused).wake)
def execRemoteLoadArrive (pkt : Nat) (s : State) : Host.Outcome State Fault Refusal :=
  s.unlessDead pkt (.next (s.loadArrive pkt).wake)
def execRemoteAckArrive (pkt : Nat) (s : State) : Host.Outcome State Fault Refusal := wakeAfter (s.ackArrive pkt)

/-! ## The route table (R340) -/

/-- A write to entry e of the route table by a core of a die, or over the host link. -/
def execRouteTableWrite (die : BitVec 3) (host : Bool) (e : BitVec 8) (v : Word) (s : State) : Host.Outcome State Fault Refusal :=
  .next (s.mmioFrom die.toNat host (moduleBlock + 0x100 + 8 * e.toNat) v).wake

/-! ## lquery (R349); class 7, 16 eu -/

def LState.code : LState → Nat
  | .absent => 0 | .down => 1 | .training => 2 | .up => 3 | .retraining => 4 | .failed => 5 | .disabled => 6
def MState.code : MState → Nat
  | .unknown => 0 | .joining => 1 | .up => 2 | .failed => 3

/-- Time flits are arriving at a port: one has within 100 us. -/
def State.tlock (s : State) (l : Link) : Bool :=
  match l.flitAt with
  | some t => l.state == .up && decide (s.time.toNat < t + flitNs)
  | none => false

/-- The value q selects of a link. -/
def State.linkVal (s : State) (k q : Nat) : Word :=
  let l := s.link k
  let port := isPortKey k
  match q with
  | 0 => BitVec.ofNat 64 (2 ^ 61 * l.state.code + (if !port && isSeam k then 2 ^ 60 else 0) +
      (if port && s.tlock l then 2 ^ 59 else 0) +
      (if port then 2 ^ 32 * l.nmod.toNat + 2 ^ 16 * l.nport.toNat else 0) + l.trains.toNat)
  | 1 => BitVec.ofNat 64 (2 ^ 32 * l.retry.toNat + l.crcerr.toNat)
  | _ => if port then BitVec.ofNat 64 (2 ^ 32 * l.fecOk.toNat + l.fecBad.toNat) else 0

/-- The state of a module: the executing module is UP, with its own lock; the time source is in lock at all times. -/
def State.modVal (s : State) (m : Nat) : Word :=
  let e := s.modEnt m
  let own := m == s.module_.toNat
  BitVec.ofNat 64 (2 ^ 61 * (if own then 2 else e.state.code) + (if m == s.timeSource || (if own then s.inLock else e.lock) then 2 ^ 60 else 0) +
    2 ^ 32 * m + e.epoch.toNat)

/-- The value q selects for a link word; none where the word has none. -/
def State.lqueryVal (s : State) (v : Word) (q : Nat) : Option Word :=
  match bits v 63 62 with
  | 0 =>
    if 127 < bits v 14 8 then some 0
    else match meshKey (coreAt (bits v 7 0) (bits v 14 8)) (bits v 17 16) with
      | some k => some (s.linkVal k q)
      | none => some 0
  | 1 => some (s.linkVal (portKey (bits v 4 0)) q)
  | 2 => if q = 0 then some (s.modVal (bits v 47 32)) else none
  | _ => none

def execLquery (f : Form) (d a : Reg) (q : BitVec 6) (s : State) : Host.Outcome State Fault Refusal :=
  runInstr f [.dst d, .src a] (fun s w =>
    match s.lqueryVal (s.reg w a) q.toNat with
    | some v => done (s.setReg w d v) 16
    | none => .error .illop) s

end Sys2Proof.Machine
end

