-- ==== Sys2Proof/Machine/Health.lean ====
section
/-!
DEFINITION. Scan rotation, fencing and confirmation, machine checks, the LM sweep, soft errors, and health values
(R407-R414).
-/
namespace Sys2Proof.Machine

/-! ## Clusters of a die (R411) -/

/-- The cluster of index i of a die. -/
def dieCluster (d i : Nat) : Nat := clusterOf (coreAt (d % 4 * 64 + i % 4 * 16) (d / 4 * 64 + i / 4))
def clusterCores (cl : Nat) : List Nat := (List.range 16).map (clusterCore cl)

/-- SCANNS of a die. -/
def State.scanns (s : State) (d : Nat) : Nat := (s.ctl (dieBlock d + 0x10)).toNat

/-- A scan of cluster i of a die begins at this TIME. -/
def State.scanDue (s : State) (d i : Nat) : Bool :=
  s.time.toNat % s.scanns d == 0 && s.time.toNat / s.scanns d % 256 == i

/-! ## The health block (R414) -/

/-- A count of the health block rises, saturating: bits [63:32] CORR, [31:0] UNCORR. -/
def State.countError (s : State) (cl : Nat) (corrected : Bool) : State :=
  let a := clusterBlock cl + 8
  let lo := if corrected then 32 else 0
  s.setCtl a (setBits (s.ctl a) (lo + 31) lo (min (bits (s.ctl a) (lo + 31) lo + 1) (2 ^ 32 - 1)))

/-- MARGIN and LIFE are measured anew; a MARGIN that falls below ALERTPS writes one alert. -/
def State.refreshHealth (s : State) (cl : Nat) : State :=
  let a := clusterBlock cl
  let old := sval 16 (bits (s.mmioRead a) 47 32)
  let v := measured s.freeCtr
  let limit := bits (s.ctl (a + 0x18)) 15 0
  let s1 : State := { s.setCtl a v with freeCtr := s.freeCtr + 1 }
  if limit ≠ 0 ∧ sval 16 (bits v 47 32) < limit ∧ (limit : Int) ≤ old then
    s1.report (dieOf (clusterCore cl 0)) { kind := 12, core := clusterCore cl 0 }
  else s1

/-! ## Scans (R411-R413) -/

/-- The context of one core of a cluster is saved for a scan. -/
def State.scanSave (s : State) (cl core : Nat) : Host.Outcome State Fault Refusal :=
  let save (t : State) : State :=
    match (t.core core).ctx, (t.core core).st, t.scans.lookup cl with
    | some ctx, .active, some sc =>
      State.beginSave { t with scans := AMap.put t.scans cl { sc with saved := sc.saved ++ [(core, ctx)] } } core
    | _, _, _ => t
  if (s.core core).st = .restoring then andThen (s.endRestore core) (fun t => .next (save t)) else .next (save s)

/-- A scan begins: the contexts of the cluster's cores are saved. -/
def execScanStart (die : BitVec 3) (i : BitVec 8) (s : State) : Host.Outcome State Fault Refusal :=
  let cl := dieCluster die.toNat i.toNat
  if !s.feature2.getLsbD 7 ∨ !s.scanDue die.toNat i.toNat ∨ (s.scans.lookup cl).isSome then .next s
  else
    let s1 : State := { s with scans := AMap.put s.scans cl { begun := s.time.toNat, saved := [] } }
    wakeAfter ((clusterCores cl).foldl (fun o c => andThen o (fun t => t.scanSave cl c)) (.next s1))

/-- A kernel after a core has passed a scan that began at a TIME: confirmed once every core it ran on has passed a scan that
began after its retirement. -/
def State.passKernel (s : State) (core begun k : Nat) : State :=
  let kr := s.kernel k
  let there := (s.ctxState kr.ctx core).strands.any (fun e => e.2.run == .running && ofKernel k e.2.job)
  let kr1 : Kernel := { kr with sinceScan := if there then kr.sinceScan else kr.sinceScan.filter (fun c => c != core) }
  if kr.state = .retired ∧ kr.retiredAt.toNat < begun then
    let left := kr.unscanned.filter (fun c => c != core)
    let s1 := s.setKernel k { kr1 with unscanned := left }
    if left.isEmpty then s1.confirm k else s1
  else s.setKernel k kr1

/-- A core passes. -/
def State.passCore (s : State) (begun core : Nat) : State :=
  (s.kernels.map (·.1)).foldl (fun acc k => acc.passKernel core begun k) s

/-- SCANST of the core of rank k. -/
def scanBit (k : Nat) : Nat := if k < 8 then 56 + k else 40 + k

/-- A core that fails is fenced, and every kernel not yet CONFIRMED that had a strand on it since its last passed scan faults.
While its die's fault ring is full a kernel stays in its state (R409). -/
def State.fenceCore (s : State) (cl k : Nat) : State :=
  let core := clusterCore cl k
  let a := clusterBlock cl + 0x18
  let s1 := (s.setCore core { s.core core with fenced := true }).setCtl a (setBits (s.ctl a) (scanBit k) (scanBit k) 1)
  let s2 := s1.report (dieOf core) { kind := 10, core := core }
  (s2.kernels.map (·.1)).foldl (fun acc n =>
    let kr := acc.kernel n
    if kr.sinceScan.contains core && acc.ringReady kr.die then acc.kernelFaulted n (Config.controlCore acc.freeCtr).toNat else acc) s2

/-- Plan entries that are due on a core of a scan, the oldest first. -/
def State.duePlans (s : State) (core : Nat) : List Plan :=
  s.plans.filter (fun p => inRect (s.planRect p.die p.n) core && !p.inDone core && decide (s.readW (s.planAddr p.die p.n) ≤ s.time))

/-- The end of a scan on one core: the saved context is restored unless a due plan entry names it outgoing; the entries act, with LATE
set. -/
def State.scanBack (s : State) (saved : List (Nat × Nat)) (core : Nat) : Host.Outcome State Fault Refusal :=
  let due := s.duePlans core
  let s1 := saved.foldl (fun acc e =>
    if e.1 = core ∧ !due.any (fun p => bits (acc.readW (acc.planAddr p.die p.n + 8)) 15 0 == e.2) then acc.beginRestore core e.2
    else acc) s
  andThen (due.foldl (fun o p => andThen o (fun t => t.planAct { p with late := true } core)) (.next s1)) (fun t => .next (t.resumeAsked core))

/-- The patterns have finished, later than they began; bit k of `bad` says that the core of rank k did not match. Every core is free by
then. -/
def execScanEnd (die : BitVec 3) (i : BitVec 8) (bad : BitVec 16) (s : State) : Host.Outcome State Fault Refusal :=
  let cl := dieCluster die.toNat i.toNat
  match s.scans.lookup cl with
  | none => .next s
  | some sc =>
    if (clusterCores cl).any (fun c => (s.core c).ctx.isSome) ∨ s.time.toNat ≤ sc.begun then .next s
    else
      let s1 : State := { s with scans := AMap.del s.scans cl }
      let s2 := (List.range 16).foldl (fun acc k =>
        if bad.getLsbD k then acc.fenceCore cl k
        else if (acc.core (clusterCore cl k)).fenced then acc
        else acc.passCore sc.begun (clusterCore cl k)) s1
      let passed := (clusterCores cl).all (fun c => !(s2.core c).fenced)
      let s3 := if passed then s2.setCtl (clusterBlock cl + 0x10) (BitVec.ofNat 64 sc.begun) else s2
      wakeAfter ((clusterCores cl).foldl (fun o c => andThen o (fun t => t.scanBack sc.saved c)) (.next (s3.refreshHealth cl)))

/-! ## Machine checks (R410) -/

/-- PENDING, RUNNING or DRAINING, at or above DONE: in the window of its queue. -/
def State.inWindow (s : State) (k : Kernel) : Bool :=
  (k.state == .pending || k.state == .running || k.state == .draining) && decide (s.qDone k.qdesc ≤ k.kseq)

/-- A kernel did what a machine check asks about. -/
def State.concerned (s : State) (why : CheckWhy) (n : Nat) (k : Kernel) : Bool :=
  match why with
  | .link key => k.sinceScan.contains (meshEnds key).1 || k.sinceScan.contains (meshEnds key).2
  | .core c => k.sinceScan.contains c
  | .cluster cl => k.sinceScan.any (fun c => clusterOf c == cl)
  | .die d => k.sinceScan.any (fun c => dieOf c == d) || k.die == d
  | .writers ks => ks.contains n
  | .owner ctx => k.ctx == ctx

/-- The window of every queue with a kernel concerned is rolled back: its kernels fault as for a pinned fault. -/
def State.rollback (s : State) (why : CheckWhy) (cc : Nat) : State :=
  let queues := ((s.kernels.filter (fun e => s.inWindow e.2 && s.concerned why e.1 e.2)).map (·.2.qdesc)).eraseDups
  (s.kernels.map (·.1)).foldl (fun acc n =>
    if queues.contains (s.kernel n).qdesc && s.inWindow (s.kernel n) then acc.kernelFaulted n cc else acc) s

/-- A machine check that no kernel could be pinned to. That of a failed link was reported as it entered FAILED. -/
def execMachineCheck (die : BitVec 3) (why : CheckWhy) (cc : BitVec 2) (s : State) : Host.Outcome State Fault Refusal :=
  match why with
  | .link key =>
    if (s.link key).state = .failed ∧ s.ringReady (dieOf (meshEnds key).1) then .next (s.rollback why cc.toNat).wake else .next s
  | _ =>
    if !s.ringReady die.toNat then .next s
    else .next ((s.rollback why cc.toNat).report die.toNat { kind := 11 }).wake

/-! ## Soft errors (R407, R408) -/

/-- The sweep of a core's LM: a word whose error it cannot correct is poisoned and reported. -/
def execLmSweep (core : Nat) (s : State) : Host.Outcome State Fault Refusal :=
  let bad := s.badUnits.filter (fun u => isLm u && lmCore u == core)
  let s1 : State := { s with
    badUnits := s.badUnits.filter (fun u => !(isLm u && lmCore u == core)), poisoned := bad ++ s.poisoned }
  .next (bad.foldl (fun acc u => acc.report (dieOf core)
    { kind := 9, cause := 27, va := BitVec.ofNat 64 (u - lmFlat core 0), ctx := acc.ctxOf core, core := core }) s1).wake

/-- A unit of core storage takes an uncorrectable error. -/
def State.coreError (s : State) (core : Nat) (e : PErr) : State :=
  let l := s.live core
  (s.setLive core { l with perr := if l.perr.contains e then l.perr else e :: l.perr }).countError (clusterOf core) false

/-- A line of HBM or a word of LM takes an uncorrectable error. -/
def State.memError (s : State) (flat : Nat) : State :=
  let u := unitOf flat
  let s1 : State := { s with badUnits := if s.badUnits.contains u then s.badUnits else u :: s.badUnits }
  if isLm u then s1.countError (clusterOf (lmCore u)) false else s1

/-- A line of a cluster cache takes an error: a clean one is fetched again from its home, a written one is lost (R407). -/
def State.lineError (s : State) (cl ln : Nat) : State :=
  match s.line cl ln with
  | none => s
  | some l =>
    if l.dirty = 0 then (s.delLine cl ln).countError cl true
    else (s.setLine cl ln { l with bad := true }).countError cl false

end Sys2Proof.Machine
end

