-- ==== Sys2Proof/Machine/Registers.lean ====
section
/-!
DEFINITION. Steps that write control registers, steps of the clock and voltage of a cluster, and of the matrix array (R196,
R199, R207, R246, R409, R415-R420, R425).
-/
namespace Sys2Proof.Machine

/-! ## Writes of control registers (R415) -/

/-- A write by the control cores or by system software to the block of a die: a refused one goes to that die's ring. -/
def State.dieWrite (s : State) (die : BitVec 3) (off : Nat) (v : Word) : State :=
  s.mmioWrite none die.toNat (dieBlock die.toNat + off) v

def execTsliceWrite (die : BitVec 3) (v : Word) (s : State) : Host.Outcome State Fault Refusal := .next (s.dieWrite die 0 v).wake
def execFaultRingHeadWrite (die : BitVec 3) (v : Word) (s : State) : Host.Outcome State Fault Refusal :=
  .next (s.dieWrite die 0x30 v).wake
/-- The base of a fault ring, or its capacity. -/
def execFaultRingConfigWrite (die : BitVec 3) (cap : Bool) (v : Word) (s : State) : Host.Outcome State Fault Refusal :=
  .next (s.dieWrite die (if cap then 0x28 else 0x20) v).wake

/-- A write of FEATREQ by a core of a die, or over the host link. -/
def execFeatreqWrite (die : BitVec 3) (host : Bool) (v : Word) (s : State) : Host.Outcome State Fault Refusal :=
  .next (s.mmioFrom die.toNat host (moduleBlock + 0x10) v).wake

/-- A write of a dword of the MMIO range by a core of a die, or over the host link. -/
def execMmioRegisterWrite (die : BitVec 3) (host : Bool) (pa v : Word) (s : State) : Host.Outcome State Fault Refusal :=
  if pa.toNat < mmioBase ∨ pa.toNat % 8 ≠ 0 then .next s
  else .next (s.mmioFrom die.toNat host pa.toNat v).wake

/-! ## Clock and voltage (R418-R420) -/

def isCluster (cl : Nat) : Bool := decide (cl < 2048)

/-- A write of VREQ commits the request. -/
def execVreqCommit (cluster : Nat) (v : Word) (s : State) : Host.Outcome State Fault Refusal :=
  if isCluster cluster then .next (s.mmioWrite none 0 (clusterBlock cluster + 0x28) v).wake else .next s

def execVoltageStepEnd (cluster : Nat) (s : State) : Host.Outcome State Fault Refusal :=
  if isCluster cluster then .next (s.voltStep cluster).wake else .next s

def execClockHopEnd (core : Nat) (s : State) : Host.Outcome State Fault Refusal :=
  if isCore core then .next (s.hopEnd core).wake else .next s

def execDroopDetect (cluster : Nat) (s : State) : Host.Outcome State Fault Refusal :=
  if isCluster cluster then .next (s.droopOn cluster) else .next s

def execDroopClear (cluster : Nat) (s : State) : Host.Outcome State Fault Refusal :=
  if isCluster cluster then .next (s.droopOff cluster).wake else .next s

/-! ## The matrix array (R196, R199, R207) -/

/-- Operation n of a core's array starts. -/
def execMxaOpStart (core n : Nat) (s : State) : Host.Outcome State Fault Refusal :=
  .next (s.setLive core ((s.live core).mxaStart n)).wake

/-- Operation n of a core's array finishes: its lock bits clear. -/
def execMxaOpFinish (core n : Nat) (s : State) : Host.Outcome State Fault Refusal :=
  let l := s.live core
  if mxaMayFinish l.queue n then .next (s.setLive core { l with queue := l.queue.eraseIdx n }).wake else .next s

/-- The operations that a waiting mwait covers have finished. -/
def execMwaitEnd (core strand : Nat) (s : State) : Host.Outcome State Fault Refusal :=
  let w : Who := ⟨core, strand⟩
  match s.waitOf w [.mwait] with
  | none => .next s
  | some v => if s.mxaBusy w v.obj.toNat then .next s else wakeAfter (s.mwaitDone w v.obj.toNat v.len)

end Sys2Proof.Machine
end

