-- ==== Sys2Proof/Machine/Clock.lean ====
section
/-!
DEFINITION. TIME, and what happens at an instant before TIME goes on (R108, R227, R238, R246, R275, R276, R281,
R289, R335, R341, R342, R359, R411, R418).
-/
namespace Sys2Proof.Machine

/-- A plan entry whose T has come and on which a core has still to act, as far as it can (R227). -/
def State.planDue (s : State) (p : Plan) (core : Nat) : Bool :=
  !s.scanning core && (!p.outDone core || (!p.inDone core && (s.core core).ctx.isNone))

def State.overduePlan (s : State) : Option Instr :=
  s.plans.findSome? (fun p =>
    if s.time < s.readW (s.planAddr p.die p.n) then none
    else ((rectCores (s.planRect p.die p.n)).find? (s.planDue p)).map (fun c => .gangSwitchTime (BitVec.ofNat 3 p.die) p.n c))

/-- TIME is a multiple of the length of a die's slices, and their boundary has not been (R246). -/
def State.sliceDue (s : State) (die : Nat) : Bool :=
  let t := (s.tslice.lookup die).getD (s.ctl (dieBlock die)).toNat
  t != 0 && s.time.toNat % t == 0 && (AMap.get Patience.none_ s.patience die).seen != some s.time.toNat

/-- A boundary with what its sample of the HBM ports shows: no rule of the spec makes it a function of the state
(assumption 67). -/
def State.overdueSlice (s : State) : Option Instr :=
  ((List.range 8).find? s.sliceDue).map (fun d => .sliceBoundary (BitVec.ofNat 3 d) (Config.heavySlice s.freeCtr))

/-- A scan begins (R411), a step of a cluster's voltage ends (R418). -/
def State.overdueScan (s : State) : Option Instr :=
  if !s.feature2.getLsbD 7 then none
  else ((List.range 8).find? (fun d =>
    let i := s.time.toNat / s.scanns d % 256
    s.scanDue d i && (s.scans.lookup (dieCluster d i)).isNone)).map (fun d =>
      .scanStart (BitVec.ofNat 3 d) (BitVec.ofNat 8 (s.time.toNat / s.scanns d % 256)))
def State.overdueVolts (s : State) : Option Instr :=
  (s.power.find? (fun e => isCluster e.1 && e.2.stepEnd.any (fun t => decide (t ≤ s.time.toNat)))).map (fun e => .voltageStepEnd e.1)

/-- The Tumbler of a core has units to free or a request to grant (R289). -/
def CoreCtx.tumbles (l : CoreCtx) : Bool :=
  l.limbo.any (fun u => !l.arrayHolds u) || l.kqueue.any (fun q => l.evaluate q.strand q.req == 0)

/-- A strand waits in a tsend whose slot has begun (R281). -/
def State.slotBegun (s : State) (w : Who) : Bool :=
  match s.waitOf w [.tsend], (s.strand w).phase.tsRow with
  | some _, some (_, k, _) => decide ((s.strand w).phase.slotStart k ≤ s.time.toNat)
  | _, _ => false

/-- What is to happen on one core: a Tumbler cycle, the start of a waiting tsend's slot, the release of an sstep.end (R276), a background
tick (R359). -/
def State.overdueCore (s : State) (e : Nat × Core) : Option Instr :=
  if e.2.st ≠ .active then none
  else if e.2.live.tumbles then some (.tumblerCycle e.1)
  else (((List.range 4).find? (fun n => s.slotBegun ⟨e.1, n⟩)).map (fun n => .tsendSlotStart e.1 n)).or
    ((((List.range 4).find? (fun n => s.mayLeave ⟨e.1, n⟩ && !s.takeCut ⟨e.1, n⟩ .all)).map (fun n => .staggeredRelease e.1 n)).or
      (((List.range 4).find? (fun k => s.tickDue e.1 k)).map (fun k => .hingeBgTick e.1 (BitVec.ofNat 2 k))))

/-- The first operation of a row's strand to its core that has not performed: where one to the row's bytes is to perform before it (R145),
the earlier ones come first. -/
def State.rowAhead (s : State) (p : Packet) : Option (Nat × Packet) :=
  if !s.blocked p false then none
  else (s.mineOf p.src p.birth).find? (fun e =>
    (e.2.kind.isStore || e.2.kind.isRead) && !e.2.landed && e.2.core == p.core && decide (e.2.seq < p.seq))

/-- A row lands that is to land before its slot ends (R275); one that has landed is gone. -/
def State.overdueRow (s : State) : Option Instr :=
  s.net.findSome? (fun e =>
    if e.2.kind != .row || !(s.rowDue e.2 || e.2.landed) then none
    else match s.rowAhead e.2 with
      | some (id, q) =>
        if q.kind.isRead then (if (s.loadArrive id).pkt id != s.pkt id then some (.remoteLoadArrive id) else none)
        else if (s.storeArrive id false).pkt id != s.pkt id then some (.remoteStoreArrive id false) else none
      | none => if (s.landRow e.1).pkt e.1 != some e.2 then some (.tsendLand e.1) else none)

/-- What its time makes happen on the links of the pod: a port trains again (R335), the module leaves lock (R341), a module without a route
fails (R342). -/
inductive PodDue where
  | train (port : BitVec 5)
  | unlock
  | fail (m : BitVec 16) (cc : BitVec 2)
  deriving DecidableEq, Repr

/-- The first of those that is due; which control core acts for a module that fails is not promised. -/
def State.overduePod (s : State) : Option PodDue :=
  let now := s.time.toNat
  ((s.links.find? (fun e => isPortKey e.1 && (s.link e.1).state == .down && (s.link e.1).since.any (fun t => decide (t + 100000000 ≤ now)))).map
    (fun e => .train (BitVec.ofNat 5 (e.1 - portKey 0)))).or
  ((if s.lock && decide (s.lastFlit.toNat + flitNs ≤ now) then some .unlock else none).or
  ((s.modules.find? (fun e => decide (e.1 < 2 ^ 16) && s.modLive e.1 && (s.modEnt e.1).downAt.any (fun t => decide (t + s.mfailns ≤ now)))).map
    (fun e => .fail (BitVec.ofNat 16 e.1) (Config.controlCore s.freeCtr))))

def State.podStep (s : State) : PodDue → Host.Outcome State Fault Refusal
  | .train port => execPortTrainRetry port s
  | .unlock => execTimeFlitTimeout s
  | .fail m cc => execModuleFailTimeout m cc s

/-- What happens at the present instant, before TIME goes on. -/
def State.overdue (s : State) : Option Instr :=
  s.overduePlan.or (s.overdueSlice.or (s.overdueScan.or (s.overdueVolts.or
    ((s.cores.findSome? s.overdueCore).or s.overdueRow))))

/-- A nanosecond passes, once nothing is left to happen at this instant: TIME advances, and on each core where a context is ACTIVE
its VTIME advances and its ENERGY takes the static charge of 15 eu. -/
def execTimeNsAdvance (s : State) : Host.Outcome State Fault Refusal :=
  .next (if s.overdue.isSome || s.overduePod.isSome then s else State.wake { s with
    time := s.time + 1
    cores := AMap.mapVals s.cores (fun _ c =>
      if c.st = .active then { c with live := CoreCtx.charge { c.live with vtime := c.live.vtime + 1 } 15 } else c) })

end Sys2Proof.Machine
end

