-- ==== Sys2Proof/Machine/Witness.lean ====
section
/-!
DEFINITION. Witness tiles: wred, wadj, wst, wld (R377-R386).
-/
namespace Sys2Proof.Machine

/-! ## The tag (R377) -/

/-- The width code of an element type. -/
def widthCode (t : Ty) : Nat := if t.tileWidth = 32 then 0 else if t.tileWidth = 16 then 1 else 2

/-- The tag of a reduction. -/
def witnessTag (gen op : Nat) (all row : Bool) (km1 w rm1 : Nat) : BitVec 32 :=
  BitVec.ofNat 32 (2 ^ 16 * gen + 2 ^ 15 + 2 ^ 12 * op + (if all then 2 ^ 11 else 0) + (if row then 2 ^ 10 else 0) +
    2 ^ 7 * km1 + 2 ^ 5 * w + 2 * rm1)

/-- A tag that wred can have written (R386): 0, or V = 1 with OP, W and the reserved bit in range. -/
def tagOk (t : Nat) : Bool :=
  t == 0 || (field t 15 15 == 1 && decide (field t 14 12 ≤ 4) && field t 6 5 != 3 && field t 0 0 == 0)

/-! ## Decide (R382) -/

/-- An input as read: flushed under FZ, and its flag. -/
def witIn (ty : Ty) (c : Word) (x : Nat) : Nat × FFlags :=
  let t := tyOr ty .f32
  if ty.isFT then (fIn (fmtOf t) (fctlFz c) x, if fIsSnan (fmtOf t) x then fNV else 0) else (x, 0)

def witNan (ty : Ty) (x : Nat) : Bool := ty.isFT && fIsNan (fmtOf (tyOr ty .f32)) x
/-- The place of an input in the order of values, -0 below +0; none for a NaN. -/
def witKey (ty : Ty) (x : Nat) : Option Int :=
  let t := tyOr ty .f32
  if witNan ty x then none else some (if ty.isFT then fKey (fmtOf t) x else intElem t x)
def witCanon (ty : Ty) : Nat := (fmtOf (tyOr ty .f32)).nan

/-- The bitmask, or the lowest, of the contributors that meet a test. -/
def witCode (all : Bool) (xs : List Nat) (p : Nat → Bool) : Nat :=
  let hits := (List.range xs.length).filter (fun c => p (xs.getD c 0))
  if all then hits.foldl (fun a c => a + 2 ^ c) 0 else hits.headD 0xFE

/-- max and min. -/
def decideExtreme (ty : Ty) (isMax all : Bool) (xs : List Nat) : Nat × Nat :=
  let better (a b : Nat) : Bool := match witKey ty a, witKey ty b with
    | some x, some y => if isMax then decide (x < y) else decide (y < x)
    | none, some _ => true
    | _, none => false
  let best := xs.foldl (fun (m : Option Nat) x => match m with
    | some b => some (if better b x then x else b)
    | none => some x) none
  match best with
  | some b => if witNan ty b then (witCanon ty, if all then 0 else 0xFE)
              else (b, witCode all xs (fun x => witKey ty x == witKey ty b))
  | none => (0, 0xFF)

/-- A rank put at its place: NaN last, ties by index. -/
def rankInsert (ty : Ty) (x : Nat × Nat) : List (Nat × Nat) → List (Nat × Nat)
  | [] => [x]
  | y :: t =>
    let before := match witKey ty x.2, witKey ty y.2 with
      | some a, some b => decide (a < b ∨ (a = b ∧ x.1 < y.1))
      | some _, none => true
      | none, some _ => false
      | none, none => decide (x.1 < y.1)
    if before then x :: y :: t else y :: rankInsert ty x t

/-- med. -/
def decideMed (ty : Ty) (all : Bool) (xs : List Nat) : Nat × Nat :=
  let ranked := ((List.range xs.length).map (fun c => (c, xs.getD c 0))).foldr (rankInsert ty) []
  let m := (ranked.getD ((xs.length - 1) / 2) (0, 0)).2
  if witNan ty m then (witCanon ty, if all then 0 else 0xFE) else (m, witCode all xs (fun x => witKey ty x == witKey ty m))

/-- clamp, of x, the lower bound and the upper bound. -/
def decideClamp (ty : Ty) (x lo hi : Nat) : Nat × Nat :=
  match witKey ty x with
  | none => (witCanon ty, 3)
  | some k =>
    if (match witKey ty lo with | some l => decide (k < l) | none => false) then (lo, 1)
    else if (match witKey ty hi with | some h => decide (h < k) | none => false) then (hi, 2)
    else (x, 0)

/-- A value that is the infinity of a sign. -/
def Num.isInf (n : Bool) : Num → Bool
  | .inf m => m == n
  | _ => false

/-- ssum: the result, its code, its flags. +inf beside -inf sets NV in whatever order they and a NaN come. -/
def decideSum (ty : Ty) (c : Word) (xs : List Nat) : Nat × Nat × FFlags :=
  let t := tyOr ty .f32
  if ty.isFT then
    let f := fmtOf t
    let vs := xs.map (fVal f)
    let start := match vs with
      | .zero n :: _ => .zero n
      | [] => .zero false
      | _ => cancelZero (fctlMode c)
    let top (n : Bool) : Nat × Nat × FFlags := ((if n then f.signBit else 0) + f.maxBits, if n then 2 else 1, fNX)
    match vs.foldl (fun a x => (numAdd (fctlMode c) a x).1) start with
    | .nan _ => (f.nan, 3, if vs.any (Num.isInf true) && vs.any (Num.isInf false) then fNV else 0)
    | .inf n => top n
    | v =>
      let (b, fl) := roundTo f (fctlMode c) (fctlFz c) v
      if fl &&& fOF ≠ 0 then top v.neg? else (b, 0, fl)
  else
    let v := (xs.map (intElem t)).foldl (· + ·) 0
    let b := putElem t true v
    (b, if v = intElem t b then 0 else if intElem t b < v then 1 else 2, 0)

/-- Decide, for the operator codes of R377. -/
def witDecide (op : Nat) (ty : Ty) (all : Bool) (c : Word) (raw : List Nat) : Nat × Nat × FFlags :=
  let ins := raw.map (witIn ty c)
  let xs := ins.map (·.1)
  let fl := ins.foldl (fun a e => a ||| e.2) (0 : FFlags)
  let plain (r : Nat × Nat) : Nat × Nat × FFlags := (r.1, r.2, fl)
  match op with
  | 0 => plain (decideExtreme ty true all xs)
  | 1 => plain (decideExtreme ty false all xs)
  | 2 => plain (decideClamp ty (xs.getD 0 0) (xs.getD 1 0) (xs.getD 2 0))
  | 3 => plain (decideMed ty all xs)
  | _ =>
    let (b, k, fs) := decideSum ty c xs
    (b, k, fl ||| fs)

/-! ## wred (R382) -/

/-- What a reduction leaves in a row: result elements with their places, codes with theirs, flags. -/
def witRow (op : Nat) (ty : Ty) (all row : Bool) (st : Strand) (srcs : List Rows) (i : Nat) : List (Nat × Nat × Nat × FFlags) :=
  let w := ty.tileWidth
  let n := min st.cols (512 / w)
  if !st.rowActive i then []
  else if row then
    let r := witDecide op ty all st.fctl ((List.range n).map (fun j => (srcs.headD []).elem w i j))
    [(0, r.1, r.2.1, r.2.2)]
  else (List.range n).map (fun j =>
    let r := witDecide op ty all st.fctl (srcs.map (fun t => t.elem w i j))
    (j, r.1, r.2.1, r.2.2))

/-- A reduction with its contributors. -/
def wred (f : Form) (op : Nat) (ty : Ty) (all row : Bool) (km1 : Nat) (d wt : Tile) (srcs : List Tile) (s : State) :
    Host.Outcome State Fault Refusal :=
  runInstr f ([.feat 5, .tdst d, .tdst wt, .twhole wt, .status 0x12] ++ srcs.map .tsrc ++ shapeOps ++ fctlOps ty.isFT) (fun s w =>
    let st := s.strand w
    let wd := ty.tileWidth
    let out := (List.range 16).map (witRow op ty all row st (srcs.map (s.tile w)))
    let res := (List.range 16).map (fun i =>
      (out.getD i []).foldl (fun r e => setElem r wd e.1 e.2.1) ((s.tile w d).row i))
    let codes := (List.range 16).map (fun i =>
      (out.getD i []).foldl (fun r e => setElem r 8 e.1 e.2.2.1) (BitVec.allOnes 512))
    let fl := out.foldl (fun a r => r.foldl (fun a e => a ||| e.2.2.2) a) (0 : FFlags)
    let gen := bits st.wgen 15 0
    let tag := witnessTag gen op all row (if op = 2 then 2 else if row then 0 else km1) (widthCode ty) (st.rows - 1)
    s.withFlags w fl 48 (fun s =>
      let s1 := (s.setTile w d res 0).setTile w wt codes tag
      s1.setStrand w { s1.strand w with wgen := BitVec.ofNat 64 ((gen + 1) % 2 ^ 16) })) s

/-- The contributors of a form: tiles a to a + k - 1, or tile a alone. -/
def contributors (row : Bool) (km1 : BitVec 3) (a : Tile) : List Tile :=
  if row then [a] else (List.range (km1.toNat + 1)).map (fun c => BitVec.ofNat 4 (a.toNat + c))

def execWredMax (f : Form) (ty : Ty) (all row : Bool) (km1 : BitVec 3) (d w a : Tile) (s : State) :
    Host.Outcome State Fault Refusal := wred f 0 ty all row km1.toNat d w (contributors row km1 a) s
def execWredMin (f : Form) (ty : Ty) (all row : Bool) (km1 : BitVec 3) (d w a : Tile) (s : State) :
    Host.Outcome State Fault Refusal := wred f 1 ty all row km1.toNat d w (contributors row km1 a) s
def execWredClamp (f : Form) (ty : Ty) (d w a b c : Tile) (s : State) : Host.Outcome State Fault Refusal :=
  wred f 2 ty false false 2 d w [a, b, c] s
def execWredMed (f : Form) (ty : Ty) (all : Bool) (km1 : BitVec 3) (d w a : Tile) (s : State) :
    Host.Outcome State Fault Refusal := wred f 3 ty all false km1.toNat d w (contributors false km1 a) s
def execWredSsum (f : Form) (ty : Ty) (row : Bool) (km1 : BitVec 3) (d w a : Tile) (s : State) :
    Host.Outcome State Fault Refusal := wred f 4 ty false row km1.toNat d w (contributors row km1 a) s

/-! ## wadj (R383, R384) -/

def Trap.witness (cause : Nat) : Trap := { code := .witness, cause := cause }

/-- Routed. -/
def routed (op : Nat) (all row : Bool) (code c j : Nat) : Bool :=
  if all then decide (code < 0x80) && code / 2 ^ c % 2 == 1
  else if op = 4 then code == 0
  else if row then code == j
  else code == c

/-- The CAUSE with which a tag is refused. -/
def tagCause (t op : Nat) (all row : Bool) (km1 w rm1 : Nat) (gen : Option Nat) : Option Nat :=
  if t = 0 then some 20
  else if field t 14 12 ≠ op then some 21
  else if (field t 11 11 == 1) != all || (field t 10 10 == 1) != row || field t 9 7 != km1 then some 22
  else if field t 6 5 ≠ w then some 23
  else if field t 4 1 ≠ rm1 then some 24
  else match gen with
    | some g => if field t 31 16 ≠ g then some 25 else none
    | none => none

/-- The tag of the tile bound to a name. -/
def State.tagOf (s : State) (w : Who) (t : Tile) : BitVec 32 :=
  match (s.strand w).poolTile t with
  | some pt => (s.live w.core).tag pt
  | none => 0

/-- Output c. -/
def wadjRows (ty : Ty) (op : Nat) (all row : Bool) (st : Strand) (g wt old : Rows) (c : Nat) : Rows :=
  (eltRows st ty.tileWidth old (fun i j =>
    let code := wt.elem 8 i (if row then 0 else j)
    let x := g.elem ty.tileWidth i (if row then 0 else j)
    (if routed op all row code c j then x else 0, 0))).1

def execWadj (f : Form) (ty : Ty) (once : Bool) (gen : Option (BitVec 4)) (op : BitVec 3) (all row : Bool) (km1 : BitVec 3)
    (d g wt : Tile) (s : State) : Host.Outcome State Fault Refusal :=
  let k := if row then 1 else km1.toNat + 1
  let outs : List Tile := (List.range k).map (fun c => BitVec.ofNat 4 (d.toNat + c))
  let genOp : List Opnd := match gen with
    | some r => [.src (r.setWidth 6)]
    | none => []
  runInstr f ([.feat 5] ++ outs.map .tdst ++ [.tsrc g, .tsrc wt] ++ genOp ++ shapeOps) (fun s w =>
    let st := s.strand w
    match tagCause (s.tagOf w wt).toNat op.toNat all row km1.toNat (widthCode ty) (st.rows - 1)
        (gen.map (fun r => bits (s.reg w (r.setWidth 6)) 15 0)) with
    | some c => .error (.witness c)
    | none =>
      let gr := s.tile w g
      let wr := s.tile w wt
      let s1 := (outs.zip (List.range k)).foldl (fun acc o =>
        acc.setTile w o.1 (wadjRows ty op.toNat all row st gr wr (s.tile w o.1) o.2) 0) s
      done (if once then s1.clearTag w wt else s1) 48) s

/-! ## wst, wld (R385, R386) -/

/-- CRC-32 of IEEE 802.3 over bytes, from a register value on. -/
def crcBits (c : Nat) : Nat → Nat
  | 0 => c
  | n + 1 => crcBits (if c % 2 = 1 then c / 2 ^^^ 0xEDB88320 else c / 2) n
def crcFrom (c : Nat) : List Byte → Nat
  | [] => c
  | b :: t => crcFrom (crcBits (c ^^^ b.toNat) 8) t
def crc32 (bs : List Byte) : Nat := crcFrom 0xFFFFFFFF bs ^^^ 0xFFFFFFFF

/-- CHK of a tile and its tag. -/
def witnessChk (rows : Rows) (tag : Nat) : Nat :=
  crc32 (rows.flatMap (fun r => bytesOfNat 64 r.toNat) ++ bytesOfNat 4 tag)

/-- The seventeen blocks of a record. -/
def recBlocks (a : Word) : List (Word × Nat) := (List.range 17).map (fun i => (a + BitVec.ofNat 64 (64 * i), 64))

def execWst (f : Form) (d : Tile) (a : Reg) (s : State) : Host.Outcome State Fault Refusal :=
  runInstr f [.feat 5, .mem, .tsrc d, .src a] (fun s w =>
    let at_ := s.reg w a
    if at_.toNat % 64 ≠ 0 then .error (.align at_ 1)
    else
      match s.pieces w .store .tile (recBlocks at_) with
      | .error t => .error t
      | .ok ps =>
        if ps.any (fun p => s.pieceWaits w p 64) then s.holdBack w .operand
        else
          let tag := (s.tagOf w d).toNat
          let rows := s.tile w d
          let vs := rows.map (·.toNat) ++ [tag + 2 ^ 32 * witnessChk rows tag]
          .ok (.retire ((ps.zip vs).foldl (fun acc r => acc.storeAt w r.1 r.2) (s.useAll w ps)) (memEu ps))) s

def execWld (f : Form) (d : Tile) (a : Reg) (s : State) : Host.Outcome State Fault Refusal :=
  runInstr f [.feat 5, .mem, .tdst d, .twhole d, .src a] (fun s w =>
    let at_ := s.reg w a
    if at_.toNat % 64 ≠ 0 then .error (.align at_)
    else
      match s.pieces w .load .tile (recBlocks at_) with
      | .error t => .error t
      | .ok ps =>
        if s.rowAway w ps then s.holdBack w .remote
        else if ps.any (fun p => s.mustWait w false p.at_.flat 64) then s.holdBack w .operand
        else
          match (s.useAll w ps).readRows w ps with
          | .error t => .error t
          | .ok (vs, s1) =>
            let rows : Rows := (vs.take 16).map (BitVec.ofNat 512)
            let last := vs.getD 16 0
            let tag := last % 2 ^ 32
            if last / 2 ^ 64 ≠ 0 ∨ last / 2 ^ 32 ≠ witnessChk rows tag ∨ !tagOk tag then .error (.witness 26)
            else .ok (.retire (s1.setTile w d rows (BitVec.ofNat 32 tag)) (memEu ps))) s

end Sys2Proof.Machine
end

