-- ==== Sys2Proof/Machine/Dispatch.lean ====
section
/-!
DEFINITION. One arm per constructor of Instr: a direct call of its meaning.
-/
namespace Sys2Proof.Machine

def exec (i : Instr) (s : State) : Host.Outcome State Fault Refusal :=
  match i with
  | .iAdd f ty d a b => Sys2Proof.Machine.execIAdd f ty d a b s
  | .iSub f ty d a b => Sys2Proof.Machine.execISub f ty d a b s
  | .iMul f ty d a b => Sys2Proof.Machine.execIMul f ty d a b s
  | .iMulh f ty d a b => Sys2Proof.Machine.execIMulh f ty d a b s
  | .iDiv f ty d a b => Sys2Proof.Machine.execIDiv f ty d a b s
  | .iRem f ty d a b => Sys2Proof.Machine.execIRem f ty d a b s
  | .iAnd f ty d a b => Sys2Proof.Machine.execIAnd f ty d a b s
  | .iOr f ty d a b => Sys2Proof.Machine.execIOr f ty d a b s
  | .iXor f ty d a b => Sys2Proof.Machine.execIXor f ty d a b s
  | .iAndn f ty d a b => Sys2Proof.Machine.execIAndn f ty d a b s
  | .iShl f ty d a b => Sys2Proof.Machine.execIShl f ty d a b s
  | .iShr f ty d a b => Sys2Proof.Machine.execIShr f ty d a b s
  | .iSra f ty d a b => Sys2Proof.Machine.execISra f ty d a b s
  | .iRol f ty d a b => Sys2Proof.Machine.execIRol f ty d a b s
  | .iMin f ty d a b => Sys2Proof.Machine.execIMin f ty d a b s
  | .iMax f ty d a b => Sys2Proof.Machine.execIMax f ty d a b s
  | .mov f ty d a => Sys2Proof.Machine.execMov f ty d a s
  | .clz f ty d a => Sys2Proof.Machine.execClz f ty d a s
  | .ctz f ty d a => Sys2Proof.Machine.execCtz f ty d a s
  | .popc f ty d a => Sys2Proof.Machine.execPopc f ty d a s
  | .bext f ty d a b => Sys2Proof.Machine.execBext f ty d a b s
  | .bins f ty d a b => Sys2Proof.Machine.execBins f ty d a b s
  | .cvt f dty sty d a => Sys2Proof.Machine.execCvt f dty sty d a s
  | .addImm f ty d a imm => Sys2Proof.Machine.execAddImm f ty d a imm s
  | .andImm f ty d a imm => Sys2Proof.Machine.execAndImm f ty d a imm s
  | .orImm f ty d a imm => Sys2Proof.Machine.execOrImm f ty d a imm s
  | .xorImm f ty d a imm => Sys2Proof.Machine.execXorImm f ty d a imm s
  | .shlImm f ty d a imm => Sys2Proof.Machine.execShlImm f ty d a imm s
  | .shrImm f ty d a imm => Sys2Proof.Machine.execShrImm f ty d a imm s
  | .sraImm f ty d a imm => Sys2Proof.Machine.execSraImm f ty d a imm s
  | .rolImm f ty d a imm => Sys2Proof.Machine.execRolImm f ty d a imm s
  | .movi f d imm => Sys2Proof.Machine.execMovi f d imm s
  | .lea f d a imm => Sys2Proof.Machine.execLea f d a imm s
  | .cmp f ty cond p a b => Sys2Proof.Machine.execCmp f ty cond p a b s
  | .sel f p sense d a b => Sys2Proof.Machine.execSel f p sense d a b s
  | .fadd f ty d a b => Sys2Proof.Machine.execFadd f ty d a b s
  | .fsub f ty d a b => Sys2Proof.Machine.execFsub f ty d a b s
  | .fmul f ty d a b => Sys2Proof.Machine.execFmul f ty d a b s
  | .fdiv f ty d a b => Sys2Proof.Machine.execFdiv f ty d a b s
  | .fsqrt f ty d a lit => Sys2Proof.Machine.execFsqrt f ty d a lit s
  | .fmin f ty d a b => Sys2Proof.Machine.execFmin f ty d a b s
  | .fmax f ty d a b => Sys2Proof.Machine.execFmax f ty d a b s
  | .fclass f ty d a lit => Sys2Proof.Machine.execFclass f ty d a lit s
  | .frnd f ty d a lit => Sys2Proof.Machine.execFrnd f ty d a lit s
  | .fma f ty d a b e => Sys2Proof.Machine.execFma f ty d a b e s
  | .fcmp f ty cond p a b => Sys2Proof.Machine.execFcmp f ty cond p a b s
  | .fcvt f dty sty d a => Sys2Proof.Machine.execFcvt f dty sty d a s
  | .br p ps off => Sys2Proof.Machine.execBr p ps off s
  | .jmp f off => Sys2Proof.Machine.execJmp f off s
  | .call f off => Sys2Proof.Machine.execCall f off s
  | .jmpReg f a => Sys2Proof.Machine.execJmpReg f a s
  | .callReg f a => Sys2Proof.Machine.execCallReg f a s
  | .ret f a => Sys2Proof.Machine.execRet f a s
  | .loop f lvl a end16 => Sys2Proof.Machine.execLoop f lvl a end16 s
  | .loopImm f lvl n end16 => Sys2Proof.Machine.execLoopImm f lvl n end16 s
  | .nop f => Sys2Proof.Machine.execNop f s
  | .pause f => Sys2Proof.Machine.execPause f s
  | .pauseEnd core strand => Sys2Proof.Machine.execPauseEnd core strand s
  | .trap f => Sys2Proof.Machine.execTrap f s
  | .sys f code => Sys2Proof.Machine.execSys f code s
  | .eret f rc a => Sys2Proof.Machine.execEret f rc a s
  | .exit f => Sys2Proof.Machine.execExit f s
  | .sleepns f a => Sys2Proof.Machine.execSleepns f a s
  | .waitns f a => Sys2Proof.Machine.execWaitns f a s
  | .waitnsV f a => Sys2Proof.Machine.execWaitnsV f a s
  | .timedWaitDeadline core strand => Sys2Proof.Machine.execTimedWaitDeadline core strand s
  | .rdtime f d => Sys2Proof.Machine.execRdtime f d s
  | .mts f ssel a => Sys2Proof.Machine.execMts f ssel a s
  | .mfs f ssel d => Sys2Proof.Machine.execMfs f ssel d s
  | .bsfill f a b => Sys2Proof.Machine.execBsfill f a b s
  | .bsget f d b => Sys2Proof.Machine.execBsget f d b s
  | .bspeek f d b => Sys2Proof.Machine.execBspeek f d b s
  | .bsskip f b => Sys2Proof.Machine.execBsskip f b s
  | .bsgetImm f d n1 => Sys2Proof.Machine.execBsgetImm f d n1 s
  | .bspeekImm f d n1 => Sys2Proof.Machine.execBspeekImm f d n1 s
  | .bsskipImm f n1 => Sys2Proof.Machine.execBsskipImm f n1 s
  | .ld f ty d a imm => Sys2Proof.Machine.execLd f ty d a imm s
  | .st f ty d a imm => Sys2Proof.Machine.execSt f ty d a imm s
  | .loadDataReturn core strand n => Sys2Proof.Machine.execLoadDataReturn core strand n s
  | .deferredEcc core strand n => Sys2Proof.Machine.execDeferredEcc core strand n s
  | .ldn f ty rank d a off => Sys2Proof.Machine.execLdn f ty rank d a off s
  | .stn f ty rank d a off => Sys2Proof.Machine.execStn f ty rank d a off s
  | .ldt f d a b imm => Sys2Proof.Machine.execLdt f d a b imm s
  | .stt f d a b imm => Sys2Proof.Machine.execStt f d a b imm s
  | .ldtPost f d a b imm => Sys2Proof.Machine.execLdtPost f d a b imm s
  | .sttPost f d a b imm => Sys2Proof.Machine.execSttPost f d a b imm s
  | .pref f n1 a hc off => Sys2Proof.Machine.execPref f n1 a hc off s
  | .pushm f a b => Sys2Proof.Machine.execPushm f a b s
  | .popm f a b => Sys2Proof.Machine.execPopm f a b s
  | .rst f of n1 d a path => Sys2Proof.Machine.execRst f of n1 d a path s
  | .rld f n1 d a path => Sys2Proof.Machine.execRld f n1 d a path s
  | .remoteStoreArrive pkt refused => Sys2Proof.Machine.execRemoteStoreArrive pkt refused s
  | .spillQueueSpaceFree pkt => Sys2Proof.Machine.execSpillQueueSpaceFree pkt s
  | .remoteAckArrive pkt => Sys2Proof.Machine.execRemoteAckArrive pkt s
  | .remoteLoadArrive pkt => Sys2Proof.Machine.execRemoteLoadArrive pkt s
  | .nonreturningServiced pkt => Sys2Proof.Machine.execNonreturningServiced pkt s
  | .amoAdd f ord ty d a b e => Sys2Proof.Machine.execAmoAdd f ord ty d a b e s
  | .amoMin f ord ty d a b e => Sys2Proof.Machine.execAmoMin f ord ty d a b e s
  | .amoMax f ord ty d a b e => Sys2Proof.Machine.execAmoMax f ord ty d a b e s
  | .amoAnd f ord ty d a b e => Sys2Proof.Machine.execAmoAnd f ord ty d a b e s
  | .amoOr f ord ty d a b e => Sys2Proof.Machine.execAmoOr f ord ty d a b e s
  | .amoXor f ord ty d a b e => Sys2Proof.Machine.execAmoXor f ord ty d a b e s
  | .amoSwap f ord ty d a b e => Sys2Proof.Machine.execAmoSwap f ord ty d a b e s
  | .amoCas f ord ty d a b e => Sys2Proof.Machine.execAmoCas f ord ty d a b e s
  | .amoFadd f ord ty d a b e => Sys2Proof.Machine.execAmoFadd f ord ty d a b e s
  | .amoXacc f ord ty a b e => Sys2Proof.Machine.execAmoXacc f ord ty a b e s
  | .predictorDecay cluster => Sys2Proof.Machine.execPredictorDecay cluster s
  | .ldAcq f ty d a e => Sys2Proof.Machine.execLdAcq f ty d a e s
  | .stRel f ty d a e => Sys2Proof.Machine.execStRel f ty d a e s
  | .fenceAcq f a => Sys2Proof.Machine.execFenceAcq f a s
  | .fenceRel f a => Sys2Proof.Machine.execFenceRel f a s
  | .fenceFull f a => Sys2Proof.Machine.execFenceFull f a s
  | .fenceAck f => Sys2Proof.Machine.execFenceAck f s
  | .fenceAcqAll f a => Sys2Proof.Machine.execFenceAcqAll f a s
  | .fenceRelAll f a => Sys2Proof.Machine.execFenceRelAll f a s
  | .fenceFullAll f a => Sys2Proof.Machine.execFenceFullAll f a s
  | .bind f d a b => Sys2Proof.Machine.execBind f d a b s
  | .unbind f a b => Sys2Proof.Machine.execUnbind f a b s
  | .wbr f a b => Sys2Proof.Machine.execWbr f a b s
  | .invr f a b => Sys2Proof.Machine.execInvr f a b s
  | .tadd f ty sat d a b => Sys2Proof.Machine.execTadd f ty sat d a b s
  | .tsub f ty sat d a b => Sys2Proof.Machine.execTsub f ty sat d a b s
  | .tmul f ty sat d a b => Sys2Proof.Machine.execTmul f ty sat d a b s
  | .tmin f ty d a b => Sys2Proof.Machine.execTmin f ty d a b s
  | .tmax f ty d a b => Sys2Proof.Machine.execTmax f ty d a b s
  | .tand f ty d a b => Sys2Proof.Machine.execTand f ty d a b s
  | .tor f ty d a b => Sys2Proof.Machine.execTor f ty d a b s
  | .txor f ty d a b => Sys2Proof.Machine.execTxor f ty d a b s
  | .tshl f ty d a k => Sys2Proof.Machine.execTshl f ty d a k s
  | .tshr f ty d a k => Sys2Proof.Machine.execTshr f ty d a k s
  | .tfma f ty sat d a b c => Sys2Proof.Machine.execTfma f ty sat d a b c s
  | .tcmp f ty cond d a b => Sys2Proof.Machine.execTcmp f ty cond d a b s
  | .tsel f ty d a b c => Sys2Proof.Machine.execTsel f ty d a b c s
  | .tcvt f dty sty d a k => Sys2Proof.Machine.execTcvt f dty sty d a k s
  | .tmov f ty d a => Sys2Proof.Machine.execTmov f ty d a s
  | .tzero f ty d => Sys2Proof.Machine.execTzero f ty d s
  | .tiota f ty d s8 => Sys2Proof.Machine.execTiota f ty d s8 s
  | .tabs f ty sat d a => Sys2Proof.Machine.execTabs f ty sat d a s
  | .tneg f ty sat d a => Sys2Proof.Machine.execTneg f ty sat d a s
  | .texp2 f ty d a => Sys2Proof.Machine.execTexp2 f ty d a s
  | .tlog2 f ty d a => Sys2Proof.Machine.execTlog2 f ty d a s
  | .trcp f ty d a => Sys2Proof.Machine.execTrcp f ty d a s
  | .trsqrt f ty d a => Sys2Proof.Machine.execTrsqrt f ty d a s
  | .ttanh f ty d a => Sys2Proof.Machine.execTtanh f ty d a s
  | .tbcast f ty d v => Sys2Proof.Machine.execTbcast f ty d v s
  | .tset f ty d row col v => Sys2Proof.Machine.execTset f ty d row col v s
  | .trowred f ty op wide d a => Sys2Proof.Machine.execTrowred f ty op wide d a s
  | .tcolred f ty op wide d a => Sys2Proof.Machine.execTcolred f ty op wide d a s
  | .ttrans f ty d a h => Sys2Proof.Machine.execTtrans f ty d a h s
  | .tperm f ty d a b => Sys2Proof.Machine.execTperm f ty d a b s
  | .tlutload f a => Sys2Proof.Machine.execTlutload f a s
  | .tlut f ty d a p => Sys2Proof.Machine.execTlut f ty d a p s
  | .tplanes f d a => Sys2Proof.Machine.execTplanes f d a s
  | .tunplanes f k d a => Sys2Proof.Machine.execTunplanes f k d a s
  | .bsgetT f ty d n => Sys2Proof.Machine.execBsgetT f ty d n s
  | .mldw f ty k slot a => Sys2Proof.Machine.execMldw f ty k slot a s
  | .mstrm f ty slot d a c => Sys2Proof.Machine.execMstrm f ty slot d a c s
  | .mrd f slot d => Sys2Proof.Machine.execMrd f slot d s
  | .mclr f slot => Sys2Proof.Machine.execMclr f slot s
  | .mwait f cover => Sys2Proof.Machine.execMwait f cover s
  | .mxaOpStart core n => Sys2Proof.Machine.execMxaOpStart core n s
  | .mxaOpFinish core n => Sys2Proof.Machine.execMxaOpFinish core n s
  | .mwaitEnd core strand => Sys2Proof.Machine.execMwaitEnd core strand s
  | .ctxinfo f d q => Sys2Proof.Machine.execCtxinfo f d q s
  | .enrd f d a q => Sys2Proof.Machine.execEnrd f d a q s
  | .qpost f d a b => Sys2Proof.Machine.execQpost f d a b s
  | .packetPublished queue k => Sys2Proof.Machine.execPacketPublished queue k s
  | .qwait f conf d a b => Sys2Proof.Machine.execQwait f conf d a b s
  | .qwaitEnd core strand => Sys2Proof.Machine.execQwaitEnd core strand s
  | .kinfo f d a b => Sys2Proof.Machine.execKinfo f d a b s
  | .gid f d q => Sys2Proof.Machine.execGid f d q s
  | .gdom f n => Sys2Proof.Machine.execGdom f n s
  | .gdomWaitEnd core strand => Sys2Proof.Machine.execGdomWaitEnd core strand s
  | .sstep f a => Sys2Proof.Machine.execSstep f a s
  | .sstepEnd f => Sys2Proof.Machine.execSstepEnd f s
  | .phaseEnd kernel level bx by_ count => Sys2Proof.Machine.execPhaseEnd kernel level bx by_ count s
  | .staggeredRelease core strand => Sys2Proof.Machine.execStaggeredRelease core strand s
  | .tsend f slot t b => Sys2Proof.Machine.execTsend f slot t b s
  | .tsendSlotStart core strand => Sys2Proof.Machine.execTsendSlotStart core strand s
  | .tsendLand pkt => Sys2Proof.Machine.execTsendLand pkt s
  | .kdecl f a => Sys2Proof.Machine.execKdecl f a s
  | .kacq f d a => Sys2Proof.Machine.execKacq f d a s
  | .ktry f d a => Sys2Proof.Machine.execKtry f d a s
  | .krel f a => Sys2Proof.Machine.execKrel f a s
  | .kquery f d q => Sys2Proof.Machine.execKquery f d q s
  | .tumblerCycle core => Sys2Proof.Machine.execTumblerCycle core s
  | .binit f a b => Sys2Proof.Machine.execBinit f a b s
  | .barr f d a e => Sys2Proof.Machine.execBarr f d a e s
  | .bwait f d a b e => Sys2Proof.Machine.execBwait f d a b e s
  | .barw f d a e => Sys2Proof.Machine.execBarw f d a e s
  | .bpoison f a b e => Sys2Proof.Machine.execBpoison f a b e s
  | .bquery f d a q => Sys2Proof.Machine.execBquery f d a q s
  | .barrierWaiterLeave core strand => Sys2Proof.Machine.execBarrierWaiterLeave core strand s
  | .xfer f xf bud d a b => Sys2Proof.Machine.execXfer f xf bud d a b s
  | .xferOpStart core => Sys2Proof.Machine.execXferOpStart core s
  | .xferComplete core slot => Sys2Proof.Machine.execXferComplete core slot s
  | .xferFault core slot => Sys2Proof.Machine.execXferFault core slot s
  | .xferResume core slot => Sys2Proof.Machine.execXferResume core slot s
  | .latch f a b e => Sys2Proof.Machine.execLatch f a b e s
  | .ptprobe f d a q => Sys2Proof.Machine.execPtprobe f d a q s
  | .tlbinv f d a b => Sys2Proof.Machine.execTlbinv f d a b s
  | .msend f d a => Sys2Proof.Machine.execMsend f d a s
  | .msendAccept pkt => Sys2Proof.Machine.execMsendAccept pkt s
  | .msendRefused pkt => Sys2Proof.Machine.execMsendRefused pkt s
  | .mrecv f try_ d a => Sys2Proof.Machine.execMrecv f try_ d a s
  | .mrecvWaitEnd core strand => Sys2Proof.Machine.execMrecvWaitEnd core strand s
  | .lquery f d a q => Sys2Proof.Machine.execLquery f d a q s
  | .hopen f id slot a b => Sys2Proof.Machine.execHopen f id slot a b s
  | .hjoin f id slot a b => Sys2Proof.Machine.execHjoin f id slot a b s
  | .hload f ty id a b => Sys2Proof.Machine.execHload f ty id a b s
  | .hadd f ty id a b => Sys2Proof.Machine.execHadd f ty id a b s
  | .hread f ty id d b => Sys2Proof.Machine.execHread f ty id d b s
  | .hpush f id d a => Sys2Proof.Machine.execHpush f id d a s
  | .hleave f id d a => Sys2Proof.Machine.execHleave f id d a s
  | .hmass f id d => Sys2Proof.Machine.execHmass f id d s
  | .hmassSet f id a => Sys2Proof.Machine.execHmassSet f id a s
  | .hdisag f id d => Sys2Proof.Machine.execHdisag f id d s
  | .hpause f id => Sys2Proof.Machine.execHpause f id s
  | .hresume f id => Sys2Proof.Machine.execHresume f id s
  | .hingeBgTick core slot => Sys2Proof.Machine.execHingeBgTick core slot s
  | .hingePushArrive pkt => Sys2Proof.Machine.execHingePushArrive pkt s
  | .hingeReplyArrive pkt code => Sys2Proof.Machine.execHingeReplyArrive pkt code s
  | .wredMax f ty all row km1 d w a => Sys2Proof.Machine.execWredMax f ty all row km1 d w a s
  | .wredMin f ty all row km1 d w a => Sys2Proof.Machine.execWredMin f ty all row km1 d w a s
  | .wredClamp f ty d w a b c => Sys2Proof.Machine.execWredClamp f ty d w a b c s
  | .wredMed f ty all km1 d w a => Sys2Proof.Machine.execWredMed f ty all km1 d w a s
  | .wredSsum f ty row km1 d w a => Sys2Proof.Machine.execWredSsum f ty row km1 d w a s
  | .wadj f ty once gen op all row km1 d g w => Sys2Proof.Machine.execWadj f ty once gen op all row km1 d g w s
  | .wst f d a => Sys2Proof.Machine.execWst f d a s
  | .wld f d a => Sys2Proof.Machine.execWld f d a s
  | .contextCreate desc image => Sys2Proof.Machine.execContextCreate desc image s
  | .contextDestroy ctx => Sys2Proof.Machine.execContextDestroy ctx s
  | .gangSwitchTime die n core => Sys2Proof.Machine.execGangSwitchTime die n core s
  | .plantailWrite die v => Sys2Proof.Machine.execPlantailWrite die v s
  | .meshInterruptMessage core ctx => Sys2Proof.Machine.execMeshInterruptMessage core ctx s
  | .resumeRequest core ctx => Sys2Proof.Machine.execResumeRequest core ctx s
  | .savecoreEnd core blocks => Sys2Proof.Machine.execSavecoreEnd core blocks s
  | .restorecoreEnd core => Sys2Proof.Machine.execRestorecoreEnd core s
  | .queueCreate va ring ctx qid hostq qprio die logcap => Sys2Proof.Machine.execQueueCreate va ring ctx qid hostq qprio die logcap s
  | .queueReset queue => Sys2Proof.Machine.execQueueReset queue s
  | .queueClose queue => Sys2Proof.Machine.execQueueClose queue s
  | .sliceBoundary die heavy => Sys2Proof.Machine.execSliceBoundary die heavy s
  | .tsliceWrite die v => Sys2Proof.Machine.execTsliceWrite die v s
  | .schedulerPass die => Sys2Proof.Machine.execSchedulerPass die s
  | .hostDoorbell die k full desc write => Sys2Proof.Machine.execHostDoorbell die k full desc write s
  | .groupPlace kernel group x0 y0 => Sys2Proof.Machine.execGroupPlace kernel group x0 y0 s
  | .groupStart kernel group => Sys2Proof.Machine.execGroupStart kernel group s
  | .kernelRetire kernel => Sys2Proof.Machine.execKernelRetire kernel s
  | .kernelFault kernel why cc => Sys2Proof.Machine.execKernelFault kernel why cc s
  | .kernelService kernel cc => Sys2Proof.Machine.execKernelService kernel cc s
  | .kernelAbandon kernel cc => Sys2Proof.Machine.execKernelAbandon kernel cc s
  | .replayDiscardComplete kernel => Sys2Proof.Machine.execReplayDiscardComplete kernel s
  | .linkResetRelease => Sys2Proof.Machine.execLinkResetRelease s
  | .trainingSuccess link nmod nport => Sys2Proof.Machine.execTrainingSuccess link nmod nport s
  | .trainingFailure link => Sys2Proof.Machine.execTrainingFailure link s
  | .portTrainRetry port => Sys2Proof.Machine.execPortTrainRetry port s
  | .flitCrcError link same fixed fec => Sys2Proof.Machine.execFlitCrcError link same fixed fec s
  | .retrainSuccess link => Sys2Proof.Machine.execRetrainSuccess link s
  | .retrainFailure link => Sys2Proof.Machine.execRetrainFailure link s
  | .portDisable port => Sys2Proof.Machine.execPortDisable port s
  | .portEnable port => Sys2Proof.Machine.execPortEnable port s
  | .machineCheck die why cc => Sys2Proof.Machine.execMachineCheck die why cc s
  | .routeTableWrite die host e v => Sys2Proof.Machine.execRouteTableWrite die host e v s
  | .timeFlit port src offset locked => Sys2Proof.Machine.execTimeFlit port src offset locked s
  | .timeFlitTimeout => Sys2Proof.Machine.execTimeFlitTimeout s
  | .moduleAdd m => Sys2Proof.Machine.execModuleAdd m s
  | .moduleClear m => Sys2Proof.Machine.execModuleClear m s
  | .moduleFailTimeout m cc => Sys2Proof.Machine.execModuleFailTimeout m cc s
  | .moduleDeclareFailed m cc => Sys2Proof.Machine.execModuleDeclareFailed m cc s
  | .faultRingHeadWrite die v => Sys2Proof.Machine.execFaultRingHeadWrite die v s
  | .faultRingConfigWrite die cap v => Sys2Proof.Machine.execFaultRingConfigWrite die cap v s
  | .lmSweep core => Sys2Proof.Machine.execLmSweep core s
  | .scanStart die idx => Sys2Proof.Machine.execScanStart die idx s
  | .scanEnd die idx bad => Sys2Proof.Machine.execScanEnd die idx bad s
  | .vreqCommit cluster v => Sys2Proof.Machine.execVreqCommit cluster v s
  | .voltageStepEnd cluster => Sys2Proof.Machine.execVoltageStepEnd cluster s
  | .clockHopEnd core => Sys2Proof.Machine.execClockHopEnd core s
  | .droopDetect cluster => Sys2Proof.Machine.execDroopDetect cluster s
  | .droopClear cluster => Sys2Proof.Machine.execDroopClear cluster s
  | .featreqWrite die host v => Sys2Proof.Machine.execFeatreqWrite die host v s
  | .moduleResetBoot image table => Sys2Proof.Machine.execModuleResetBoot image table s
  | .partitionImageVerify part image => Sys2Proof.Machine.execPartitionImageVerify part image s
  | .attestationRequest part nonce => Sys2Proof.Machine.execAttestationRequest part nonce s
  | .mmioRegisterWrite die host pa v => Sys2Proof.Machine.execMmioRegisterWrite die host pa v s
  | .timeNsAdvance => Sys2Proof.Machine.execTimeNsAdvance s
  | .unassignedEncoding => Sys2Proof.Machine.execUnassignedEncoding s

end Sys2Proof.Machine
end

