-- ==== Sys2Proof/Machine/Run.lean ====
section
/-!
DEFINITION. What one step of the module does: a turn of the agenda, or, with none, the next instruction of the core of the
current strand, work that is due there, or a nanosecond (R28, R111, R406).
-/
namespace Sys2Proof.Machine

/-! ## Issue on a core (R28, R48, R111, R406) -/

/-- Strands of a core that may issue, in the search order of R111: running, on a core where their context is ACTIVE and no
clock-source hop is in progress (R419), and waiting on nothing, or free to try again. -/
def State.candidates (s : State) (core : Nat) : List Nat :=
  let c := s.core core
  if c.st = .active ∧ !(s.powerOf (clusterOf core)).hops.contains core then
    ([1, 2, 3, 4].map (fun i => (c.lastK + i) % 4)).filter (fun n =>
      (c.live.strand n).run == .running && (match (c.live.strand n).wait with
        | some v => v.retry && v.woken
        | none => true))
  else []

/-- The words of a fetched instruction are decoded and the instruction runs; an unassigned encoding traps (R49). -/
def State.runWords (s : State) (ws : List (BitVec 32)) : Host.Outcome State Fault Refusal :=
  match decode (ws.flatMap bytesOfWord) with
  | some (i, _) => exec i s
  | none => execUnassignedEncoding s

/-- The Tumbler of the core takes its cycle (R289), and the instruction at the PC of a strand is fetched whole and runs. A fetch that
an armed watchpoint matches traps before any other check (R406). -/
def State.runStrand (s : State) (w : Who) : Host.Outcome State Fault Refusal :=
  let s0 : State := { s.tumble w.core with cur := w }
  let pc := (s0.strand w).pc
  match s0.fetchInstr w pc with
  | .trap t => s0.trapNow w t pc (pc + BitVec.ofNat 64 (s0.lenAt w pc))
  | .wait => .next (s0.heldOff w .operand)
  | .words ws s1 =>
    if s1.watched w pc 4 59 then s1.trapNow w (Trap.watch pc 3) pc (pc + BitVec.ofNat 64 (4 * ws.length))
    else s1.runWords ws

/-- The first strand that may issue on a core does. -/
def State.issueOn (s : State) (core : Nat) : Host.Outcome State Fault Refusal :=
  match s.candidates core with
  | n :: _ => s.runStrand ⟨core, n⟩
  | [] => .next s

/-! ## Turns of the agenda -/

/-- A row of the table that is a step of its own, not an instruction. -/
def isStep (i : Instr) : Bool := (encode i).isNone && i != .unassignedEncoding

/-- The name among the starts of strands of whoever else writes memory: the host. -/
def hostBirth : Nat := 2 ^ 64 * (1 + 2 ^ 16)

/-- Another party writes memory: HBM or host memory (R19, R422). It ends the release sequences of those bytes (R150), and the early readings
of strands miss it (R210). -/
def State.external (s : State) (flat : Nat) (bytes : List Byte) : State :=
  if inHbm flat bytes.length || decide (2 ^ 60 ≤ flat ∧ flat + bytes.length ≤ 2 ^ 61) then
    ((State.setHeads { s with mem := memWriteBytes s.mem flat bytes } [] false flat bytes.length).missed hostBirth none flat bytes.length).wake
  else s

/-- The name of a release point of the pod as this module has it: one that stands in an operation of another module without a module's name
is that module's own. -/
def State.podPoint (s : State) (m id : Nat) : Nat :=
  if id < 2 ^ 64 then 2 ^ 64 * (1 + m) + id else if id / 2 ^ 64 = 1 + s.module_.toNat then id % 2 ^ 64 else id

/-- An operation of another module arrives, with the release points of pod scope behind it, those of strands of this module that its strand
has paired with among them (R210, R212); one of a FAILED module is discarded
(R343). -/
def State.incoming (s : State) (p : Packet) : State :=
  if p.smodule = s.module_.toNat ∨ (s.modEnt p.smodule).state = .failed then s
  else State.wake { s with
    net := AMap.put s.net s.nextId { p with
      module_ := none, points := p.points.map (s.podPoint p.smodule), port := none, ports := [],
      ent := .none_, landed := false, held := false, full := false, refused := false, poison := 0, hseq := if p.kind = .msg then 0 else p.hseq }
    nextId := s.nextId + 1 }

/-- A translation leaves a core, or the TLB of a cluster or a die (R316). -/
def State.dropTlb (s : State) (core n : Nat) : State := s.setCore core { s.core core with tlb := (s.core core).tlb.eraseIdx n }
def State.dropClusterTlb (s : State) (cl n : Nat) : State :=
  { s with clusterTlb := AMap.put s.clusterTlb cl ((AMap.get [] s.clusterTlb cl).eraseIdx n) }
def State.dropDieTlb (s : State) (die n : Nat) : State :=
  { s with dieTlb := AMap.put s.dieTlb die ((AMap.get [] s.dieTlb die).eraseIdx n) }

/-- A reading of a strand that runs on a core where its context is ACTIVE. -/
def State.readerOn (s : State) (w : Who) : Bool := (s.core w.core).st == .active && (s.strand w).run == .running

/-- A single step of TIME (R108, R341): while no context runs, at boot before there is any, or forward on a module out of lock. -/
def State.stepTime (s : State) (t : Word) : State :=
  if !s.anyRunning && (s.contexts.all (fun e => !e.2.alive) || (!s.inLock && decide (s.time ≤ t))) then
    State.wake { s with time := t }
  else s

/-- The module is reset: what is to come, and the names given so far, stay. -/
def State.resetNow (s : State) : State :=
  { State.reset with module_ := s.module_, agenda := s.agenda, nextId := s.nextId, freeCtr := s.freeCtr }

def State.turn (s : State) : Turn → Host.Outcome State Fault Refusal
  | .issue core => s.issueOn core
  | .event i => if isStep i then exec i s else .next s
  | .evictLine cl ln => .next (if s.lineCut ⟨clusterCore cl 0, 0⟩ ln then s else s.dropLine cl ln)
  | .evictTlb core n => .next (s.dropTlb core n)
  | .evictClusterTlb cl n => .next (s.dropClusterTlb cl n)
  | .evictDieTlb die n => .next (s.dropDieTlb die n)
  | .fetchEarly core strand va => .next (if s.readerOn ⟨core, strand⟩ then s.fetchAhead ⟨core, strand⟩ va else s)
  | .otherFetch core strand flat => .next (s.turnFetched ⟨core, strand⟩ flat)
  | .xferPiece core slot => .next (s.xferPiece core slot)
  | .readEarly core strand va => .next (if s.readerOn ⟨core, strand⟩ then s.readEarly ⟨core, strand⟩ va else s)
  | .forgetEarly core strand line => .next (s.keepEarly ⟨core, strand⟩ (fun e => e.1 != line))
  | .lateStore core strand => .next (if s.readerOn ⟨core, strand⟩ then s.setLate ⟨core, strand⟩ true else s)
  | .fecFixed port n => .next (s.fecFixed port n)
  | .coreError core e => .next (s.coreError core e)
  | .memError flat => .next (s.memError flat)
  | .lineError cl ln => .next (s.lineError cl ln)
  | .external flat bytes => .next (s.external flat bytes)
  | .incoming p => .next (s.incoming p)
  | .corrected cl => .next (s.countError cl true)
  | .grantHost ws => .next { s with hostWindows := ws }
  | .setTime t => .next (s.stepTime t)
  | .reset => .next s.resetNow

/-! ## With no turn to come -/

/-- What is due for one strand of a core: the data of its oldest load, the end of a timed wait or of an mwait. -/
def State.dueStrand (s : State) (core n : Nat) : Option Instr :=
  let w : Who := ⟨core, n⟩
  let st := s.strand w
  let load : Option Instr := match st.loads.head? with
    | some l =>
      if (s.loadError w l).isSome then (if st.between then some (.deferredEcc core n 0) else none)
      else if l.pkt.isNone && (l.val.isSome || !s.missCut w l.va l.place) then some (.loadDataReturn core n 0) else none
    | none => none
  load.or (match s.waitOf w [.timed, .vtimed, .mwait] with
    | some v =>
      if v.kind = .mwait then (if s.mxaBusy w v.obj.toNat then none else some (.mwaitEnd core n))
      else if v.deadline.toNat ≤ (if v.kind = .timed then s.time else (s.live core).vtime).toNat then some (.timedWaitDeadline core n)
      else none
    | none => none)

/-- What is due in the matrix array of a core: its operations finish and start in issue order. -/
def State.dueArray (s : State) (core : Nat) : Option Instr :=
  let q := (s.live core).queue
  match (List.range q.length).find? (mxaMayFinish q) with
  | some n => some (.mxaOpFinish core n)
  | none => ((List.range q.length).find? (mxaMayStart q)).map (fun n => .mxaOpStart core n)

def State.due (s : State) (core : Nat) : Option Instr :=
  match (List.range 4).findSome? (s.dueStrand core) with
  | some i => some i
  | none => s.dueArray core

/-- With no turn to come the core of the current strand goes on; where it has nothing to do, what is to happen at this instant does,
and then a nanosecond passes. -/
def State.idle (s : State) : Host.Outcome State Fault Refusal :=
  match s.candidates s.cur.core with
  | n :: _ => s.runStrand ⟨s.cur.core, n⟩
  | [] =>
    match s.due s.cur.core with
    | some i => exec i s
    | none =>
      match s.overdue with
      | some i => exec i { s with freeCtr := s.freeCtr + 1 }
      | none =>
        match s.overduePod with
        | some d => { s with freeCtr := s.freeCtr + 1 : State }.podStep d
        | none => execTimeNsAdvance s

/-- One step. -/
def State.oneStep (s : State) : Host.Outcome State Fault Refusal :=
  match s.agenda with
  | [] => s.idle
  | t :: rest => State.turn { s with agenda := rest } t

/-! ## A program placed from outside (assumption 10) -/

/-- A page of HBM that every privilege may fetch from, as a translation of a context. -/
def codePage (ctx : Nat) (va : Nat) : TlbEnt :=
  let base := va / 4096 * 4096
  { ctx := ctx, base := base, z := 0, entry := BitVec.ofNat 64 (2 ^ 60 + base % Config.hbmBytes + 0x1F), level := 0, slot := 0 }

/-- Every mesh link from a core to the home of an HBM byte is UP on a path, as a boot leaves them (R423, R334). -/
def State.linkHome (s : State) (path core phys : Nat) : State :=
  { s with links := (meshRoute path core (stackEntry (stackOf phys))).foldl (fun ls k =>
      if s.linkUp k then ls else AMap.put ls k { s.link k with state := .up }) s.links }

/-- Bytes placed where a strand fetches its next instruction: the pages of its PC are mapped to HBM, the bytes stand there, the links
to them carry the fetch, and the strand runs and is the one that issues next. -/
def State.placeCode (s : State) (bytes : List Byte) : State :=
  let core := s.cur.core
  let n := match s.candidates core with
    | k :: _ => k
    | [] => ((s.core core).lastK + 1) % 4
  let c := s.core core
  let ctx := c.ctx.getD 0
  let st := c.live.strand n
  let pc := canonVa st.pc
  let phys := pc.toNat % Config.hbmBytes
  let st1 : Strand := { st with run := .running, wait := none, pc := pc, icache := [] }
  let c1 : Core := { c with
    ctx := some ctx, st := .active, live := c.live.setStrand n st1
    tlb := codePage ctx pc.toNat :: codePage ctx (pc + 15).toNat :: c.tlb }
  let cl := clusterOf core
  let s0 := if s.drooping core then s.setPower cl { s.powerOf cl with droop := none } else s
  let s1 := (((s0.linkHome st.adaptive core phys).linkHome st.adaptive core (phys + 15)).dropFrame (phys / 64 * 64) 128).setCore core c1
  { s1 with mem := memWriteBytes s1.mem phys bytes, cur := ⟨core, n⟩, agenda := [] }

end Sys2Proof.Machine
end

