-- ==== Sys2Proof/Machine/Step.lean ====
section
/-!
DEFINITION. The step of the machine, and an instruction placed where the next step fetches.
-/
namespace Sys2Proof.Machine

/-- One step of the module: a turn of its agenda, or what the core of the current strand does next. -/
def step (s : State) : Host.Outcome State Fault Refusal := s.oneStep

/-- The state with an instruction's bits stored where the next step fetches; every bit above nbits is 0. -/
def State.withFetchWord (s : State) (nbits w : Nat) : State := s.placeCode (tableBytes nbits w)

end Sys2Proof.Machine
end

