-- ==== Sys2Proof/Safety.lean ====
section
/-!
DEFINITION. The terms in which claims are stated: the form of memory that every step keeps, when an instruction can run, how it
ends, and what it leaves as it was.
-/
namespace Sys2Proof

/-- The form that every step keeps: memory is a rising list without entries that an unlisted address reads as. -/
def Inv (s : Machine.State) : Prop := Machine.Memory.wf s.mem

/-- A step that answers a next state. -/
def goesOn (s : Machine.State) : Prop := ∃ t, Machine.step s = .next t

namespace Machine

/-! ## When an instruction can run -/

/-- What the state must be for one operand: a register held and not waiting for a load (R32, R111); a tile held and not locked
(R32, R93); a scope that decodes (R41); system privilege (R131); a unit present (R107); no acquire still to read (R149); room in
the queue of the matrix array (R196) and among the xfer records (R324). -/
def able (s : State) (w : Who) : Opnd → Bool
  | .src r | .dst r => (s.strand w).holds r && !(s.strand w).pendingReg r
  | .tsrc t | .tpart t _ => match (s.strand w).poolTile t with
    | some p => !(s.live w.core).wl p
    | none => false
  | .tdst t => match (s.strand w).poolTile t with
    | some p => !(s.live w.core).wl p && !(s.live w.core).rl p
    | none => false
  | .tname t => ((s.strand w).poolTile t).isSome
  | .slot n => decide (n.toNat < (s.strand w).hold.mxs.length)
  | .scope e => e == 0 || ((s.strand w).holds e && !(s.strand w).pendingReg e && (s.scope w e).isSome)
  | .sys => (s.strand w).priv != .user
  | .feat n => s.feature2.getLsbD n
  | .mem => (s.strand w).loads.all (fun l => l.acq.isNone)
  | .mxq => decide ((s.live w.core).queue.length < 8)
  | .xfq => (List.range 4).any (fun i => (AMap.get none (s.live w.core).xfers i).isNone)
  | .twhole _ | .preds | .status _ => true

/-- The guard of the form reads true, no storage of the core has a parity error, and every operand is able. -/
abbrev Able (s : State) (f : Form) (ops : List Opnd) : Prop :=
  (s.strand s.cur).guard f = true ∧ (s.live s.cur.core).perr = [] ∧ ∀ o ∈ ops, able s s.cur o = true

/-! ## How an instruction ends -/

/-- It retires having left the state t, with its energy (R6, R109). Storage that it writes whole loses a parity error (R407). -/
def retires (s : State) (f : Form) (ops : List Opnd) (eu : Nat) (t : State) : Host.Outcome State Fault Refusal :=
  .next ((t.clearErrs s.cur ops).retire s.cur (lenBytes f.len) eu)

/-- It retires having written the PC. -/
def jumps (s : State) (ops : List Opnd) (eu : Nat) (pc : Word) (t : State) : Host.Outcome State Fault Refusal :=
  .next ((t.clearErrs s.cur ops).jumpTo s.cur pc eu)

/-- It has issued and waits: with what kind of wait, and whether the wait ends by issuing again. -/
def waits (s : State) (v : Wait) : Host.Outcome State Fault Refusal := .next (s.waiting s.cur v)

/-- It traps: the record holds its address and the address after it (R405). -/
def traps (s : State) (f : Form) (t : Trap) : Host.Outcome State Fault Refusal :=
  s.trapNow s.cur t (s.strand s.cur).pc ((s.strand s.cur).pc + BitVec.ofNat 64 (lenBytes f.len))

/-- A step of the machine happens and leaves the state t. -/
def becomes (t : State) : Host.Outcome State Fault Refusal := .next t

/-! ## What is left as it was -/

/-- A strand with what retiring moves set aside: the PC, the wait, the counts of its loops. -/
def Strand.still (st : Strand) : Strand :=
  { st with
    pc := 0
    wait := none
    loop0 := { st.loop0 with count := 0 }
    loop1 := { st.loop1 with count := 0 }
    loop2 := { st.loop2 with count := 0 }
    loop3 := { st.loop3 with count := 0 } }

/-- A context's state on a core with its strands, registers, tiles and energy account set aside. -/
def CoreCtx.others (l : CoreCtx) : CoreCtx :=
  { l with strands := [], regs := [], tiles := [], tags := [], energy := 0, enstat := 0, perr := [] }

/-- A state with what strands have read early set aside (R209). -/
def State.noEarly (s : State) : State :=
  { s with cores := AMap.mapVals s.cores (fun _ c => { c with live := { c.live with
      strands := AMap.mapVals c.live.strands (fun _ st => { st with early := [] }) } }) }

/-- Between s and t the cores differ at most in: registers ds of the executing strand, the tiles tds of it, what `blank` sets
aside of it, its PC, wait and loop counts, the energy account of its context there, the translations held there, and the strand
that issued last. -/
structure CoreFrame (s t : State) (blank : Strand → Strand) (ds : List Reg) (tds : List Tile) : Prop where
  cores   : ∀ c, c ≠ s.cur.core → t.core c = s.core c
  core    : { t.core s.cur.core with live := CoreCtx.fresh, lastK := 0, tlb := [] } =
    { s.core s.cur.core with live := CoreCtx.fresh, lastK := 0, tlb := [] }
  live    : (t.live s.cur.core).others = (s.live s.cur.core).others
  strands : ∀ n, n ≠ s.cur.strand → (t.live s.cur.core).strand n = (s.live s.cur.core).strand n
  strand  : blank (t.strand s.cur).still = blank (s.strand s.cur).still
  regs    : ∀ p, (∀ d ∈ ds, d = 0 ∨ (s.strand s.cur).regPlace s.cur.strand d ≠ some p) →
    AMap.get 0 (t.live s.cur.core).regs p = AMap.get 0 (s.live s.cur.core).regs p
  tiles   : ∀ p, (∀ d ∈ tds, (s.strand s.cur).poolTile d ≠ some (p / 16)) →
    AMap.get 0 (t.live s.cur.core).tiles p = AMap.get 0 (s.live s.cur.core).tiles p
  tags    : ∀ p, (∀ d ∈ tds, (s.strand s.cur).poolTile d ≠ some p) →
    (t.live s.cur.core).tag p = (s.live s.cur.core).tag p

/-- Between s and t nothing outside the cores differs: no byte of memory, no line of a cache, no control register, nothing else;
and no core holds another translation. -/
structure NothingElse (s t : State) : Prop where
  rest  : { t with cores := s.cores } = s
  bytes : ∀ a, memByte t.mem a = memByte s.mem a
  tlbs  : ∀ c, (t.core c).tlb = (s.core c).tlb

/-- Between s and t nothing outside the cores differs but memory and what protects it, the release points behind its bytes, the
lines of caches and what is owned for atomics, shared translations, the storage errors, and the counter of free values: what a load
or a store of the executing strand may touch. -/
def MemoryOnly (s t : State) : Prop :=
  { t with cores := s.cores, clusterTlb := s.clusterTlb, dieTlb := s.dieTlb, mem := s.mem, heads := s.heads, caches := s.caches,
           badUnits := s.badUnits, poisoned := s.poisoned, owners := s.owners, predict := s.predict,
           freeCtr := s.freeCtr } = s

/-- The fields of a barrier word: GEN, STATE, LAST, the reserved bits, ARRIVED, COUNT (R298). -/
def barFields (v : Word) : Nat × Nat × Nat × Nat × Nat × Nat :=
  (barGen v, barState v, barLast v, v.toNat / 2 ^ 32 % 2 ^ 12, barArrived v, barCount v)

/-- The fields after an arrival: the last one starts the next generation (R301). -/
def barOne (v : Word) : Nat × Nat × Nat × Nat × Nat × Nat :=
  if barArrived v + 1 = barCount v then ((barGen v + 1) % 2 ^ 16, barState v, 0, v.toNat / 2 ^ 32 % 2 ^ 12, 0, barCount v)
  else (barGen v, barState v, barLast v, v.toNat / 2 ^ 32 % 2 ^ 12, barArrived v + 1, barCount v)

/-- Instructions that read registers and write register d alone: their form, their operands, and d. -/
def registerOnly : Instr → Option (Form × List Opnd × Reg)
  | .iAdd f _ d a b | .iSub f _ d a b | .iMul f _ d a b | .iMulh f _ d a b | .iDiv f _ d a b | .iRem f _ d a b
  | .iAnd f _ d a b | .iOr f _ d a b | .iXor f _ d a b | .iAndn f _ d a b | .iShl f _ d a b | .iShr f _ d a b
  | .iSra f _ d a b | .iRol f _ d a b | .iMin f _ d a b | .iMax f _ d a b | .bext f _ d a b =>
    some (f, .dst d :: .src a :: srcOps b, d)
  | .bins f _ d a b => some (f, .src d :: .dst d :: .src a :: srcOps b, d)
  | .addImm f _ d a _ | .andImm f _ d a _ | .orImm f _ d a _ | .xorImm f _ d a _ | .shlImm f _ d a _ | .shrImm f _ d a _
  | .sraImm f _ d a _ | .rolImm f _ d a _ | .mov f _ d a | .clz f _ d a | .ctz f _ d a | .popc f _ d a | .cvt f _ _ d a
  | .lea f d a _ => some (f, [.dst d, .src a], d)
  | .movi f d _ => some (f, [.dst d], d)
  | .rdtime f d => some (f, [.dst d, .status 0x13], d)
  | .sel f _ _ d a b => some (f, [.dst d, .src a, .src b, .preds], d)
  | .mfs f n d => some (f, [.dst d, .status n.toNat], d)
  | _ => none

/-- Scalar floating-point instructions with a result register: their form, their operands, and d. -/
def floatOnly : Instr → Option (Form × List Opnd × Reg)
  | .fadd f _ d a b | .fsub f _ d a b | .fmul f _ d a b | .fdiv f _ d a b | .fmin f _ d a b | .fmax f _ d a b =>
    some (f, .dst d :: .status 0 :: .src a :: srcOps b, d)
  | .fsqrt f _ d a _ | .frnd f _ d a _ => some (f, [.dst d, .status 0, .src a], d)
  | .fclass f _ d a _ => some (f, [.dst d, .src a], d)
  | .fcvt f ty sty d a => some (f, .dst d :: .src a :: fctlOps (!ty.isInt || !sty.isInt), d)
  | .fma f _ d a b e => some (f, [.dst d, .status 0, .src a, .src b, .src e], d)
  | _ => none

end Machine

end Sys2Proof
end

