-- ==== Sys2Proof/Certificates/Slice0/Obligations.lean ====
section
/-!
DEFINITION. The statements for the provers, each from rules of spec/: what instructions and steps do, what they leave as it was, when they
complete, and what every step keeps. A docstring says what its statement says.
-/
open Sys2Proof Sys2Proof.Machine

/-- Results of the integer operations with a register, a literal or an immediate. For every form, type, registers and second source: when the operands are able, each of the sixteen operations of op6 0x00 retires with 2 eu and writes d with Extend of the result that R114 gives, and nothing else of its own. The bitwise and shift results are stated on the w-bit patterns of the sources. The eight operations of op6 0x01 to 0x08 retire with 2 eu and write d with Extend of the result R114 gives, the second source being the sign-extended immediate. -/
def Obligations.IntegerResults : Prop :=
  (∀ (f : Form) (ty : Ty) (d a : Reg) (b : Src) (s : State), Able s f (.dst d :: .src a :: srcOps b) →
     let n := intWidth ty
     let A := opVal (s.reg s.cur a) ty
     let B := opVal (s.src s.cur b) ty
     let U := uVal (s.reg s.cur a) ty
     let V := uVal (s.src s.cur b) ty
     let c := (s.src s.cur b).toNat % 64
     let put := fun r : Int => retires s f (.dst d :: .src a :: srcOps b) 2 (s.setReg s.cur d (extend r ty))
     exec (.iAdd f ty d a b) s = put (A + B) ∧
     exec (.iSub f ty d a b) s = put (A - B) ∧
     exec (.iMul f ty d a b) s = put (A * B) ∧
     exec (.iMulh f ty d a b) s = put (A * B / ((2 ^ n : Nat) : Int)) ∧
     exec (.iDiv f ty d a b) s = put (if B = 0 then -1 else A.tdiv B) ∧
     exec (.iRem f ty d a b) s = put (if B = 0 then A else A - B * A.tdiv B) ∧
     exec (.iAnd f ty d a b) s = put ((U &&& V : Nat) : Int) ∧
     exec (.iOr f ty d a b) s = put ((U ||| V : Nat) : Int) ∧
     exec (.iXor f ty d a b) s = put ((U ^^^ V : Nat) : Int) ∧
     exec (.iAndn f ty d a b) s = put ((U &&& (2 ^ n - 1 - V) : Nat) : Int) ∧
     exec (.iShl f ty d a b) s = put ((U * 2 ^ c : Nat) : Int) ∧
     exec (.iShr f ty d a b) s = put (if n ≤ c then 0 else ((U / 2 ^ c : Nat) : Int)) ∧
     exec (.iSra f ty d a b) s = put (sval n U / ((2 ^ min c (n - 1) : Nat) : Int)) ∧
     exec (.iRol f ty d a b) s = put ((U * 2 ^ (c % n) + U / 2 ^ (n - c % n) : Nat) : Int) ∧
     exec (.iMin f ty d a b) s = put (min A B) ∧
     exec (.iMax f ty d a b) s = put (max A B)) ∧
  (∀ (f : Form) (ty : Ty) (d a : Reg) (imm : Imm) (s : State), Able s f [.dst d, .src a] →
     let n := intWidth ty
     let A := opVal (s.reg s.cur a) ty
     let B := opVal imm ty
     let U := uVal (s.reg s.cur a) ty
     let V := uVal imm ty
     let c := imm.toNat % 64
     let put := fun r : Int => retires s f [.dst d, .src a] 2 (s.setReg s.cur d (extend r ty))
     exec (.addImm f ty d a imm) s = put (A + B) ∧
     exec (.andImm f ty d a imm) s = put ((U &&& V : Nat) : Int) ∧
     exec (.orImm f ty d a imm) s = put ((U ||| V : Nat) : Int) ∧
     exec (.xorImm f ty d a imm) s = put ((U ^^^ V : Nat) : Int) ∧
     exec (.shlImm f ty d a imm) s = put ((U * 2 ^ c : Nat) : Int) ∧
     exec (.shrImm f ty d a imm) s = put (if n ≤ c then 0 else ((U / 2 ^ c : Nat) : Int)) ∧
     exec (.sraImm f ty d a imm) s = put (sval n U / ((2 ^ min c (n - 1) : Nat) : Int)) ∧
     exec (.rolImm f ty d a imm) s = put ((U * 2 ^ (c % n) + U / 2 ^ (n - c % n) : Nat) : Int))

/-- Extend of an exact sum, difference, product or shift is the arithmetic of w-bit words. For every integer type of width w: Extend of the exact sum, difference or product of the operand values is the w-bit sum, difference or product of their low halves, sign-extended for an i type and zero-extended for an n type; Extend of the left-shifted pattern is the w-bit shift; and dividing the least value by -1 gives the least value with remainder 0 at an i type. -/
def Obligations.ExtendedResultsAreWordArithmetic : Prop :=
  ∀ (x y : Word) (ty : Ty), ty.isInt = true →
    let n := intWidth ty
    let ext := fun v : BitVec n => if isSigned ty then v.signExtend 64 else v.setWidth 64
    extend (opVal x ty + opVal y ty) ty = ext (x.setWidth n + y.setWidth n) ∧
    extend (opVal x ty - opVal y ty) ty = ext (x.setWidth n - y.setWidth n) ∧
    extend (opVal x ty * opVal y ty) ty = ext (x.setWidth n * y.setWidth n) ∧
    (∀ k : Nat, extend ((uVal x ty * 2 ^ k : Nat) : Int) ty = ext (x.setWidth n <<< k)) ∧
    (isSigned ty = true →
      extend ((-((2 ^ (n - 1) : Nat) : Int)).tdiv (-1)) ty = ext (BitVec.ofNat n (2 ^ (n - 1))) ∧
      extend (-((2 ^ (n - 1) : Nat) : Int) - (-1) * (-((2 ^ (n - 1) : Nat) : Int)).tdiv (-1)) ty = 0)

/-- Results of mov, clz, ctz, popc, bext, bins, cvt, movi, lea, sel and rdtime. Each of these instructions retires and writes d with the value its rule gives: mov extends the low half; clz, ctz and popc count in the low w bits, w where they are all zero; bext and bins take or replace bits pos to pos+L-1 with L = Min(len, 64 - pos); cvt clamps to the destination range; movi writes the immediate; lea writes base plus immediate in the sign-extended 57-bit form, a field of 0 naming the PC; sel takes a or b by the predicate and its sense; rdtime writes TIME. -/
def Obligations.MovesAndFields : Prop :=
  ∀ (f : Form) (ty sty : Ty) (d a b : Reg) (src : Src) (imm : Imm) (p : Pred) (sense : Bool) (s : State),
    let x := s.reg s.cur a
    let n := intWidth ty
    let u := uVal x ty
    let put := fun (ops : List Opnd) (v : Word) => retires s f ops 2 (s.setReg s.cur d v)
    (Able s f [.dst d, .src a] →
      exec (.mov f ty d a) s = put [.dst d, .src a] (extend (opVal x ty) ty) ∧
      exec (.clz f ty d a) s = put [.dst d, .src a] (BitVec.ofNat 64 (if u = 0 then n else n - 1 - u.log2)) ∧
      (∃ c, exec (.ctz f ty d a) s = put [.dst d, .src a] (BitVec.ofNat 64 c) ∧ (u = 0 → c = n) ∧
        (u ≠ 0 → 2 ^ c ∣ u ∧ ¬ 2 ^ (c + 1) ∣ u)) ∧
      exec (.popc f ty d a) s = put [.dst d, .src a] (BitVec.ofNat 64 ((List.range n).filter u.testBit).length) ∧
      (∃ v : Int, exec (.cvt f ty sty d a) s = put [.dst d, .src a] (extend v ty) ∧
        v = (if opVal x sty < intLo ty then intLo ty else if intHi ty < opVal x sty then intHi ty else opVal x sty)) ∧
      exec (.lea f d a imm) s = put [.dst d, .src a]
        ((((if a = 0 then (s.strand s.cur).pc else x) + imm).setWidth 57).signExtend 64)) ∧
    (Able s f (.dst d :: .src a :: srcOps src) →
      let c := s.src s.cur src
      let pos := c.toNat % 64
      let len := min (c.toNat / 256 % 128) (64 - pos)
      exec (.bext f ty d a src) s = put (.dst d :: .src a :: srcOps src)
        (if len = 0 then 0 else if ty = .i64 then ((x >>> pos) <<< (64 - len)).sshiftRight (64 - len)
          else ((x >>> pos) <<< (64 - len)) >>> (64 - len)) ∧
      (Able s f [.src d] → ∃ v : Word, exec (.bins f ty d a src) s =
          retires s f (.src d :: .dst d :: .src a :: srcOps src) 2 (s.setReg s.cur d v) ∧
        ∀ j, j < 64 → v.getLsbD j = (if pos ≤ j ∧ j < pos + len then x.getLsbD (j - pos) else (s.reg s.cur d).getLsbD j))) ∧
    (Able s f [.dst d] →
      exec (.movi f d imm) s = put [.dst d] imm ∧
      exec (.rdtime f d) s = retires s f [.dst d, .status 0x13] 1 (s.setReg s.cur d s.time)) ∧
    (Able s f [.dst d, .src a, .src b, .preds] →
      exec (.sel f p sense d a b) s = put [.dst d, .src a, .src b, .preds]
        (if ((s.strand s.cur).pred p ^^ sense) = true then x else s.reg s.cur b))

/-- cmp writes its predicate by the condition, signed for i types and unsigned for n types. cmp retires with 2 eu having written p with the comparison of the operand values, signed for i types and unsigned for n types. After it, p reads the result, p0 still reads true, and every other predicate of the strand reads as before. The energy account is charged the 2 eu; nothing else changes but the PC and the loop counts. No encoding has a condition of 6 or 7: one that would traps ILLOP, as does a source register not held. -/
def Obligations.CompareSetsOnePredicate : Prop :=
  ∀ (f : Form) (ty : Ty) (cond : BitVec 3) (p : Pred) (a : Reg) (b : Src) (s : State),
    (Able s f (.src a :: srcOps b) → cond.toNat < 6 →
      let A := opVal (s.reg s.cur a) ty
      let B := opVal (s.src s.cur b) ty
      let r : Bool := if cond = 0 then decide (A = B) else if cond = 1 then decide (A ≠ B) else if cond = 2 then decide (A < B)
        else if cond = 3 then decide (A ≤ B) else if cond = 4 then decide (A > B) else decide (A ≥ B)
      ∃ t, exec (.cmp f ty cond p a b) s = .next t ∧
        (t.strand s.cur).pred p = (if p = 0 then true else r) ∧
        (∀ q, q ≠ p → (t.strand s.cur).pred q = (s.strand s.cur).pred q) ∧
        (t.live s.cur.core).energy = ((s.live s.cur.core).charge 2).energy ∧ (t.live s.cur.core).enstat = ((s.live s.cur.core).charge 2).enstat ∧
        CoreFrame s t (fun st => { st with preds := 0 }) [] [] ∧ NothingElse s t) ∧
    (∀ (w0 w1 : BitVec 32) (lit rest : List Byte), w0.extractLsb' 2 6 = 0x0A → 6 ≤ (w0.extractLsb' 26 3).toNat →
      decode (bytesOfWord w0 ++ bytesOfWord w1 ++ lit ++ rest) = none) ∧
    ((s.strand s.cur).guard f = true → (s.live s.cur.core).perr = [] → (∀ r, .src r ∈ (.src a :: srcOps b) → (s.strand s.cur).pendingReg r = false) →
      (∃ r, .src r ∈ (.src a :: srcOps b) ∧ (s.strand s.cur).holds r = false) → exec (.cmp f ty cond p a b) s = traps s f { code := .illop })

/-- A register written reads back, s0 reads zero, and register-only instructions change nothing else. movi of any form retires; register d then reads the immediate, and zero where d is s0; every register of the strand that does not lie at the place of d reads as before, and so does every register place of the core's other blocks. Every instruction of the list completes on able operands, and leaves every register but d, every predicate, status register, tile, tag, lock bit and queue of the core, every other strand and core, and every byte of memory as it was. The PC moves past the instruction when no loop level is active. -/
def Obligations.RegisterWriteReadsBack : Prop :=
  (∀ (f : Form) (d : Reg) (imm : Imm) (s : State), Able s f [.dst d] →
     ∃ t, exec (.movi f d imm) s = .next t ∧
       t.reg s.cur d = (if d = 0 then 0 else imm) ∧
       (∀ r, d = 0 ∨ (s.strand s.cur).regPlace s.cur.strand r ≠ (s.strand s.cur).regPlace s.cur.strand d →
         t.reg s.cur r = s.reg s.cur r) ∧
       CoreFrame s t id [d] [] ∧ NothingElse s t) ∧
  (∀ (i : Instr) (f : Form) (ops : List Opnd) (d : Reg), registerOnly i = some (f, ops, d) →
     ∀ s : State, Able s f ops →
       ∃ t, exec i s = .next t ∧ CoreFrame s t id [d] [] ∧ NothingElse s t ∧
         ((s.strand s.cur).loop0.count = 0 → (s.strand s.cur).loop1.count = 0 → (s.strand s.cur).loop2.count = 0 →
           (s.strand s.cur).loop3.count = 0 → (t.strand s.cur).pc = (s.strand s.cur).pc + BitVec.ofNat 64 (lenBytes f.len)))

/-- Results, flags and FPE trap of the scalar floating-point instructions, and what they leave as it was. With c the FCTL of the strand: fadd, fsub, fmul, fdiv, fsqrt, fma round the exact result of the flushed operands; fmin, fmax, frnd, fclass and fcvt give the value and flags of their rules. When no raised flag is enabled in c the flags are ORed into FFLAG and d takes the encoding, zero-extended; otherwise FPE is trapped with the flags in INFO and d keeps its value. fcmp does the same with a predicate. The literal of a 96-bit fsqrt, fclass or frnd is ignored: the model's choice, log entry 20. With no trap enabled in FCTL, every scalar floating-point instruction with a result register completes on able operands; besides d it may set flags in FFLAG, flags already set stay set, and every other register, predicate, status register, tile and queue of the core, every other strand and core and every byte of memory stay as they were. For every format: when either operand of a sum, difference, product or quotient is a NaN, the result is the canonical NaN of the format, and the flags are NV if one of them is a signalling NaN and none otherwise. So it is with the three operands of fma, but that a product of 0 and infinity sets NV and gives the canonical NaN whatever the third operand is. -/
def Obligations.FloatResults : Prop :=
  (∀ (f : Form) (ty sty : Ty) (d a b e : Reg) (src : Src) (lit : BitVec 32) (cond : BitVec 3) (p : Pred) (s : State),
     let c := (s.strand s.cur).fctl
     let fm := fmtOf ty
     let m := c.toNat % 4
     let X := readF fm c (s.reg s.cur a).toNat
     let Y := readF fm c (s.src s.cur src).toNat
     let x := fIn fm (fctlFz c) (s.reg s.cur a).toNat
     let y := fIn fm (fctlFz c) (s.src s.cur src).toNat
     let res := fun (ops : List Opnd) (r : Nat × FFlags) =>
       if r.2 &&& (c >>> 4).setWidth 5 = 0 then retires s f ops 3 ((s.raise s.cur r.2).setReg s.cur d (BitVec.ofNat 64 r.1))
       else traps s f { code := .fpe, info := r.2.toNat }
     (Able s f (.dst d :: .status 0 :: .src a :: srcOps src) →
       let ops := .dst d :: .status 0 :: .src a :: srcOps src
       exec (.fadd f ty d a src) s = res ops (rounded fm c (numAdd m X Y)) ∧
       exec (.fsub f ty d a src) s = res ops (rounded fm c (numSub m X Y)) ∧
       exec (.fmul f ty d a src) s = res ops (rounded fm c (numMul X Y)) ∧
       exec (.fdiv f ty d a src) s = res ops (rounded fm c (numDiv X Y)) ∧
       exec (.fmin f ty d a src) s = res ops (fMinMax fm false x y) ∧
       exec (.fmax f ty d a src) s = res ops (fMinMax fm true x y)) ∧
     (Able s f [.dst d, .src a] →
       exec (.fsqrt f ty d a lit) s = res [.dst d, .status 0, .src a] (rounded fm c (numSqrt X)) ∧
       exec (.fclass f ty d a lit) s = res [.dst d, .src a] (fClass fm (s.reg s.cur a).toNat, 0) ∧
       exec (.frnd f ty d a lit) s = res [.dst d, .status 0, .src a] (fRound fm m x) ∧
       exec (.fcvt f ty sty d a) s = res (.dst d :: .src a :: fctlOps (!ty.isInt || !sty.isInt))
         (convTo sty ty c (convVal sty c (s.reg s.cur a).toNat))) ∧
     (Able s f [.dst d, .status 0, .src a, .src b, .src e] →
       exec (.fma f ty d a b e) s = res [.dst d, .status 0, .src a, .src b, .src e]
         (rounded fm c (numFma m X (readF fm c (s.reg s.cur b).toNat) (readF fm c (s.reg s.cur e).toNat)))) ∧
     (Able s f (.status 0 :: .src a :: srcOps src) →
       let r := fCompare fm cond.toNat x y
       exec (.fcmp f ty cond p a src) s =
         if r.2 &&& (c >>> 4).setWidth 5 = 0 then
           retires s f (.status 0 :: .src a :: srcOps src) 3 ((s.raise s.cur r.2).setPred s.cur p r.1)
         else traps s f { code := .fpe, info := r.2.toNat })) ∧
  (∀ (i : Instr) (f : Form) (ops : List Opnd) (d : Reg), floatOnly i = some (f, ops, d) →
     ∀ s : State, Able s f ops → ((s.strand s.cur).fctl >>> 4).setWidth 5 = (0 : BitVec 5) →
       ∃ t, exec i s = .next t ∧ CoreFrame s t (fun st => { st with fflag := 0 }) [d] [] ∧ NothingElse s t ∧
         (t.strand s.cur).fflag &&& (s.strand s.cur).fflag = (s.strand s.cur).fflag) ∧
  (∀ (fm : Fmt) (c : Word) (m : Nat) (x y z : Machine.Num),
     let flag := fun b : Bool => if b then (16 : FFlags) else 0
     let sig := fun v : Machine.Num => decide (v.sigFlag = 16)
     (x.isNan = true ∨ y.isNan = true →
       rounded fm c (numAdd m x y) = (fm.nan, flag (sig x || sig y)) ∧
       rounded fm c (numSub m x y) = (fm.nan, flag (sig x || sig y)) ∧
       rounded fm c (numMul x y) = (fm.nan, flag (sig x || sig y)) ∧
       rounded fm c (numDiv x y) = (fm.nan, flag (sig x || sig y))) ∧
     (∀ a b : Bool, (x = .zero a ∧ y = .inf b) ∨ (x = .inf a ∧ y = .zero b) → rounded fm c (numFma m x y z) = (fm.nan, flag true)) ∧
     (x.isNan = true ∨ y.isNan = true ∨ z.isNan = true →
       (∀ a b : Bool, ¬ (x = .zero a ∧ y = .inf b) ∧ ¬ (x = .inf a ∧ y = .zero b)) →
       rounded fm c (numFma m x y z) = (fm.nan, flag (sig x || sig y || sig z))))

/-- Where br, jmp, call and ret go, and what they write. br goes to its address plus 4 x off18 when its predicate XOR ps is true, and 4 bytes on otherwise; jmp and call go to their address plus 4 x off24, a register form to the register's value (ret with a = 0 to s15); call writes s15 with the address after it, the target being read first. A register target whose bits [1:0] are not zero traps ALIGN at the jump, and neither PC nor link register changes. Nothing else changes, but that of the words fetched before those that a fence.full has doomed are dropped. -/
def Obligations.JumpsAndBranches : Prop :=
  ∀ (f : Form) (p : Pred) (ps : Bool) (off18 : BitVec 18) (off24 : BitVec 24) (a : Reg) (s : State),
    let w := s.cur
    let pc := (s.strand w).pc
    let next := pc + BitVec.ofNat 64 (lenBytes f.len)
    let blank := fun st : Strand => { st with icache := [] }
    let goes := fun (o : Host.Outcome State Fault Refusal) (pc' : Word) (ds : List Reg) (link : Bool) =>
      ∃ t, o = .next t ∧ (t.strand w).pc = pc' ∧ CoreFrame s t blank ds [] ∧ NothingElse s t ∧ (link = true → t.reg w 15 = next)
    (Able s ⟨0, 0, false⟩ [] →
      ((s.strand w).pred p ^^ ps) = true → goes (exec (.br p ps off18) s) (pc + off18.signExtend 64 * 4) [] false) ∧
    (Able s ⟨0, 0, false⟩ [] → ((s.strand w).pred p ^^ ps) = false →
      exec (.br p ps off18) s = .next (s.retire w 4 1)) ∧
    (Able s f [] → goes (exec (.jmp f off24) s) (pc + off24.signExtend 64 * 4) [] false) ∧
    (Able s f [.dst 15] → goes (exec (.call f off24) s) (pc + off24.signExtend 64 * 4) [15] true) ∧
    (Able s f [.src a] →
      ((s.reg w a).toNat % 4 = 0 → goes (exec (.jmpReg f a) s) (s.reg w a) [] false) ∧
      ((s.reg w a).toNat % 4 ≠ 0 → exec (.jmpReg f a) s = traps s f { code := .align })) ∧
    (Able s f [.src a, .dst 15] →
      ((s.reg w a).toNat % 4 = 0 → goes (exec (.callReg f a) s) (s.reg w a) [15] true) ∧
      ((s.reg w a).toNat % 4 ≠ 0 → exec (.callReg f a) s = traps s f { code := .align })) ∧
    (Able s f [.src (if a = 0 then 15 else a)] →
      let v := s.reg w (if a = 0 then 15 else a)
      (v.toNat % 4 = 0 → goes (exec (.ret f a) s) v [] false) ∧
      (v.toNat % 4 ≠ 0 → exec (.ret f a) s = traps s f { code := .align }))

/-- loop sets up a level, and LoopStep follows each retiring instruction, from level 3 to 0. nop at address A retires. If some level is active with END = A and COUNT above 1, the highest such level n jumps back: the PC is START of n, COUNT of n falls by 1, every higher level with END = A ends with COUNT 0, and no lower level changes. If there is none, every active level with END = A ends with COUNT 0 and the PC moves past the instruction. loop and its immediate form write START with their address plus 8, END with their address plus 4 x imm16 and COUNT with the count. A count that is not 0 lets the instruction retire with its LoopStep, which leaves the PC at START where no level ends at the instruction itself; a count of 0 moves it past the word at END, whose length is read by fetching it, and a fetch that traps traps at the loop instruction. -/
def Obligations.LoopStepAfterRetirement : Prop :=
  (∀ (f : Form) (s : State), Able s f [] →
     let w := s.cur
     let st := s.strand w
     let hit := fun m : Nat => (st.loopRegs m).count ≠ 0 ∧ (st.loopRegs m).stop = st.pc
     let back := fun m : Nat => hit m ∧ 1 < (st.loopRegs m).count.toNat
     ∃ t, exec (.nop f) s = .next t ∧ CoreFrame s t id [] [] ∧ NothingElse s t ∧
       (∀ n, n < 4 → back n → (∀ m, n < m → m < 4 → ¬ back m) →
         (t.strand w).pc = (st.loopRegs n).start ∧
         (t.strand w).loopRegs n = { st.loopRegs n with count := (st.loopRegs n).count - 1 } ∧
         (∀ m, n < m → m < 4 → hit m → (t.strand w).loopRegs m = { st.loopRegs m with count := 0 }) ∧
         (∀ m, m < 4 → m < n ∨ (n < m ∧ ¬ hit m) → (t.strand w).loopRegs m = st.loopRegs m)) ∧
       ((∀ m, m < 4 → ¬ back m) →
         (t.strand w).pc = st.pc + BitVec.ofNat 64 (lenBytes f.len) ∧
         (∀ m, m < 4 → hit m → (t.strand w).loopRegs m = { st.loopRegs m with count := 0 }) ∧
         (∀ m, m < 4 → ¬ hit m → (t.strand w).loopRegs m = st.loopRegs m))) ∧
  (∀ (f : Form) (lvl : BitVec 2) (a : Reg) (n : BitVec 12) (end16 : BitVec 16) (s : State),
     let w := s.cur
     let pc := (s.strand w).pc
     let stop := pc + end16.setWidth 64 * 4
     let level := fun (count : Word) => s.setStrand w ((s.strand w).setLoop lvl.toNat ⟨pc + 8, stop, count⟩)
     let skips := fun (o : Host.Outcome State Fault Refusal) (pc' : Word) =>
       ∃ t, o = .next t ∧ (t.strand w).pc = pc' ∧ (t.strand w).loopRegs lvl.toNat = ⟨pc + 8, stop, 0⟩ ∧
         (∀ m, m < 4 → m ≠ lvl.toNat → (t.strand w).loopRegs m = (s.strand w).loopRegs m)
     let one := fun (o : Host.Outcome State Fault Refusal) (ops : List Opnd) (count : Word) =>
       (count ≠ 0 → o = retires s f ops 1 (level count)) ∧
       (count = 0 → ∀ v s1, s.fetchWord w stop = .word v s1 → skips o (stop + BitVec.ofNat 64 (4 * ((v.extractLsb' 0 2).toNat + 1)))) ∧
       (count = 0 → ∀ t, s.fetchWord w stop = .trap t → o = traps s f t)
     (∀ m, m < 4 → ((level n.toNat).strand w).loopRegs m =
       if m = lvl.toNat then ⟨pc + 8, stop, n.toNat⟩ else (s.strand w).loopRegs m) ∧
     (Able s f [.src a] → one (exec (.loop f lvl a end16) s) [.src a] (s.reg w a)) ∧
     (Able s f [] → one (exec (.loopImm f lvl n end16) s) [] (n.setWidth 64)))

/-- sleepns, waitns, waitns.v and pause: deadlines, and how the waits end. sleepns fixes the deadline TIME + s[a] (at most the largest value: the model's choice, log entry 24), waitns and waitns.v the deadline s[a] against TIME and VTIME. A deadline already met retires at once; otherwise the strand waits with that deadline, and the step of the deadline retires it once TIME or VTIME has reached it, and not before. pause issues and stays until its own step retires it. -/
def Obligations.TimedWaitsAndPause : Prop :=
  ∀ (f : Form) (a : Reg) (s : State),
    let w := s.cur
    let wait := fun (k : WaitKind) (d : Word) =>
      waits s { kind := k, retry := false, woken := false, len := lenBytes f.len, eu := 1, d := 0, deadline := d, obj := 0, flat := 0, gen := 0, acq := none }
    let timed := fun (o : Host.Outcome State Fault Refusal) (k : WaitKind) (now d : Word) =>
      (d.toNat ≤ now.toNat → o = retires s f [.src a, .status (if k = .vtimed then 0x14 else 0x13)] 1 s) ∧ (now.toNat < d.toNat → o = wait k d)
    (Able s f [.src a] →
      timed (exec (.sleepns f a) s) .timed s.time
        (if s.time.toNat + (s.reg w a).toNat < 2 ^ 64 then s.time + s.reg w a else BitVec.allOnes 64) ∧
      timed (exec (.waitns f a) s) .timed s.time (s.reg w a) ∧
      timed (exec (.waitnsV f a) s) .vtimed (s.live w.core).vtime (s.reg w a)) ∧
    (Able s f [] → exec (.pause f) s = wait .pause 0) ∧
    (∀ (core strand : Nat) (v : Wait), (s.strand ⟨core, strand⟩).wait = some v →
      (v.kind = .pause → exec (.pauseEnd core strand) s = becomes (s.finish ⟨core, strand⟩ v.len v.eu).wake) ∧
      ((s.core core).st = .active → v.kind = .timed →
        exec (.timedWaitDeadline core strand) s =
          becomes (if v.deadline.toNat ≤ s.time.toNat then (s.finish ⟨core, strand⟩ v.len v.eu).wake else s)) ∧
      ((s.core core).st = .active → v.kind = .vtimed →
        exec (.timedWaitDeadline core strand) s =
          becomes (if v.deadline.toNat ≤ (s.live core).vtime.toNat then (s.finish ⟨core, strand⟩ v.len v.eu).wake else s)))

/-- What taking a trap and sys save and where they go, and what eret and exit restore. A trap of the executing strand is a next state: the privilege rises by one level, the entered level's return privilege takes the privilege held, the strand enters TRAPPED and goes to TVEC + 0x40 s of its die and partition. The record at TREC + 0x200 core + 0x80 s holds the dwords of R317 and R405: address, PC, cause, kind, level and strand, context and core, entry, progress, TCODE, FROM and INFO, NEXTPC. No byte of memory outside the record, no register, no other strand and no energy account changes, but for what strands have read early of the record (log entry 61). A record outside HBM is lost and the trap is taken all the same: the model's choice, log entry 52. The instruction trap takes BREAK this way, and an encoding the tables do not assign takes ILLOP. sys retires into the entry of the level above: privilege, return privilege and PC change as for a trap, the PC being TVEC + 0x100 + 0x40 s; TRAPPED stays as it was; the record holds TCODE 0, the code in INFO and the address after sys in NEXTPC; FFLAG and every register keep their values; no byte of memory outside the record changes. At system privilege eret sets the PC to s[a] and the privilege to the return privilege of the level held (code 0), user (1), partition supervisor (2) or hypervisor (3), and leaves TRAPPED; a privilege above the one held traps PRIV, whatever the target; a target with bits [1:0] not zero traps ALIGN. exit, with nothing of the strand outstanding, leaves the strand exited and holding nothing; in a running group of a kernel the member has exited, and the group has ended once all have. NEXTPC of an encoding that is not assigned counts 4 where its first word cannot be fetched: log entries 14 and 23. -/
def Obligations.TrapEntryAndRecord : Prop :=
  (∀ (f : Form) (t : Trap) (s : State),
     let w := s.cur
     let st := s.strand w
     let up : Priv := match st.priv with | .user => .sv | .sv => .hv | .hv => .hv
     let from_ : Nat := match st.priv with | .user => 0 | .sv => 1 | .hv => 2
     let l : Nat := if up = .hv then 1 else 0
     let part := s.ctxPart (s.ctxOf w.core)
     let rec_ := (s.trec (dieOf w.core) part l).toNat + 0x200 * w.core + 0x80 * w.strand
     let unread := fun x : Strand => { x with early := [] }
     (Able s f [] → exec (.trap f) s = traps s f { code := .break_ }) ∧
       exec .unassignedEncoding s = s.trapNow w { code := .illop } st.pc (st.pc + BitVec.ofNat 64 (s.lenAt w st.pc)) ∧
       (t.hurt.2 = 0 → t.cause < 256 → t.kind < 256 → t.level < 8 → w.strand < 4 → w.core < 2 ^ 15 → s.ctxOf w.core < 2 ^ 16 → t.info < 2 ^ 32 →
         ∃ u, traps s f t = .next u ∧
           unread (u.strand w) = unread { st with
             priv := up
             eprivS := if up = .sv then st.priv else st.eprivS
             eprivH := if up = .hv then st.priv else st.eprivH
             pc := s.tvec (dieOf w.core) part l + BitVec.ofNat 64 (0x40 * w.strand)
             wait := none
             trapped := true } ∧
           (∀ x, x ≠ w → unread (u.strand x) = unread (s.strand x)) ∧
           (u.live w.core).regs = (s.live w.core).regs ∧ (u.live w.core).energy = (s.live w.core).energy ∧
           { u with cores := s.cores, mem := s.mem, caches := s.caches, heads := s.heads } = s ∧
           (inHbm rec_ 128 = false → u.mem = s.mem) ∧
           (inHbm rec_ 128 = true →
           u.read rec_ 8 = t.va.toNat ∧ u.read (rec_ + 0x08) 8 = st.pc.toNat ∧
           u.read (rec_ + 0x10) 8 = 2 ^ 56 * t.cause + 2 ^ 48 * t.kind + 2 ^ 45 * t.level + 2 ^ 42 * w.strand ∧
           u.read (rec_ + 0x18) 8 = 2 ^ 32 * s.ctxOf w.core + w.core ∧
           u.read (rec_ + 0x20) 8 = t.entry.toNat ∧ u.read (rec_ + 0x28) 8 = t.prog1.toNat ∧ u.read (rec_ + 0x30) 8 = t.prog2.toNat ∧
           u.read (rec_ + 0x40) 8 = 2 ^ 56 * t.code.num + 2 ^ 54 * from_ + t.info ∧
           u.read (rec_ + 0x48) 8 = (st.pc + BitVec.ofNat 64 (lenBytes f.len)).toNat ∧
           (∀ a, a < rec_ ∨ rec_ + 128 ≤ a → memByte u.mem a = memByte s.mem a)))) ∧
  (∀ (f : Form) (code : BitVec 12) (s : State), Able s f [] →
     let w := s.cur
     let st := s.strand w
     let up : Priv := match st.priv with | .user => .sv | .sv => .hv | .hv => .hv
     let from_ : Nat := match st.priv with | .user => 0 | .sv => 1 | .hv => 2
     let l : Nat := if up = .hv then 1 else 0
     let part := s.ctxPart (s.ctxOf w.core)
     let rec_ := (s.trec (dieOf w.core) part l).toNat + 0x200 * w.core + 0x80 * w.strand
     let unread := fun x : Strand => { x with early := [] }
     ∃ u, exec (.sys f code) s = .next u ∧
         unread (u.strand w) = unread { st with
           priv := up
           eprivS := if up = .sv then st.priv else st.eprivS
           eprivH := if up = .hv then st.priv else st.eprivH
           pc := s.tvec (dieOf w.core) part l + BitVec.ofNat 64 (0x100 + 0x40 * w.strand)
           wait := none } ∧
         (inHbm rec_ 128 = false → u.mem = s.mem) ∧
         (inHbm rec_ 128 = true →
           u.read (rec_ + 0x40) 8 = 2 ^ 54 * from_ + code.toNat ∧
           u.read (rec_ + 0x48) 8 = (st.pc + BitVec.ofNat 64 (lenBytes f.len)).toNat ∧
           (∀ a, a < rec_ ∨ rec_ + 128 ≤ a → memByte u.mem a = memByte s.mem a)) ∧
         (∀ x, x ≠ w → unread (u.strand x) = unread (s.strand x)) ∧ (u.live w.core).regs = (s.live w.core).regs ∧
         { u with cores := s.cores, mem := s.mem, caches := s.caches, heads := s.heads } = s) ∧
  (∀ (f : Form) (rc : BitVec 2) (a : Reg) (s : State),
     let w := s.cur
     let st := s.strand w
     let p : Priv := if rc = 0 then (if st.priv = .hv then st.eprivH else st.eprivS) else if rc = 1 then .user else if rc = 2 then .sv else .hv
     let rank := fun p : Priv => match p with | .user => (0 : Nat) | .sv => 1 | .hv => 2
     let v := s.reg w a
     (Able s f [.sys, .src a] →
       (rank p ≤ rank st.priv → v.toNat % 4 = 0 →
         ∃ t, exec (.eret f rc a) s = .next t ∧ (t.strand w).pc = v ∧ (t.strand w).priv = p ∧ (t.strand w).trapped = false ∧
           (t.strand w).eprivS = st.eprivS ∧ (t.strand w).eprivH = st.eprivH ∧
           CoreFrame s t (fun st => { st with priv := .user, trapped := false, icache := [] }) [] [] ∧ NothingElse s t) ∧
       (rank st.priv < rank p → exec (.eret f rc a) s = traps s f { code := .priv }) ∧
       (rank p ≤ rank st.priv → v.toNat % 4 ≠ 0 → exec (.eret f rc a) s = traps s f { code := .align })) ∧
     (Able s f [] → s.relWaits w st.hold.counts = false →
       exec (.exit f) s = retires s f [] 16 (s.exitStrand w)) ∧
     (let t := s.exitStrand w;
       (t.strand w).run = .exited ∧ (t.strand w).trapped = false ∧ (t.strand w).hold = .none_ ∧ (t.strand w).claim = .zero ∧
       (∀ k g, st.job = some (k, g) → ((s.kernel k).group g).state = .running →
         let gr := (t.kernel k).group g
         (∀ m ∈ gr.members, m.who = w → m.exited = true) ∧ (gr.members.all (·.exited) = true → gr.state = .ended))))

/-- mts writes a selector whole, mfs reads it, their checks, and what the read-only selectors read. At the privilege its selector asks for, mts of a value that passes the selector's checks writes it: reading the selector then gives the value, and every other selector reads as before; a LOOP register is written after the LoopStep of the mts itself, which sees the old values: the model's reading, log entry 46. A value with a reserved bit set, a SHAPE whose ROWS are not 1 to 16 or COLS not 1 to 128, a SPILL out of order, above 0x3_0000 or not a multiple of 8, or a loop address that is not canonical traps ILLOP; a canonical loop address with bits [1:0] not zero traps ALIGN. mfs writes d with what the selector reads. TIME, VTIME, FEATURE2, DOMAIN and GID read their fields; CORE holds x, y, the cluster number and the module; selector 0x27 reads 0x08040100, 0x28 reads 0xFF and 0x2A zero; HDISAGn and PACKn read slot n and path n, and HMASSn of an empty slot zero. -/
def Obligations.StatusRegistersWriteAndRead : Prop :=
  (∀ (f : Form) (ssel : BitVec 6) (a d : Reg) (s : State),
     let w := s.cur
     let n := ssel.toNat
     let v := s.reg w a
     let ops : List Opnd := (if n = 0x10 ∨ n = 0x15 ∨ n = 0x16 then [Opnd.sys] else []) ++ [.src a]
     let bad : Bool := v &&& statusReserved n != 0 ||
       (n == 0x02 && (v.toNat / 256 % 256 == 0 || decide (16 < v.toNat / 256 % 256) || v.toNat % 256 == 0 || decide (128 < v.toNat % 256))) ||
       (n == 0x10 && !(decide (v.toNat / 2 ^ 18 % 2 ^ 18 ≤ v.toNat % 2 ^ 18) && decide (v.toNat % 2 ^ 18 ≤ v.toNat / 2 ^ 36 % 2 ^ 18) &&
         decide (v.toNat / 2 ^ 36 % 2 ^ 18 ≤ 0x30000) && v.toNat / 2 ^ 18 % 2 ^ 18 % 8 == 0 && v.toNat % 2 ^ 18 % 8 == 0 &&
         v.toNat / 2 ^ 36 % 2 ^ 18 % 8 == 0)) ||
       (decide (4 ≤ n ∧ n ≤ 15 ∧ n % 3 ≠ 0) && (v.setWidth 57).signExtend 64 != v)
     let unaligned : Bool := decide (4 ≤ n ∧ n ≤ 15 ∧ n % 3 ≠ 0) && v.toNat % 4 != 0
     (Able s f ops →
       (bad = true → exec (.mts f ssel a) s = traps s f { code := .illop }) ∧
       (bad = false → unaligned = true → exec (.mts f ssel a) s = traps s f { code := .align }) ∧
       (bad = false → unaligned = false → n < 4 ∨ 15 < n → exec (.mts f ssel a) s =
         retires s f ops (if n = 0x15 ∨ n = 0x16 then 0 else 16) ((s.putStatus w n v).clearStatus w n)) ∧
       (bad = false → unaligned = false → 4 ≤ n → n ≤ 15 →
         let st := s.strand w
         let own := ({ st with pc := st.pc + BitVec.ofNat 64 (lenBytes f.len) }).loopStep st.pc
         exec (.mts f ssel a) s = jumps s ops 16 own.pc (((s.setStrand w { own with pc := st.pc }).putStatus w n v).clearStatus w n))) ∧
     (selWritable ssel = true → (s.putStatus w n v).getStatus w n = v ∧
       ∀ m, m ≠ n → (s.putStatus w n v).getStatus w m = s.getStatus w m) ∧
     (Able s f [.dst d, .status n] →
       exec (.mfs f ssel d) s = retires s f [.dst d, .status n] 16 (s.setReg w d (s.getStatus w n)))) ∧
  (∀ (s : State) (w : Who),
     s.getStatus w 0x13 = s.time ∧ s.getStatus w 0x14 = (s.live w.core).vtime ∧ s.getStatus w 0x24 = (s.strand w).domain ∧
     s.getStatus w 0x26 = (s.strand w).gid ∧ s.getStatus w 0x27 = 0x08040100 ∧ s.getStatus w 0x28 = 0xFF ∧
     s.getStatus w 0x29 = s.feature2.setWidth 64 ∧
     (w.core < 32768 → (s.getStatus w 0x25).toNat = w.core % 256 + 2 ^ 8 * (w.core / 256) +
       2 ^ 20 * (16 * (w.core / 256) + w.core % 256 / 16) + 2 ^ 32 * s.module_.toNat) ∧
     s.getStatus w 0x2A = 0 ∧
     (∀ k, k < 4 → s.getStatus w (0x1B + k) = (s.hslot w.core k).hdisag.setWidth 64 ∧ s.getStatus w (0x1F + k) = (s.strand w).pack k ∧
       ((s.hslot w.core k).state = .closed → s.getStatus w (0x17 + k) = 0)))

/-- PRIV at user privilege, ILLOP for a register not held, waiting for a load, ECC for a parity error. With the guard true, no parity error and every operand register ready, each of these instructions at user privilege traps PRIV, whether or not its registers are held. For every instruction of the register-only list with a true guard and no parity error: when no operand register waits for a load and one of them is not held, it traps ILLOP; when one waits for a load, nothing retires and the strand is looked at again later. When every operand is held and ready and the register a source reads has a parity error, it traps ECC with CAUSE 30. -/
def Obligations.UserPrivilegeTraps : Prop :=
  (∀ (f : Form) (rc : BitVec 2) (ssel q : BitVec 6) (d a b : Reg) (s : State),
     (s.strand s.cur).guard f = true → (s.live s.cur.core).perr = [] → (s.strand s.cur).loads = [] → (s.strand s.cur).priv = .user →
       exec (.eret f rc a) s = traps s f { code := .priv } ∧
       exec (.tlbinv f d a b) s = traps s f { code := .priv } ∧
       exec (.enrd f d a q) s = traps s f { code := .priv } ∧
       (ssel = 0x10 ∨ ssel = 0x15 ∨ ssel = 0x16 → exec (.mts f ssel a) s = traps s f { code := .priv })) ∧
  (∀ (i : Instr) (f : Form) (ops : List Opnd) (d : Reg), registerOnly i = some (f, ops, d) →
     ∀ s : State, (s.strand s.cur).guard f = true →
       let st := s.strand s.cur
       ((s.live s.cur.core).perr = [] → (∀ r, .src r ∈ ops ∨ .dst r ∈ ops → st.pendingReg r = false) →
         (∃ r, (.src r ∈ ops ∨ .dst r ∈ ops) ∧ st.holds r = false) → exec i s = traps s f { code := .illop }) ∧
       ((s.live s.cur.core).perr = [] → (∃ r, (.src r ∈ ops ∨ .dst r ∈ ops) ∧ st.pendingReg r = true) → exec i s = .next (s.notReady s.cur ops)) ∧
       (f.pg = 0 → (∀ r, .src r ∈ ops ∨ .dst r ∈ ops → st.pendingReg r = false ∧ st.holds r = true) →
         (∃ r p, .src r ∈ ops ∧ st.regPlace s.cur.strand r = some p ∧ PErr.reg p ∈ (s.live s.cur.core).perr) →
         exec i s = traps s f { code := .ecc, cause := 30 }))

/-- An instruction whose guard reads false only moves the PC, for 1 eu. Every instruction that some encoding stands for, at a form whose guard reads false, retires with 1 eu and has no effect of its own: it makes no operand check and raises no trap. -/
def Obligations.FalseGuardOnlyMovesOn : Prop :=
  ∀ (i : Instr) (r : Raw) (s : State), i.toRaw = some r → (s.live s.cur.core).perr = [] → (s.strand s.cur).guard r.form = false →
    exec i s = .next (s.retire s.cur (lenBytes r.len) 1)

/-- Every instruction, every step of the table and every step of the machine answers a next state; none is refused. In every state, exec of every constructor answers a next state: no operand, mode or content of memory ends a run, and a trap is a next state wherever its record lies. In no state does exec or a step of the machine refuse or stop: every row of the opcode table has a meaning. -/
def Obligations.EveryInstructionAnswers : Prop :=
  (∀ (i : Instr) (s : State), ∃ t, exec i s = .next t) ∧
  ((∀ (i : Instr) (s : State) (r : Refusal), exec i s ≠ .refused r) ∧ ∀ s : State, ∃ t, step s = .next t)

/-- ld: alignment, the value of a load from own LM, and the return of a load through the cache. An address that is not a multiple of the width traps ALIGN; one that is not canonical traps PAGE with CAUSE 1. An aligned load that translates and need not wait for an earlier access retires: from the own LM it writes d with the extended value at once; from HBM or HOST it leaves a load to come, and the return of its data writes d with the extended value read then, or read early (log entry 61); from a control register it writes d with its value; a load of another core's or module's memory, through a window too, leaves as a remote operation whose reply brings the data. A load from the own LM that meets an error retires, and its trap is deferred. -/
def Obligations.LoadsWriteTheirRegister : Prop :=
  ∀ (f : Form) (ty : Ty) (d a : Reg) (imm : Imm) (s : State),
    let w := s.cur
    let ops : List Opnd := [.mem, .dst d, .src a]
    let n := memWidth ty
    let ea := s.reg w a + imm
    (Able s f ops →
      (ea.toNat % n ≠ 0 → exec (.ld f ty d a imm) s = traps s f { code := .align, va := ea }) ∧
      (ea.toNat % n = 0 → (ea.setWidth 57).signExtend 64 ≠ ea →
        exec (.ld f ty d a imm) s = traps s f { code := .page, cause := 1, va := ea }) ∧
      (∀ p, ea.toNat % n = 0 → s.pieces w .load .all [(ea, n)] = .ok [p] → s.mustWait w false p.at_.flat n = false →
        let s1 := s.useXlat w p.x
        let later : PLoad := { pc := (s1.strand w).pc, va := ea, d := d, n := 0, ty := ty, flat := p.at_.flat, bytes := n, acq := none, pkt := none,
                               sync := false, val := none, poison := 0, kind := 0, ent := p.x.ent }
        let leaves := fun (s2 : State) (v : Option (BitVec 512)) =>
          retires s f ops 40 ((s2.send w { (s2.packet w .load (some (s1.strand w).adaptive)).aim p.at_ n with
            va := ea, ent := p.x.ent }).pushLoad w { later with val := v, pkt := some s2.nextId })
        (∀ x, p.at_ = .lm x → s1.eccCause (clusterOf w.core) x n = none →
          exec (.ld f ty d a imm) s = retires s f ops 4 (((s1.forget w x n).learn w x n).setReg w d (loadExtend (s1.read x n) ty))) ∧
        (∀ x c, p.at_ = .lm x → s1.eccCause (clusterOf w.core) x n = some c →
          exec (.ld f ty d a imm) s = retires s f ops 4 (s1.pushLoad w { later with val := some 0, poison := c })) ∧
        (∀ x sy, p.at_ = .hbm x sy → exec (.ld f ty d a imm) s = retires s f ops 40 (s1.pushLoad w { later with sync := sy })) ∧
        (∀ x, p.at_ = .host x → exec (.ld f ty d a imm) s = retires s f ops 40 (s1.pushLoad w later)) ∧
        (∀ x, p.at_ = .mmio x → s.cut w p.at_ = false → exec (.ld f ty d a imm) s = retires s f ops 40 (s1.setReg w d (loadExtend (s1.mmioGet x n % 2 ^ (8 * n)) ty))) ∧
        (∀ c o, p.at_ = .away c o → exec (.ld f ty d a imm) s = leaves s1 none) ∧
        (∀ m x sy, p.at_ = .peer m x sy →
          (s1.earlyOf w ea x n = none → exec (.ld f ty d a imm) s = leaves s1 none) ∧
          (∀ e, s1.earlyOf w ea x n = some e → exec (.ld f ty d a imm) s = leaves (s1.learnIds w e.2) (some (BitVec.ofNat 512 e.1)))))) ∧
    (∀ (core strand k : Nat) (l : PLoad), (s.strand ⟨core, strand⟩).loads[k]? = some l → l.pkt = none → l.n = 0 →
      (∀ v, l.val = some v → l.poison = 0 → exec (.loadDataReturn core strand k) s =
        becomes ((s.dropLoad ⟨core, strand⟩ k).setReg ⟨core, strand⟩ l.d (loadExtend (v.toNat % 2 ^ (8 * l.bytes)) l.ty)).wake) ∧
      (l.val = none → ((s.strand ⟨core, strand⟩).loads.take k).any (fun e => overlap e.flat e.bytes l.flat l.bytes) = false →
      s.eccCause (clusterOf core) l.flat l.bytes true = none → isLm l.flat = false → isHbm l.flat = true → l.sync = false →
      s.missCut ⟨core, strand⟩ l.va (.hbm l.flat false) = false →
        let r := (s.forget ⟨core, strand⟩ l.flat l.bytes).cachedRead (clusterOf core) l.flat l.bytes
        let x := match s.earlyOf ⟨core, strand⟩ l.va l.flat l.bytes with
          | some e => (e.1, s.learnIds ⟨core, strand⟩ e.2)
          | none => (r.1, r.2.learnIds ⟨core, strand⟩ (r.2.headsIn (clusterOf core) l.flat l.bytes))
        exec (.loadDataReturn core strand k) s =
          becomes ((x.2.dropLoad ⟨core, strand⟩ k).setReg ⟨core, strand⟩ l.d (loadExtend (x.1 % 2 ^ (8 * l.bytes)) l.ty)).wake))

/-- st writes the bytes of its width at its place, and no other byte changes. An aligned store that translates, claims no frame and need not wait: into the own LM, afterwards byte k of the place reads byte k of the register, and every byte of memory outside the n stored reads as before; into HBM or HOST through the cluster cache, the same is true of what the strand's cluster reads where the cache has room for the line; into a page of HBM with SYNC, of memory where the cluster holds no copy of the line. In these cases no register, no other strand and nothing but memory, what protects and names its bytes, the cache, shared translations and what strands have read early (log entry 61) changes. A store to a control register writes it by R415; one to a PEER page or to another core's LM leaves with the register's bytes for its place, and so does one to a page with SYNC that is to perform late (log entry 61). -/
def Obligations.StoresWriteTheirBytes : Prop :=
  ∀ (f : Form) (ty : Ty) (d a : Reg) (imm : Imm) (s : State) (p : Piece),
    let w := s.cur
    let n := memWidth ty
    let ea := s.reg w a + imm
    let cl := clusterOf w.core
    let blank := fun st : Strand => { st with late := false }
    let v := (s.reg w d).toNat
    let byte := fun k : Nat => (BitVec.ofNat 8 (v / 256 ^ k) : Byte)
    let s1 := s.useXlat w p.x
    let leaves := fun (s2 : State) (path : Option Nat) =>
      retires s f [.mem, .src d, .src a] 40 ((s2.send w { (s2.packet w (.store false) path).aim p.at_ n with
        va := ea, ent := p.x.ent, data := (s.reg w d).setWidth 512 }).setLate w false)
    Able s f [.mem, .src d, .src a] → ea.toNat % n = 0 → s.pieces w .store .all [(ea, n)] = .ok [p] →
    s.mustWaitAt w p.at_ n = false → s.narrowBad p.at_.flat n = false → p.x.claim = false →
      (∀ x, p.at_ = .lm x →
        ∃ t, exec (.st f ty d a imm) s = .next t ∧ CoreFrame s.noEarly t.noEarly blank [] [] ∧ MemoryOnly s t ∧ t.caches = s.caches ∧
          (∀ k, k < n → memByte t.mem (x + k) = byte k) ∧
          (∀ b, b < x ∨ x + n ≤ b → memByte t.mem b = memByte s.mem b)) ∧
      (∀ x, p.at_ = .hbm x false ∨ p.at_ = .host x → x % n = 0 →
        ∃ t, exec (.st f ty d a imm) s = .next t ∧ CoreFrame s.noEarly t.noEarly blank [] [] ∧ MemoryOnly s t ∧
          (∀ k, k < n → t.peekByte cl (x + k) = byte k) ∧
          ((s.line cl (x / 64)).isSome = true ∨ (s.cache cl).length < 4096 →
            t.mem = s.mem ∧ ∀ b, b < x ∨ x + n ≤ b → t.peekByte cl b = s.peekByte cl b)) ∧
      (∀ x, p.at_ = .hbm x true → (s.strand w).late = false →
        ∃ t, exec (.st f ty d a imm) s = .next t ∧ CoreFrame s.noEarly t.noEarly id [] [] ∧ MemoryOnly s t ∧
          (∀ k, k < n → memByte t.mem (x + k) = byte k) ∧
          ((∀ ln, x / 64 ≤ ln → ln ≤ (x + n - 1) / 64 → s.line cl ln = none) →
            ∀ b, b < x ∨ x + n ≤ b → memByte t.mem b = memByte s.mem b)) ∧
      (∀ x, p.at_ = .hbm x true → (s.strand w).late = true → exec (.st f ty d a imm) s = leaves (s1.forget w x n) none) ∧
      (∀ m x sy, p.at_ = .peer m x sy → exec (.st f ty d a imm) s = leaves (s1.forget w x n) (some (s.strand w).adaptive)) ∧
      (∀ c o, p.at_ = .away c o → exec (.st f ty d a imm) s = leaves s1 (some (s.strand w).adaptive)) ∧
      (∀ x, p.at_ = .mmio x → exec (.st f ty d a imm) s =
        retires s f [.mem, .src d, .src a] 40 ((s1.mmioPut w.core x n v).setLate w false))

/-- ldn and stn: the own rank, another rank, and the traps of both. ldn and stn of the own rank read and write the own LM through the own window at once; of another rank of the cluster they leave as a near operation counted on the adaptive path (the model's reading, log entry 25). An address that is not a multiple of the width traps ALIGN, one that ends beyond 0x3_0000 traps ACCESS with CAUSE 35, and a peer outside the allotment traps ACCESS with CAUSE 33, in this order. -/
def Obligations.NearAccesses : Prop :=
  ∀ (f : Form) (ty : Ty) (rank : BitVec 4) (d a : Reg) (off : BitVec 16) (s : State),
    let w := s.cur
    let n := memWidth ty
    let l := s.reg w a + off.signExtend 64
    let peer := clusterCore (clusterOf w.core) rank.toNat
    let lops : List Opnd := [.mem, .dst d, .src a]
    let sops : List Opnd := [.mem, .src d, .src a]
    let both := fun (c : TCode) (cause : Nat) =>
      (Able s f lops → exec (.ldn f ty rank d a off) s = traps s f { code := c, cause := cause, va := l }) ∧
      (Able s f sops → exec (.stn f ty rank d a off) s = traps s f { code := c, cause := cause, va := l, kind := 1 })
    (l.toNat % n ≠ 0 → both .align 0) ∧
    (l.toNat % n = 0 → 0x30000 < l.toNat + n → both .access 35) ∧
    (l.toNat % n = 0 → l.toNat + n ≤ 0x30000 → s.inAllot (s.ctxOf w.core) peer = false → both .access 33) ∧
    (l.toNat % n = 0 → l.toNat + n ≤ 0x30000 → s.inAllot (s.ctxOf w.core) peer = true →
      (peer = w.core → ∀ q, lmPhys (s.strand w).hold l.toNat = some q →
        (Able s f lops → s.mustWait w false (lmFlat w.core q) n = false → s.eccCause (clusterOf w.core) (lmFlat w.core q) n = none →
          exec (.ldn f ty rank d a off) s = retires s f lops 4
            (((s.forget w (lmFlat w.core q) n).learn w (lmFlat w.core q) n).setReg w d (loadExtend (s.read (lmFlat w.core q) n) ty))) ∧
        (Able s f sops → (s.live w.core).hingeCovers q n = false → s.mustWait w true (lmFlat w.core q) n = false →
          s.narrowBad (lmFlat w.core q) n = false →
          exec (.stn f ty rank d a off) s =
            retires s f sops 4 (((s.wrote w none (lmFlat w.core q) n).write (lmFlat w.core q) n (s.reg w d).toNat).clearUnits
              (lmFlat w.core q) n))) ∧
      (peer ≠ w.core →
        (Able s f lops → s.isActive (s.ctxOf w.core) peer = true → s.mustWait w false (awayFlat peer l.toNat) n = false →
          exec (.ldn f ty rank d a off) s = retires s f lops 40
            ((s.send w { (s.packet w .nearLoad (some (s.strand w).adaptive)).aim (.away peer l.toNat) n with va := l }).pushLoad w
              { pc := (s.strand w).pc, va := l, d := d, n := 0, ty := ty, flat := awayFlat peer l.toNat, bytes := n, acq := none,
                pkt := some s.nextId, sync := false, val := none, poison := 0, kind := 0, ent := ⟨0, 0, 0, 0, 0, 0⟩ })) ∧
        (Able s f sops → s.mustWaitSend w (awayFlat peer l.toNat) n = false →
          exec (.stn f ty rank d a off) s = retires s f sops 40
            (s.send w { (s.packet w .near (some (s.strand w).adaptive)).aim (.away peer l.toNat) n with
              va := l, data := (s.reg w d).setWidth 512 }))))

/-- ldt, stt and their post-increment forms move the active rows. With every active row aligned and translated and nothing to wait for, stt writes each active row of the tile, in order, to its place; ldt puts what it reads of each active row into the tile and keeps the others, and clears the tag. The rows lie at base plus row times pitch, a pitch field of 0 meaning 64; the post-increment forms start at s[a], take pitch 64 and then add the step to s[a]. -/
def Obligations.TileRowAccesses : Prop :=
  ∀ (f : Form) (d : Tile) (a b : Reg) (imm : Imm) (s : State) (ps : List Piece),
    let w := s.cur
    let rowsAt := fun (base pitch : Word) =>
      ((List.range 16).filter (fun i => decide (i < (s.strand w).rows) && (s.strand w).mask.getLsbD i)).map
        (fun i => (i, base + BitVec.ofNat 64 i * pitch))
    let pitch := if b = 0 then (64 : Word) else s.reg w b
    let step := if b = 0 then imm else s.reg w b
    let shapes : List Opnd := [.status 2, .status 3]
    let whole : List Opnd := if (s.strand w).rows = 16 ∧ (s.strand w).mask = 0xFFFF then [.twhole d] else []
    let eu := if ps.all (fun p => match p.at_ with | .lm _ => true | _ => false) then 4 else 40
    let stored := fun (rows : List (Nat × Word)) =>
      (rows.zip ps).foldl (fun acc r => acc.storeAt w r.2 ((s.tile w d).row r.1.1).toNat) (s.useAll w ps)
    let loaded := fun (rows : List (Nat × Word)) (vs : List Nat) (s1 : State) =>
      s1.setTile w d ((rows.zip vs).foldl (fun (t : Rows) r => t.set r.1.1 (BitVec.ofNat 512 r.2)) (s.tile w d)) 0
    (s.rowPieces w .store (rowsAt (s.reg w a + imm) pitch) = .ok ps → ps.any (fun p => s.pieceWaits w p 64) = false →
      Able s f (shapes ++ [.mem, .tsrc d, .src a, .src b]) →
      exec (.stt f d a b imm) s = retires s f (shapes ++ [.mem, .tsrc d, .src a, .src b]) eu ((stored (rowsAt (s.reg w a + imm) pitch)).setLate w false)) ∧
    (s.rowPieces w .store (rowsAt (s.reg w a) 64) = .ok ps → ps.any (fun p => s.pieceWaits w p 64) = false →
      Able s f (shapes ++ [.mem, .tsrc d, .src a, .dst a, .src b]) →
      exec (.sttPost f d a b imm) s = retires s f (shapes ++ [.mem, .tsrc d, .src a, .dst a, .src b]) eu
        (((stored (rowsAt (s.reg w a) 64)).setLate w false).setReg w a (s.reg w a + step))) ∧
    (∀ vs s1, s.rowAway w ps = false → ps.any (fun p => s.mustWait w false p.at_.flat 64) = false →
      (s.useAll w ps).readRows w ps = .ok (vs, s1) →
      (s.rowPieces w .load (rowsAt (s.reg w a + imm) pitch) = .ok ps → Able s f (whole ++ shapes ++ [.mem, .tdst d, .src a, .src b]) →
        exec (.ldt f d a b imm) s = retires s f (whole ++ shapes ++ [.mem, .tdst d, .src a, .src b]) eu
          (loaded (rowsAt (s.reg w a + imm) pitch) vs s1)) ∧
      (s.rowPieces w .load (rowsAt (s.reg w a) 64) = .ok ps → Able s f (whole ++ shapes ++ [.mem, .tdst d, .src a, .dst a, .src b]) →
        exec (.ldtPost f d a b imm) s = retires s f (whole ++ shapes ++ [.mem, .tdst d, .src a, .dst a, .src b]) eu
          ((loaded (rowsAt (s.reg w a) 64) vs s1).setReg w a (s.reg w a + step))))

/-- pushm and popm move registers below and above the spill pointer; pref has no effect a program can see. pushm with room above the base stores registers a to b at the dwords below the pointer, the first lowest, and moves the pointer down; popm with room below the limit loads them from the pointer up and moves it up; out of room both trap ACCESS with CAUSE 34 and change nothing. pref changes no register, and no byte of memory nor any that a strand of its cluster reads where the cache has room for its lines. -/
def Obligations.SpillsAndPrefetch : Prop :=
  ∀ (f : Form) (a b : Reg) (n1 : BitVec 6) (hc : Bool) (off : BitVec 16) (s : State),
    let w := s.cur
    let n := b.toNat + 1 - a.toNat
    let st := s.strand w
    let ptr := st.spill.toNat % 2 ^ 18
    let base := st.spill.toNat / 2 ^ 18 % 2 ^ 18
    let limit := st.spill.toNat / 2 ^ 36 % 2 ^ 18
    (Able s f (.status 0x10 :: .mem :: srcRange a n) →
      (ptr < base + 8 * n → exec (.pushm f a b) s = traps s f { code := .access, cause := 34, kind := 1 }) ∧
      (∀ ps, base + 8 * n ≤ ptr → s.spillSlots w .store (ptr - 8 * n) n = .ok ps →
        ps.any (fun p => s.mustWait w true (lmFlat w.core p) 8) = false →
        let s1 := (ps.zip (List.range n)).foldl
          (fun acc p => acc.writeAt w (.lm (lmFlat w.core p.1)) 8 (s.reg w (BitVec.ofNat 6 (a.toNat + p.2))).toNat) s
        exec (.pushm f a b) s = retires s f (.status 0x10 :: .mem :: srcRange a n) 4
          (s1.setStrand w { s1.strand w with spill := setBits st.spill 17 0 (ptr - 8 * n) }))) ∧
    (Able s f (.status 0x10 :: .mem :: dstRange a n) →
      (limit < ptr + 8 * n → exec (.popm f a b) s = traps s f { code := .access, cause := 34 }) ∧
      (∀ ps, ptr + 8 * n ≤ limit → s.spillSlots w .load ptr n = .ok ps →
        ps.any (fun p => s.mustWait w false (lmFlat w.core p) 8) = false → ps.findSome? (fun p => s.eccCause (clusterOf w.core) (lmFlat w.core p) 8) = none →
        let s0 := ps.foldl (fun acc p => acc.learn w (lmFlat w.core p) 8) s
        let s1 := s0.setRegs w a.toNat (ps.map (fun p => s.readW (lmFlat w.core p)))
        exec (.popm f a b) s = retires s f (.status 0x10 :: .mem :: dstRange a n) 4
          (s1.setStrand w { s1.strand w with spill := setBits st.spill 17 0 (ptr + 8 * n) }))) ∧
    (Able s f [.mem, .src a] →
      ∃ t, exec (.pref f n1 a hc off) s = .next t ∧ CoreFrame s t id [] [] ∧
        ((s.cache (clusterOf w.core)).length + n1.toNat < 4096 → t.mem = s.mem ∧
          ∀ x, x < 2 ^ 61 → t.peekByte (clusterOf w.core) x = s.peekByte (clusterOf w.core) x))

/-- rst and rld leave as remote operations; what their arrivals, acknowledgements and services do. rst and rld with a dword-aligned address inside one 64-byte block that translates leave on the named or the adaptive path, and their OUT rises, an rst that claims a shadow frame performing with the fill; otherwise they trap ALIGN. A store whose target is ready and which no earlier store holds back lands: its bytes are written at the target, and only once: into LM through the window of its strand's group, nothing where a position is not held or a Hinge block lies there; into other memory at its home. Another module may refuse an atomic with no result, which is then reported with CAUSE 9 (log entry 68). A landed store is acknowledged at its source: OUT falls, ACK rises. A remote load at its target takes the bytes there; a refused store lands when its fault has been serviced; one to a core that does not run its context goes into the entry at the tail of the spill queue, as R231 lays it out, at once or, where that is full, once space is free, with a report of KIND 19 until then; and the data of a load that met an error traps ECC, deferred, once its strand stands between instructions. -/
def Obligations.RemoteOperationsLeaveAndLand : Prop :=
  ∀ (f : Form) (of_ : Bool) (n1 : BitVec 3) (d a : Reg) (path : Option (BitVec 2)) (s : State),
    let w := s.cur
    let n := n1.toNat + 1
    let ea := s.reg w a
    let out := match path with | some p => p.toNat | none => (s.strand w).adaptive
    let sops := .mem :: .src a :: srcRange d n
    let lops := .mem :: .src a :: dstRange d n
    (ea.toNat % 8 ≠ 0 ∨ 8 < ea.toNat / 8 % 8 + n →
      (Able s f sops → exec (.rst f of_ n1 d a path) s = traps s f { code := .align, va := ea, kind := 1 }) ∧
      (Able s f lops → exec (.rld f n1 d a path) s = traps s f { code := .align, va := ea })) ∧
    (∀ p, ea.toNat % 8 = 0 → ea.toNat / 8 % 8 + n ≤ 8 →
      (Able s f sops → s.pieces w .store .remote [(ea, 8 * n)] = .ok [p] → s.mustWaitSend w p.remote.flat p.n = false →
        let s1 := (s.useXlat w p.x).forget w p.remote.flat p.n
        let sent := s1.send w { (s1.packet w (.store of_) (some out)).aim p.remote p.n with va := ea, ent := p.x.ent, data := s.regBlock w d n }
        (p.x.claim = false → exec (.rst f of_ n1 d a path) s = retires s f sops 40 sent) ∧
        (p.x.claim = true → s.fillWaits w out of_ p.at_ = false → exec (.rst f of_ n1 d a path) s =
          retires s f sops 40 (sent.storedWithFill ((s.regBlock w d n).toNat % 2 ^ (64 * n))))) ∧
      (Able s f lops → s.pieces w .load .remote [(ea, 8 * n)] = .ok [p] → s.mustWait w false p.at_.flat p.n = false →
        exec (.rld f n1 d a path) s =
          retires s f lops 40 ((s.useXlat w p.x).startLoad w d n .i64 { p with at_ := p.remote } (some out)))) ∧
    (∀ (id : Nat) (p : Packet), s.pkt id = some p →
      let away := isLm p.flat && !s.isActive p.ctx p.core
      let alive := p.module_.any (fun m => (s.modEnt m).state == .failed) = false
      alive →
      (∀ q, isLm p.flat = true → s.pktPhys p = some q → (s.live p.core).hingeCovers q p.bytes = false → p.bytes ≤ 64 →
        (∀ k, k < p.bytes → memByte (s.landStore p).mem (lmFlat p.core q + k) = BitVec.ofNat 8 (p.data.toNat / 256 ^ k)) ∧
        (∀ b, b < lmFlat p.core q ∨ lmFlat p.core q + p.bytes ≤ b → memByte (s.landStore p).mem b = memByte s.mem b)) ∧
      (isLm p.flat = true → (s.pktPhys p = none ∨ ∃ q, s.pktPhys p = some q ∧ (s.live p.core).hingeCovers q p.bytes = true) →
        s.landStore p = s) ∧
      (isLm p.flat = false → p.bytes ≤ 64 →
        (∀ k, k < p.bytes → memByte (s.landStore p).mem (p.flat + k) = BitVec.ofNat 8 (p.data.toNat / 256 ^ k)) ∧
        (s.fromHere p = false ∨ s.cache (clusterOf p.src.core) = [] →
          ∀ b, b < p.flat ∨ p.flat + p.bytes ≤ b → memByte (s.landStore p).mem b = memByte s.mem b)) ∧
      (p.landed = false → p.refused = false → away = false → s.storeBad p = false →
        ((∃ o, p.kind = .store o ∧ s.blocked p o = false ∧ (p.held || s.carried p) = true) ∨
          (p.kind = .near ∧ s.blocked p false = false ∧ s.carried p = true)) →
        exec (.remoteStoreArrive id false) s = becomes ((s.landStore p).setPkt id { p with landed := true }).wake ∧
        (p.full = true → exec (.spillQueueSpaceFree id) s = becomes ((s.landStore p).setPkt id { p with landed := true }).wake)) ∧
      (p.landed = false → p.refused = false → away = true →
        ((∃ o, p.kind = .store o ∧ s.blocked p o = false ∧ (p.held || s.carried p) = true) ∨
          (p.kind = .near ∧ s.blocked p false = false ∧ s.carried p = true)) → s.sqAbsent p.ctx = false →
        let filled := s.divert p.ctx p.off p.bytes p
        let written : State := filled.setPkt id { p with landed := true }
        let entry := s.sqAddr p.ctx (s.sqTail p.ctx)
        let desc := (s.ctxRec p.ctx).desc
        ((desc + 256 ≤ entry ∨ entry + 128 ≤ desc) →
          filled.read entry 64 = (2 ^ 112 * p.smodule + 2 ^ 64 * p.off + 2 ^ 32 * p.src.core + 2 ^ 24 * coreY p.core + 2 ^ 16 * coreX p.core +
            2 ^ 8 * p.bytes + p.sqKind) % 2 ^ 512 ∧
          filled.read (entry + 64) 64 = p.data.toNat ∧ filled.sqTail p.ctx = (s.sqTail p.ctx + 1) % 2 ^ 64 ∧
          (∀ b, b < entry ∨ entry + 128 ≤ b → b < desc + 0x98 ∨ desc + 0xA0 ≤ b → memByte filled.mem b = memByte s.mem b)) ∧
        (s.sqFull p.ctx = false → exec (.remoteStoreArrive id false) s = becomes written.wake ∧
          (p.full = true → exec (.spillQueueSpaceFree id) s = becomes written.wake)) ∧
        (s.sqFull p.ctx = true → p.full = false → exec (.remoteStoreArrive id false) s =
          becomes ((s.setPkt id { p with full := true }).report (dieOf p.core) (p.report 19 0)).wake) ∧
        (s.sqFull p.ctx = true → p.full = true → exec (.remoteStoreArrive id false) s = becomes s.wake ∧ exec (.spillQueueSpaceFree id) s = becomes s.wake)) ∧
      (p.full = false → exec (.spillQueueSpaceFree id) s = .next s) ∧
      (p.full = true → p.kind = .msg → exec (.spillQueueSpaceFree id) s = becomes (s.msgAccept id).wake) ∧
      (∀ op ty, p.kind = .amo op ty → p.ret = false → p.module_.isSome = true → p.landed = false → p.refused = false → s.carried p = true →
        s.blocked p false = false →
        exec (.remoteStoreArrive id true) s =
          becomes ((s.setPkt id { p with refused := true }).report (dieOf p.src.core) (p.report 2 9)).wake) ∧
      (p.landed = false → p.refused = true → away = false → (p.kind = .near ∨ p.kind = .row ∨ ∃ o, p.kind = .store o) →
        exec (.nonreturningServiced id) s = becomes ((s.landStore p).setPkt id { p with landed := true, refused := false }).wake) ∧
      (p.landed = true → p.refused = false → p.smodule = s.module_.toNat → p.module_.any (fun m => !s.wayUp m) = false → (s.core p.src.core).ctx = some p.ctx →
        (p.kind = .near ∨ (s.drooping p.src.core = false ∧ ∃ o, p.kind = .store o)) →
        (s.strand p.src).birth = p.birth → ∀ k, p.path = some k →
        exec (.remoteAckArrive id) s = becomes ((s.delPkt id).packDown p.src k).wake) ∧
      (p.kind = .load → p.landed = false → p.refused = false → (p.held || s.carried p) = true → s.blocked p false = false →
        away = false → isLm p.flat = true →
        ∀ q, s.pktPhys p = some q → s.eccCause (clusterOf p.src.core) (lmFlat p.core q) p.bytes = none → isLm (lmFlat p.core q) = true →
        exec (.remoteLoadArrive id) s = becomes (s.setPkt id { p with
          landed := true, points := s.headsAt (lmFlat p.core q) p.bytes, data := BitVec.ofNat 512 (s.read (lmFlat p.core q) p.bytes) }).wake)) ∧
    (∀ (core strand : Nat) (l : PLoad) (c : Nat), (s.strand ⟨core, strand⟩).loads[0]? = some l → l.pkt = none → l.val = none →
      s.eccCause (clusterOf core) l.flat l.bytes (!l.sync) = some c → c ≠ 28 → (s.strand ⟨core, strand⟩).run = .running → (s.strand ⟨core, strand⟩).wait = none →
      exec (.deferredEcc core strand 0) s = wakeAfter ((s.dropLoad ⟨core, strand⟩ 0).takeTrap ⟨core, strand⟩
        { code := .ecc, cause := c, va := l.va, kind := l.kind, info := 1 } l.pc (s.strand ⟨core, strand⟩).pc))

/-- Atomics: the old value returned, the new value written, at the LM port and on a quiet line; elsewhere they leave. Each of the ten amo instructions completes on able operands: aligned to its width (16 bytes for xacc, 4 for fadd, i32 and n32, else 8) and with nothing to wait for, it reads its location once, writes the new value of R163 there and gives d the extended old value: at the LM port on the own LM, and in its cluster on an HBM or PEER line that is quiet for it, which it owns already or whose links carry it, and which it then owns, unless it is to perform later (R426, log entry 61). On a contested line, another core's LM or a module it cannot reach it leaves as a remote operation. At the LM port an error defers the trap of one that returns a value; of the others one on a poisoned word retires and fails its service, any other traps ECC. A rel ordering publishes the object's bytes first, an acq ordering waits for the strand's earlier reads and takes the bytes in after. A misaligned address traps ALIGN. A quiet line becomes contested at counter 2, and a decay lowers every counter of its cluster by 1. -/
def Obligations.AtomicsReadAndWriteOnce : Prop :=
  (∀ (f : Form) (ord : Ord) (ty : Ty) (d a b e : Reg) (s : State) (op : Nat) (i : Instr),
    (op, i) ∈ [(0, Instr.amoAdd f ord ty d a b e), (1, .amoMin f ord ty d a b e), (2, .amoMax f ord ty d a b e), (3, .amoAnd f ord ty d a b e),
      (4, .amoOr f ord ty d a b e), (5, .amoXor f ord ty d a b e), (6, .amoSwap f ord ty d a b e), (7, .amoCas f ord ty d a b e),
      (8, .amoFadd f ord ty d a b e), (9, .amoXacc f ord ty a b e)] →
    let w := s.cur
    let n := if op = 9 then 16 else if op = 8 ∨ ty = .i32 ∨ ty = .n32 then 4 else 8
    let ea := s.reg w a
    let cl := clusterOf w.core
    let ret : Bool := decide (d ≠ 0) && op != 9
    let rel : Bool := ord == .rel || ord == .ar
    let acq : Bool := ord == .acq || ord == .ar
    let ops := (if op = 9 then [Opnd.feat 3] else if op = 7 then [.src d, .dst d] else [.dst d]) ++ [.mem, .src a, .src b, .scope e]
    let scope := (decodeScope (s.scopeWord w e)).getD .package
    let B := (s.reg w b).toNat
    let D := (s.reg w d).toNat
    let m := 2 ^ (8 * n)
    let sv := fun x : Nat => if op = 8 then (x : Int) else if isSigned ty then sval (8 * n) x else (x : Int)
    let new : Nat → Option Nat := fun o =>
      if op = 0 then some ((o + B % m) % m) else if op = 1 then some (if sv o ≤ sv (B % m) then o else B % m)
      else if op = 2 then some (if sv o ≤ sv (B % m) then B % m else o) else if op = 3 then some (o &&& B % m)
      else if op = 4 then some (o ||| B % m) else if op = 5 then some (o ^^^ B % m) else if op = 6 then some (B % m)
      else if op = 7 then (if o = B % m then some (D % m) else none)
      else some (roundTo (fmtOf .f32) 0 false (numAdd 0 (fVal (fmtOf .f32) o) (fVal (fmtOf .f32) (B % m))).1).1
    let perform : State → Nat → State := fun s0 x =>
      let pts := (s0.strand w).points
      let s1 := s0.learn w x n
      let s2 :=
        if op = 9 then (s1.write x 16 (xaccAdd (s1.read x 16) (B % 2 ^ 32))).setHeads pts true x 16
        else match new (s1.read x n) with
          | some v => ((s1.write x n v).clearUnits x n).setHeads pts true x n
          | none => s1
      let s3 := s2.forget w x n
      if op = 9 ∨ (new (s1.read x n)).isSome = true then s3.missed (s0.strand w).birth (s.via w ea) x n else s3
    let here : Nat → State → Nat → State := fun obj s0 x =>
      let s1 := perform s0 x
      let s2 := if ret then s1.setReg w d (extend (s0.read x n : Int) (if op = 8 then .n32 else ty)) else s1
      if acq then s2.takeScoped w (.ranges (s.bindsOf (s.ctxOf w.core) (some obj))) scope else s2
    Able s f ops → ty ≠ .f32 ∨ op = 8 ∨ op = 9 →
      (ea.toNat % n ≠ 0 → exec i s = traps s f { code := .align, va := ea, kind := 2 }) ∧
      (∀ p, ea.toNat % n = 0 → s.pieces w .atomic .amo [(ea, n)] = .ok [p] → s.mustWaitHome w p.at_ n = false →
        p.x.claim = false ∨ s.cut w p.at_ = false →
        let obj := s.objFlat w p.at_
        (rel = true → s.relBusy w (.object obj) (s.scopeOf w e) = false) →
        (acq = true → s.readsBusy w = false ∧ s.takeCut w (.object obj) = false) →
        let s1 := s.useXlat w p.x
        let s2 := if rel then s1.publish w (.object obj) (s.scopeOf w e) else s1
        let own := fun x : Nat => s2.owners.lookup (x / 64) == some cl && !s2.drooping w.core
        let quiet := fun x : Nat => (s2.eccCause cl x n).isNone && (p.x.claim || (!s2.contested cl x && !(s.strand w).late)) &&
          (own x || !s2.cut w p.at_)
        let owned := fun x : Nat =>
          let t := here obj ((s2.bypass cl x n).recall cl x) x
          retires s f ops 40 ((({ t with owners := AMap.put t.owners (x / 64) cl } : State).ackNow w).setLate w false)
        let reach := fun x : Nat => !s2.deadPeer p.at_ && !s2.behind w true x n
        (∀ x, p.at_ = .lm x →
          (s2.eccCause cl x n = none → exec i s = retires s f ops 40 ((here obj s2 x).setLate w false)) ∧
          (∀ c, s2.eccCause cl x n = some c →
            (ret = false → c ≠ 31 → exec i s = traps s f { code := .ecc, cause := c, va := ea, kind := 2 }) ∧
            (ret = false → c = 31 → ∃ t q, exec i s = retires s f ops 40 t ∧ t.pkt s2.nextId = some q ∧ q.refused = true ∧ q.flat = x ∧
              t.mem = s2.mem) ∧
            (ret = true → ∃ t l, exec i s = retires s f ops 40 t ∧ (t.strand w).loads = (s2.strand w).loads ++ [l] ∧ l.poison = c ∧
              l.d = d ∧ t.mem = s2.mem))) ∧
        (∀ x sy, p.at_ = .hbm x sy → quiet x = true → exec i s = owned x) ∧
        (∀ m x sy, p.at_ = .peer m x sy → quiet x = true → reach x = true → exec i s = owned x) ∧
        ((∃ x sy, p.at_ = .hbm x sy ∧ quiet x = false) ∨ (∃ c o, p.at_ = .away c o) ∨
            (∃ m x sy, p.at_ = .peer m x sy ∧ (quiet x && reach x) = false) →
          ∃ t q, exec i s = retires s f ops 40 t ∧ t.pkt s2.nextId = some q ∧ t.nextId = s2.nextId + 1 ∧ t.mem = s2.mem ∧
            q.flat = p.at_.flat ∧ q.data = (s.reg w b).setWidth 512 ∧ (op ≠ 9 → q.cmp = s.reg w d) ∧ q.ret = ret ∧
            (t.strand w).loads.length = (s2.strand w).loads.length + (if ret || acq then 1 else 0)))) ∧
  (∀ (s : State) (cl x : Nat), s.contested cl x = decide (2 ≤ (AMap.get (0 : BitVec 2) (AMap.get [] s.predict cl) (x / 64 % 256)).toNat)) ∧
  (∀ (s : State) (cl : Nat), ∃ t : State, exec (.predictorDecay cl) s = becomes t.wake ∧
    (∀ k, (AMap.get (0 : BitVec 2) (AMap.get [] t.predict cl) k).toNat = (AMap.get (0 : BitVec 2) (AMap.get [] s.predict cl) k).toNat - 1) ∧
    (∀ c k, c ≠ cl → AMap.get (0 : BitVec 2) (AMap.get [] t.predict c) k = AMap.get (0 : BitVec 2) (AMap.get [] s.predict c) k) ∧
    { t with predict := s.predict } = s)

/-- ld.acq and st.rel: where they perform, what they wait for, and their traps. ld.acq waits for the strand's earlier reads, and at a control register for its links; with nothing to wait for it completes: from the own LM it writes d with the extended value and takes in its object's bytes at once; from HBM, host memory, another core or another module it leaves a read that holds the strand's later memory accesses back until it has read, with the ranges bound to its object at its issue. st.rel waits while a write or push its object covers is not acknowledged, and while the links to a place where it performs at its issue do not carry it; then what the object covers is published, and the value is written: in LM, or at the home of HBM and host memory, there at once or, where it is to perform later (R426, log entry 61), by a store on its way. A misaligned address traps ALIGN. -/
def Obligations.AcquireAndReleaseAccesses : Prop :=
  ∀ (f : Form) (ty : Ty) (d a e : Reg) (s : State),
    let w := s.cur
    let n := memWidth ty
    let ea := s.reg w a
    let cl := clusterOf w.core
    let scope := (decodeScope (s.scopeWord w e)).getD .package
    let tied := fun obj : Nat => s.bindsOf (s.ctxOf w.core) (some obj)
    let lops : List Opnd := [.mem, .dst d, .src a, .scope e]
    let sops : List Opnd := [.mem, .src d, .src a, .scope e]
    (Able s f lops →
      (ea.toNat % n ≠ 0 → exec (.ldAcq f ty d a e) s = traps s f { code := .align, va := ea }) ∧
      (∀ p, ea.toNat % n = 0 → s.pieces w .load .all [(ea, n)] = .ok [p] → s.mustWait w false p.at_.flat n = false →
        let busy : Bool := s.readsBusy w || s.mmioCut w p.at_ || s.takeCut w (.object (s.objFlat w p.at_))
        (busy = true → exec (.ldAcq f ty d a e) s = waits s (mkWait .remote true 0 0)) ∧
        (busy = false →
          let s1 := s.useXlat w p.x
          let obj := s.objFlat w p.at_
          (∀ x, p.at_ = .lm x → s1.eccCause cl x n = none →
            exec (.ldAcq f ty d a e) s = retires s f lops 4
              ((((s1.forget w x n).learn w x n).setReg w d (loadExtend (s1.read x n) ty)).takeScoped w (.ranges (tied x)) scope)) ∧
          (∀ x, p.at_ = .mmio x →
            exec (.ldAcq f ty d a e) s = retires s f lops 40
              (((s1.setReg w d (loadExtend (s1.mmioGet x n % 2 ^ (8 * n)) ty)).ackNow w).takeScoped w (.ranges (tied x)) scope)) ∧
          ((∀ x, p.at_ ≠ .lm x) → (∀ x, p.at_ ≠ .mmio x) →
            ∃ t l q, exec (.ldAcq f ty d a e) s = retires s f lops 40 t ∧ (t.strand w).loads = (s1.strand w).loads ++ [l] ∧
              l.acq = some ⟨obj, s.scopeWord w e, tied obj⟩ ∧ l.d = d ∧ l.ty = ty ∧ l.pkt = some s1.nextId ∧ t.pkt s1.nextId = some q ∧
              q.flat = p.at_.flat ∧ q.bytes = n ∧ able t w .mem = false ∧ t.mem = s1.mem)))) ∧
    (Able s f sops →
      (ea.toNat % n ≠ 0 → exec (.stRel f ty d a e) s = traps s f { code := .align, va := ea, kind := 1 }) ∧
      (∀ p, ea.toNat % n = 0 → s.pieces w .store .all [(ea, n)] = .ok [p] → s.mustWaitHome w p.at_ n = false →
        s.narrowBad p.at_.flat n = false →
        let c : Cover := .object (s.objFlat w p.at_)
        let later : Bool := (s.strand w).late && !p.x.claim
        let cut : Bool := s.cut w p.at_ && match p.at_ with
          | .mmio _ => true
          | .hbm _ _ | .host _ => !later
          | _ => p.x.claim
        (s.relBusy w c (s.scopeOf w e) = true ∨ cut = true → exec (.stRel f ty d a e) s = waits s (mkWait .remote true 0 0)) ∧
        (s.relBusy w c (s.scopeOf w e) = false → cut = false →
          let s1 := (s.useXlat w p.x).publish w c (s.scopeOf w e)
          let v := (s.reg w d).toNat
          let ends := fun (eu : Nat) (t : State) => exec (.stRel f ty d a e) s = retires s f sops eu (t.setLate w false)
          let filled := fun (t : State) (x : Nat) => if p.x.claim then t.writeBack cl (x / 64) else t
          let home := fun x : Nat =>
            (later = false →
              ends 40 ((((((s1.wrote w (s.via w ea) x n).bypass cl x n).recall cl x).write x n v).clearUnits x n).ackNow w)) ∧
            (later = true → ∃ t q, ends 40 t ∧ t.pkt s1.nextId = some q ∧ q.kind = .store false ∧ q.flat = x ∧ q.bytes = n ∧
              q.data = BitVec.ofNat 512 v ∧ q.landed = false ∧ t.mem = s1.mem)
          (∀ x, p.at_ = .lm x → ends 4 (filled (((s1.wrote w none x n).write x n v).clearUnits x n) x)) ∧
          (∀ x sy, p.at_ = .hbm x sy → home x) ∧ (∀ x, p.at_ = .host x → home x) ∧
          (∀ x, p.at_ = .mmio x → ends 40 ((filled (s1.mmioPut w.core x n v) x).ackNow w)) ∧
          ((∃ c o, p.at_ = .away c o) ∨ (∃ m x sy, p.at_ = .peer m x sy) → ends 40 (s1.storeAt w p v)))))

/-- The seven fences complete once nothing is left to wait for: what they wait for, what they publish and take in. An acquire fence waits for the strand's earlier reads, a release fence for those and the earlier writes it covers, a full fence for both with every write; fence.ack waits until no operation is unacknowledged. With nothing of that left, each of fence.acq, fence.rel, fence.full, their .all forms and fence.ack completes: it retires with 1 eu, a release having published what it covers (bound bytes, all bytes for the .all forms), an acquire having taken in what it covers, a full fence with every written byte of its cluster sent home before; an acquire waits too while a covered written line cannot go home. Publishing to a scope beyond the cluster puts every written byte of a covered line of the own cluster's cache into memory and leaves the line clean; taking in leaves no covered line in that cache; no other cluster's cache changes, and no register. -/
def Obligations.FencesPublishAndTakeIn : Prop :=
  (∀ (f : Form) (a : Reg) (s : State), Able s f [.scope a] →
    let w := s.cur
    let sc := s.scopeOf w a
    let waiting := fun i : Instr => exec i s = waits s (mkWait .remote true 0 0)
    (s.readsBusy w = true →
      waiting (.fenceAcq f a) ∧ waiting (.fenceAcqAll f a) ∧ waiting (.fenceFull f a) ∧ waiting (.fenceFullAll f a)) ∧
    (s.takeCut w .bound = true → waiting (.fenceAcq f a) ∧ waiting (.fenceFull f a)) ∧
    (s.takeCut w .all = true → waiting (.fenceAcqAll f a) ∧ waiting (.fenceFullAll f a)) ∧
    (s.relBusy w .bound sc = true → waiting (.fenceRel f a)) ∧
    (s.relBusy w .all sc = true → waiting (.fenceRelAll f a) ∧ waiting (.fenceFull f a) ∧ waiting (.fenceFullAll f a)) ∧
    (s.readsBusy w = false →
      (s.takeCut w .bound = false → exec (.fenceAcq f a) s = retires s f [.scope a] 1 (s.takeScoped w .bound sc)) ∧
      (s.takeCut w .all = false → exec (.fenceAcqAll f a) s = retires s f [.scope a] 1 (s.takeScoped w .all sc))) ∧
    (s.relBusy w .bound sc = false → exec (.fenceRel f a) s = retires s f [.scope a] 1 (s.publish w .bound sc)) ∧
    (s.relBusy w .all sc = false → exec (.fenceRelAll f a) s = retires s f [.scope a] 1 (s.publish w .all sc)) ∧
    (s.readsBusy w = false → s.relBusy w .all sc = false →
      let full := fun c : Cover =>
        ((((s.sendHome w .all sc).markEarly w c sc).takeScoped w c sc).keepEarly w (fun _ => false)).doomFetched w
      (s.takeCut w .bound = false → exec (.fenceFull f a) s = retires s f [.scope a] 1 (full .bound)) ∧
      (s.takeCut w .all = false → exec (.fenceFullAll f a) s = retires s f [.scope a] 1 (full .all)))) ∧
  (∀ (f : Form) (s : State), let ops : List Opnd := [.status 0x1F, .status 0x20, .status 0x21, .status 0x22]
    Able s f ops →
    let idle := [0, 1, 2, 3].all (fun n => packOut ((s.strand s.cur).pack n) == 0)
    (idle = true → exec (.fenceAck f) s = retires s f ops 1 s) ∧
    (idle = false → exec (.fenceAck f) s = waits s (mkWait .fenceAck true 0 0))) ∧
  (∀ (s : State) (w : Who) (c : Cover) (sc : Scope) (ln : Nat) (l : Line), s.line (clusterOf w.core) ln = some l →
    let cov := s.covers (s.ctxOf w.core) c (64 * ln) 64
    let out := s.publish w c sc
    let into := s.takeScoped w c sc
    let all := s.takeIn w c
    let home := fun (t : State) => ∀ k, k < 64 → l.dirty.getLsbD k = true →
      memByte t.mem (64 * ln + k) = BitVec.ofNat 8 (l.data.toNat / 256 ^ k)
    (cov = true →
      (sc.beyond (clusterOf w.core) = true ∨ isPeer (64 * ln) = true →
        (∃ l', out.line (clusterOf w.core) ln = some l' ∧ l'.dirty = 0 ∧ l'.data = l.data) ∧ home out) ∧
      into.line (clusterOf w.core) ln = none ∧ home into ∧ all.line (clusterOf w.core) ln = none ∧ home all) ∧
    (cov = false → out.line (clusterOf w.core) ln = some l ∧ into.line (clusterOf w.core) ln = some l ∧
      all.line (clusterOf w.core) ln = some l)) ∧
  (∀ (s : State) (w : Who) (c : Cover) (sc : Scope) (t : State), t ∈ [s.publish w c sc, s.takeScoped w c sc, s.takeIn w c] →
    (∀ x, { t.strand x with early := [], points := [] } = { s.strand x with early := [], points := [] }) ∧
    (∀ x r, t.reg x r = s.reg x r) ∧ (∀ c, { t.live c with strands := [] } = { s.live c with strands := [] }) ∧
    ∀ cl, cl ≠ clusterOf w.core → t.cache cl = s.cache cl)

/-- bind and unbind change the bind table on their range alone; wbr writes back and invr drops the lines of theirs. bind with an aligned range and a sync object that translates ties every byte of the range to the object and leaves every other byte tied as it was; unbind leaves the bytes of its range tied to nothing; a length of 0 changes nothing. Each of the two completes with the table cut to the rest of its range, the bind's entry added in address order and adjacent entries of one object merged; where that has more than 4,096 entries, it traps ACCESS with CAUSE 38 and the table stays. A range that is not a multiple of 64 traps ALIGN. wbr and invr complete with no access on its way that they wait for and no written line of their range that cannot go home, and wait else: wbr leaves every line of its range clean with its written bytes in memory, invr holds no line of its range, and both leave the other lines of the cache as they were. That a bind needs of its object's page what a load needs is log entry 83. -/
def Obligations.BindsAndCacheRanges : Prop :=
  ∀ (f : Form) (d a b : Reg) (s : State),
    let w := s.cur
    let ctx := s.ctxOf w.core
    let base := (s.reg w a).toNat
    let len := (s.reg w b).toNat
    let bops : List Opnd := [.mem, .src d, .src a, .src b]
    let uops : List Opnd := [.mem, .src a, .src b]
    let tied := fun (bs : List (Nat × Nat × Nat)) (v : Nat) => (bs.find? (fun e => decide (e.1 ≤ v ∧ v < e.1 + e.2.1))).map (·.2.2)
    let old := (s.ctxRec ctx).binds
    let rest := (old.map (cutBind base len)).flatten
    let full : Trap := { code := .access, cause := 38, va := s.reg w a }
    let cl := clusterOf w.core
    (Able s f bops →
      (base % 64 ≠ 0 ∨ len % 64 ≠ 0 → exec (.bind f d a b) s = traps s f { code := .align, va := s.reg w a }) ∧
      (∀ x o, base % 64 = 0 → len % 64 = 0 → (s.reg w d).toNat % 8 = 0 → s.translate w (s.reg w d) .load .object = .ok x →
        (x.tgt = .hbm o true ∨ (∃ off, x.tgt = .lm w.core off ∧ (lmPhys (s.strand w).hold off).map (lmFlat w.core) = some o) ∨
          (∃ c off, x.tgt = .lm c off ∧ c ≠ w.core ∧ off < 0x20000 ∧ lmFlat c off = o)) →
        (len = 0 → exec (.bind f d a b) s = retires s f bops 16 (s.useXlat w x)) ∧
        (0 < len →
          let bs := mergeBinds (insBind (base, len, o) rest)
          (bs.length ≤ 4096 → exec (.bind f d a b) s = retires s f bops 16 ((s.useXlat w x).setBinds ctx bs)) ∧
          (4096 < bs.length → exec (.bind f d a b) s = traps s f full) ∧
          ∀ v, tied bs v = if base ≤ v ∧ v < base + len then some o else tied old v))) ∧
    (Able s f uops →
      (base % 64 ≠ 0 ∨ len % 64 ≠ 0 → exec (.unbind f a b) s = traps s f { code := .align, va := s.reg w a }) ∧
      (base % 64 = 0 → len = 0 → exec (.unbind f a b) s = retires s f uops 16 s) ∧
      (base % 64 = 0 → len % 64 = 0 → 0 < len →
        (rest.length ≤ 4096 → exec (.unbind f a b) s = retires s f uops 16 (s.setBinds ctx rest)) ∧
        (4096 < rest.length → exec (.unbind f a b) s = traps s f full) ∧
        ∀ v, tied rest v = if base ≤ v ∧ v < base + len then none else tied old v) ∧
      (let rs := s.lineRanges w (s.reg w a) (s.reg w b)
       let writes : Bool := (s.mine w).any (fun e => e.2.kind.writes && inRanges rs e.2.flat e.2.bytes)
       let cut : Bool := s.anyCut w (inRanges rs)
       (writes = true ∨ cut = true → exec (.wbr f a b) s = waits s (mkWait .remote true 0 0)) ∧
       (s.readsBusy w = true ∨ cut = true → exec (.invr f a b) s = waits s (mkWait .remote true 0 0)) ∧
       (writes = false → cut = false →
          ∃ t, exec (.wbr f a b) s = retires s f uops 16 t ∧ t.cores = s.cores ∧
            ∀ ln l, s.line cl ln = some l →
              (inRanges rs (64 * ln) 64 = true →
                (∃ l', t.line cl ln = some l' ∧ { l' with vias := l.vias } = { l with dirty := 0 }) ∧
                ∀ k, k < 64 → l.dirty.getLsbD k = true → memByte t.mem (64 * ln + k) = BitVec.ofNat 8 (l.data.toNat / 256 ^ k)) ∧
              (inRanges rs (64 * ln) 64 = false → t.line cl ln = some l)) ∧
       (s.readsBusy w = false → cut = false →
          ∃ t, exec (.invr f a b) s = retires s f uops 16 t ∧ ((s.strand w).early = [] → t.cores = s.cores) ∧
            CoreFrame s t (fun st => { st with early := [] }) [] [] ∧
            ∀ ln l, s.line cl ln = some l → t.line cl ln = if inRanges rs (64 * ln) 64 then none else some l)))

/-- Element-wise tile instructions: each active element, each inactive element, the tag, the flags and the FPE trap. For each element-wise instruction with its types: element j of row i of d, active when i < ROWS, MASK[i] = 1 and j < COLS, takes F of the source elements as R178 to R183, R187 and R189 give it, and every inactive element keeps its value; the tag of d becomes 0, the flags of all active elements are ORed into FFLAG, and nothing else of the strand, no other tile and no memory changes. When a raised flag is enabled in FCTL the instruction traps FPE with the flags in INFO and has no effect. The sources are read before the destination is written, whatever tiles coincide. -/
def Obligations.TileElementResults : Prop :=
  ∀ (f : Form) (ty : Ty) (sat : Bool) (d a b e : Tile) (n8 : BitVec 8) (cond : BitVec 3) (v : Src) (s : State)
    (i : Instr) (wd : Nat) (ops : List Opnd) (F : Nat → Nat → Nat × FFlags),
    let w := s.cur
    let st := s.strand w
    let c := st.fctl
    let m := fctlMode c
    let fm := fmtOf ty
    let n := ty.tileWidth
    let el := fun (t : Tile) (row col : Nat) => (s.tile w t).elem n row col
    let iv := fun (x : Nat) => if isSigned ty then sval n x else (x : Int)
    let lo : Int := if isSigned ty then -((2 ^ (n - 1) : Nat) : Int) else 0
    let hi : Int := if isSigned ty then ((2 ^ (n - 1) - 1 : Nat) : Int) else ((2 ^ n - 1 : Nat) : Int)
    let put := fun (x : Int) => wrap n (if sat then max lo (min x hi) else x)
    let arith := fun (g : Machine.Num → Machine.Num → Machine.Num × FFlags) (h : Int → Int → Int) (r k : Nat) =>
      if ty.isFT then rounded fm c (g (readF fm c (el a r k)) (readF fm c (el b r k))) else (put (h (iv (el a r k)) (iv (el b r k))), (0 : FFlags))
    let fl1 := fun (x : Nat) => fIn fm (fctlFz c) x
    let ity := if ty = .i64 then Ty.i32 else ty
    let sh := fun (k : TShift) (r j : Nat) => match k with | .tile t => el t r j | .imm x => x.toNat
    let special1 := fun (g : Machine.Num → Machine.Num × FFlags) (r k : Nat) => rounded fm c (g (readF fm c (el a r k)))
    let lt := if ty = .i64 then Ty.i8 else ty
    ((i, wd, ops, F) ∈ [
      (Instr.tadd f ty sat d a b, n, [Opnd.tsrc a, .tsrc b], arith (numAdd m) (· + ·)),
      (.tsub f ty sat d a b, n, [.tsrc a, .tsrc b], arith (numSub m) (· - ·)),
      (.tmul f ty sat d a b, n, [.tsrc a, .tsrc b], arith numMul (· * ·)),
      (.tmin f ty d a b, n, [.tsrc a, .tsrc b], fun r k => if ty.isFT then fMinMax fm false (fl1 (el a r k)) (fl1 (el b r k))
        else (if iv (el a r k) ≤ iv (el b r k) then el a r k else el b r k, 0)),
      (.tmax f ty d a b, n, [.tsrc a, .tsrc b], fun r k => if ty.isFT then fMinMax fm true (fl1 (el a r k)) (fl1 (el b r k))
        else (if iv (el a r k) ≤ iv (el b r k) then el b r k else el a r k, 0)),
      (.tand f ty d a b, n, [.tsrc a, .tsrc b], fun r k => (el a r k &&& el b r k, 0)),
      (.tor f ty d a b, n, [.tsrc a, .tsrc b], fun r k => (el a r k ||| el b r k, 0)),
      (.txor f ty d a b, n, [.tsrc a, .tsrc b], fun r k => (el a r k ^^^ el b r k, 0)),
      (.tshl f ty d a (.tile b), n, [.tsrc a, .tsrc b], fun r k => (el a r k * 2 ^ sh (.tile b) r k % 2 ^ n, 0)),
      (.tshl f ty d a (.imm n8), n, [.tsrc a], fun r k => (el a r k * 2 ^ sh (.imm n8) r k % 2 ^ n, 0)),
      (.tshr f ty d a (.tile b), n, [.tsrc a, .tsrc b], fun r k =>
        (wrap n ((if isSigned ity then sval n (el a r k) else (el a r k : Int)) / ((2 ^ sh (.tile b) r k : Nat) : Int)), 0)),
      (.tshr f ty d a (.imm n8), n, [.tsrc a], fun r k =>
        (wrap n ((if isSigned ity then sval n (el a r k) else (el a r k : Int)) / ((2 ^ sh (.imm n8) r k : Nat) : Int)), 0)),
      (.tfma f ty sat d a b e, n, [.tsrc a, .tsrc b, .tsrc e], fun r k =>
        if ty.isFT then rounded fm c (numFma m (readF fm c (el a r k)) (readF fm c (el b r k)) (readF fm c (el e r k)))
        else (put (iv (el a r k) * iv (el b r k) + iv (el e r k)), 0)),
      (.tcmp f ty cond d a b, n, [.tsrc a, .tsrc b], fun r k =>
        let q := if ty.isFT then fCompare fm cond.toNat (fl1 (el a r k)) (fl1 (el b r k))
          else (intCond cond.toNat (iv (el a r k)) (iv (el b r k)), 0)
        (if q.1 then 2 ^ n - 1 else 0, q.2)),
      (.tsel f ty d a b e, n, [.tsrc a, .tsrc b, .tsrc e], fun r k => (if el e r k ≠ 0 then el a r k else el b r k, 0)),
      (.tmov f ty d a, n, [.tsrc a], fun r k => (el a r k, 0)),
      (.tzero f ty d, n, [], fun _ _ => (0, 0)),
      (.tiota f ty d n8, n, [], fun r k => if ty.isFT then rounded fm c (Num.ofInt ((r * n8.toNat + k : Nat) : Int), 0)
        else ((r * n8.toNat + k) % 2 ^ n, 0)),
      (.tabs f ty sat d a, n, [.tsrc a], fun r k => if ty.isFT then
          (if fIsNan fm (fl1 (el a r k)) then (fm.nan, if fIsSnan fm (fl1 (el a r k)) then fNV else 0) else (fl1 (el a r k) % 2 ^ (n - 1), 0))
        else (put ((iv (el a r k)).natAbs : Int), 0)),
      (.tneg f ty sat d a, n, [.tsrc a], fun r k => if ty.isFT then
          (if fIsNan fm (fl1 (el a r k)) then (fm.nan, if fIsSnan fm (fl1 (el a r k)) then fNV else 0)
           else ((fl1 (el a r k) + 2 ^ (n - 1)) % 2 ^ n, 0))
        else (put (-(iv (el a r k))), 0)),
      (.texp2 f ty d a, n, [.tsrc a], special1 (special 0)), (.tlog2 f ty d a, n, [.tsrc a], special1 (special 1)),
      (.trcp f ty d a, n, [.tsrc a], special1 (special 2)), (.trsqrt f ty d a, n, [.tsrc a], special1 (special 3)),
      (.ttanh f ty d a, n, [.tsrc a], special1 (special 4)),
      (.tbcast f ty d v, n, srcOps v, fun _ _ => ((s.src w v).toNat % 2 ^ n, 0)),
      (.tperm f ty d a b, n, [.tsrc a, .tsrc b], fun r k =>
        (if (s.tile w b).elem 8 r k < 512 / n then el a r ((s.tile w b).elem 8 r k) else 0, 0)),
      (.tlut f ty d a n8, lt.tileWidth, [.feat 1, .tsrc a], fun r k =>
        let x : Int := sval 8 ((s.live w.core).lut.toNat / 2 ^ (8 * (s.tile w a).elem 4 r (k + n8.toNat * (512 / lt.tileWidth))))
        (if lt.isFT then (roundTo (fmtOf lt) 0 false (Num.ofInt x)).1 else wrap lt.tileWidth x, 0))]) →
    Able s f (.tdst d :: ops) →
      let act := fun (r k : Nat) => decide (r < 16) && decide (k < 512 / wd) && decide (r < st.rows) && st.mask.getLsbD r && decide (k < st.cols)
      let flags := ((List.range 16).flatMap (fun r => ((List.range (512 / wd)).filter (act r)).map (fun k => (F r k).2))).foldl (· ||| ·) 0
      (flags &&& (c >>> 4).setWidth 5 ≠ 0 → exec i s = traps s f { code := .fpe, info := flags.toNat }) ∧
      (flags &&& (c >>> 4).setWidth 5 = 0 → ∃ t, exec i s = .next t ∧
        (∀ r k, r < 16 → k < 512 / wd →
          (t.tile w d).elem wd r k = if act r k then (F r k).1 % 2 ^ wd else (s.tile w d).elem wd r k) ∧
        (∀ p, st.poolTile d = some p → (t.live w.core).tag p = 0) ∧
        (t.strand w).fflag = st.fflag ||| flags.setWidth 64 ∧
        CoreFrame s t (fun q => { q with fflag := 0 }) [] [d] ∧ NothingElse s t)

/-- tset, plain and MX tcvt, trowred and tcolred write the elements their rules name and keep the others. tset writes one element whatever SHAPE and MASK hold. Plain tcvt converts the source element R184 names for each active destination element and writes no other. An .mx encode writes, in each active row, the 64 codes and the two scale bytes of its two blocks; a decode writes the 32 values of each block. trowred puts the pair tree of the active elements of each active row into element 0 of that row; tcolred puts the pair tree of each active column, or the empty result, into element j mod N of row j div N. Tags become 0; flags are raised, or trap FPE. -/
def Obligations.TileSetConvertAndReduce : Prop :=
  ∀ (f : Form) (ty dty sty : Ty) (op p : BitVec 2) (wide : Bool) (d a b e : Tile) (row : BitVec 4) (col : BitVec 8) (v : Src) (s : State),
    let w := s.cur
    let st := s.strand w
    let c := st.fctl
    let act := fun r : Nat => decide (r < st.rows) && st.mask.getLsbD r
    let ends := fun (i : Instr) (flags : FFlags) (ds : List Tile) (good : State → Prop) =>
      (flags &&& (c >>> 4).setWidth 5 ≠ 0 → exec i s = traps s f { code := .fpe, info := flags.toNat }) ∧
      (flags &&& (c >>> 4).setWidth 5 = 0 → ∃ t, exec i s = .next t ∧ good t ∧ (t.strand w).fflag = st.fflag ||| flags.setWidth 64 ∧
        (∀ x ∈ ds, ∀ q, st.poolTile x = some q → (t.live w.core).tag q = 0) ∧
        CoreFrame s t (fun q => { q with fflag := 0 }) [] ds ∧ NothingElse s t)
    let all := fun (xs : List FFlags) => xs.foldl (· ||| ·) (0 : FFlags)
    (Able s f (.tdst d :: srcOps v) → col.toNat < 512 / ty.tileWidth →
      ends (.tset f ty d row col v) 0 [d] (fun t => ∀ r k, r < 16 → k < 512 / ty.tileWidth →
        (t.tile w d).elem ty.tileWidth r k =
          if r = row.toNat ∧ k = col.toNat then (s.src w v).toNat % 2 ^ ty.tileWidth else (s.tile w d).elem ty.tileWidth r k)) ∧
    (Able s f [.tdst d, .tsrc a] →
      let dt := tyOr dty .f32
      let ft := tyOr sty .f32
      let nd := dt.perRow
      let ns := ft.perRow
      let from_ : Nat → Option Nat := fun k => if nd ≤ ns then some (k + p.toNat * nd)
        else if p.toNat * ns ≤ k ∧ k < p.toNat * ns + ns then some (k - p.toNat * ns) else none
      let val := fun (r j : Nat) => convTo ft dt c (convVal ft c ((s.tile w a).elem ft.tileWidth r j))
      let on := fun (r k : Nat) => act r && decide (k < st.cols)
      let flags := all ((List.range 16).flatMap (fun r => ((List.range nd).filter (on r)).map (fun k =>
        match from_ k with | some j => (val r j).2 | none => 0)))
      ends (.tcvt f dty sty d a (.plain p)) flags [d] (fun t => ∀ r k, r < 16 → k < nd →
        (t.tile w d).elem dt.tileWidth r k = match from_ k with
          | some j => if on r k then (val r j).1 % 2 ^ dt.tileWidth else (s.tile w d).elem dt.tileWidth r k
          | none => (s.tile w d).elem dt.tileWidth r k)) ∧
    (Able s f [.tdst d, .tdst e, .tsrc a, .tsrc b] → d ≠ e → st.poolTile d ≠ st.poolTile e →
      let block := fun (t : Tile) (r : Nat) => (List.range 32).map (fun j => readF (fmtOf sty) c (elem ((s.tile w t).row r) (fmtOf sty).w j))
      let q := fun (t : Tile) (r : Nat) => mxQuantise (fmtOf dty) c (block t r)
      ends (.tcvt f dty sty d a (.enc b e)) (all (((List.range 16).filter act).flatMap (fun r => [(q a r).2.2, (q b r).2.2]))) [d, e] (fun t =>
        ∀ r, r < 16 →
          (act r = true → (∀ j, j < 32 → (t.tile w d).elem 8 r j = (q a r).2.1.getD j 0 % 256 ∧
              (t.tile w d).elem 8 r (32 + j) = (q b r).2.1.getD j 0 % 256) ∧
            (t.tile w e).row r = BitVec.ofNat 512 ((q a r).1 + 256 * (q b r).1)) ∧
          (act r = false → (t.tile w d).row r = (s.tile w d).row r ∧ (t.tile w e).row r = (s.tile w e).row r))) ∧
    (Able s f [.tdst d, .tdst e, .tsrc a, .tsrc b] → d ≠ e → st.poolTile d ≠ st.poolTile e →
      let q := fun (r m j : Nat) => rounded (fmtOf dty) c
        (mxValue (fmtOf sty) ((s.tile w b).elem 8 r m) (fIn (fmtOf sty) (fctlFz c) ((s.tile w a).elem 8 r (32 * m + j))), 0)
      ends (.tcvt f dty sty d a (.dec b e))
        (all (((List.range 16).filter act).flatMap (fun r => (List.range 2).flatMap (fun m => (List.range 32).map (fun j => (q r m j).2))))) [d, e]
        (fun t => ∀ r, r < 16 →
          (act r = true → ∀ j, j < 32 → (t.tile w d).elem 16 r j = (q r 0 j).1 % 2 ^ 16 ∧ (t.tile w e).elem 16 r j = (q r 1 j).1 % 2 ^ 16) ∧
          (act r = false → (t.tile w d).row r = (s.tile w d).row r ∧ (t.tile w e).row r = (s.tile w e).row r))) ∧
    (Able s f [.tdst d, .tsrc a] →
      let u := wideTy ty wide
      let n := ty.tileWidth
      let x := fun (r k : Nat) => redIn ty u c ((s.tile w a).elem n r k)
      let rowRes := fun r : Nat => pairTree (combine op.toNat u c) 7 ((List.range (512 / n)).map (fun k => if k < st.cols then some (x r k) else none))
      let colRes := fun k : Nat => (pairTree (combine op.toNat u c) 4 ((List.range 16).map (fun r => if act r then some (x r k) else none))).getD
        (emptyRed op.toNat u, 0)
      let ncols := min st.cols (512 / n)
      ends (.trowred f ty op wide d a) (all (((List.range 16).filter act).map (fun r => match rowRes r with | some y => y.2 | none => 0))) [d]
        (fun t => ∀ r k, r < 16 → k < u.perRow → (t.tile w d).elem u.tileWidth r k =
          match rowRes r with
          | some y => if act r = true ∧ k = 0 then redOut u y.1 % 2 ^ u.tileWidth else (s.tile w d).elem u.tileWidth r k
          | none => (s.tile w d).elem u.tileWidth r k) ∧
      ends (.tcolred f ty op wide d a) (all ((List.range ncols).map (fun k => (colRes k).2))) [d]
        (fun t => ∀ r k, r < 16 → k < u.perRow → (t.tile w d).elem u.tileWidth r k =
          if r * u.perRow + k < ncols then redOut u (colRes (r * u.perRow + k)).1 % 2 ^ u.tileWidth else (s.tile w d).elem u.tileWidth r k))

/-- ttrans, tlutload, tplanes and tunplanes; the order and the sign of fields that bsget.t unpacks. ttrans writes elements 16h to 16h+15 of every row with the transposed block of a and keeps the rest, whatever SHAPE and MASK hold; tlutload puts the low 128 bits of row 0 into the core's table; tplanes puts bit 7 - p of byte j of each active row into bit j of plane p; tunplanes puts into byte j the value that R75 reads of it at depth k; bsget.t gives the active elements, by row and then by element, the next n stream bits each, extended by the type, and moves BITPTR past them all, without effect when a byte of them faults. -/
def Obligations.TileMovesTablesAndPlanes : Prop :=
  ∀ (f : Form) (ty : Ty) (d a : Tile) (h n8 : BitVec 8) (k4 : BitVec 4) (s : State),
    let w := s.cur
    let st := s.strand w
    let n := ty.tileWidth
    let act := fun r : Nat => decide (r < st.rows) && st.mask.getLsbD r
    let tagged := fun (t : State) => ∀ q, st.poolTile d = some q → (t.live w.core).tag q = 0
    (Able s f [.tdst d, .tsrc a] → h.toNat < 512 / n / 16 →
      ∃ t, exec (.ttrans f ty d a h) s = .next t ∧ tagged t ∧ CoreFrame s t id [] [d] ∧ NothingElse s t ∧
        ∀ r k, r < 16 → k < 512 / n → (t.tile w d).elem n r k =
          if 16 * h.toNat ≤ k ∧ k < 16 * h.toNat + 16 then (s.tile w a).elem n (k - 16 * h.toNat) (16 * h.toNat + r)
          else (s.tile w d).elem n r k) ∧
    (Able s f [.feat 1, .tsrc a] → exec (.tlutload f a) s =
      retires s f [.feat 1, .tsrc a] 48 (s.setLive w.core { s.live w.core with lut := ((s.tile w a).row 0).setWidth 128 })) ∧
    (Able s f [.tdst d, .tsrc a, .feat 0] →
      (∃ t, exec (.tplanes f d a) s = .next t ∧ tagged t ∧ CoreFrame s t id [] [d] ∧ NothingElse s t ∧ ∀ r, r < 16 →
        (act r = true → ∀ p j, p < 8 → j < 64 → ((t.tile w d).row r).getLsbD (64 * p + j) = ((s.tile w a).row r).getLsbD (8 * j + 7 - p)) ∧
        (act r = false → (t.tile w d).row r = (s.tile w d).row r)) ∧
      (1 ≤ k4.toNat → k4.toNat ≤ 8 →
        ∃ t, exec (.tunplanes f k4 d a) s = .next t ∧ tagged t ∧ CoreFrame s t id [] [d] ∧ NothingElse s t ∧ ∀ r, r < 16 →
        (act r = true → ∀ j, j < 64 →
          let u := (List.range k4.toNat).foldl (fun acc p => 2 * acc + (if ((s.tile w a).row r).getLsbD (64 * p + j) then 1 else 0)) 0
          let x : Int := if k4.toNat < 8 then sval k4.toNat u * ((2 ^ (8 - k4.toNat) : Nat) : Int) + ((2 ^ (7 - k4.toNat) : Nat) : Int)
            else sval 8 u
          (((t.tile w d).elem 8 r j : Nat) : Int) = x % 256) ∧
        (act r = false → (t.tile w d).row r = (s.tile w d).row r))) ∧
    (let t0 := tyOr ty .n32
     let wd := t0.tileWidth
     let cols := min st.cols (512 / wd)
     let rows := (List.range 16).filter act
     let whole : List Opnd := if st.rows = 16 ∧ st.mask = 0xFFFF ∧ 512 / wd ≤ st.cols then [.twhole d] else []
     Able s f (whole ++ [.mem, .tdst d]) →
       (∀ x lm s1, s.stream w st.bitbuf (n8.toNat * (rows.length * cols)) = .bits x lm s1 → (s1.strand w).hold = st.hold →
         ∃ t, exec (.bsgetT f ty d n8) s = retires s f (whole ++ [.mem, .tdst d]) 48 t ∧ tagged t ∧
           (t.strand w).bitbuf = st.bitbuf + BitVec.ofNat 64 (n8.toNat * (rows.length * cols)) ∧
           ∀ r k, r < 16 → k < 512 / wd → (t.tile w d).elem wd r k =
             (let y := x / 2 ^ (n8.toNat * ((rows.filter (· < r)).length * cols + k)) % 2 ^ n8.toNat
              if act r = true ∧ k < cols then (if isSigned t0 then wrap wd (sval n8.toNat y) else y % 2 ^ wd) else (s.tile w d).elem wd r k)) ∧
       (∀ e, s.stream w st.bitbuf (n8.toNat * (rows.length * cols)) = .trap e → exec (.bsgetT f ty d n8) s = traps s f e))

/-- bsfill, bsget, bspeek and bsskip: the bits read, where BITPTR stands after, and no effect when a byte faults. bsfill sets BITPTR to 8 s[a] + s[b]; bsskip adds its count. bsget and bspeek of n bits (a register count above 64 counts as 64, an immediate is 1 to 64) put stream bits BITPTR to BITPTR + n - 1 into d, bit i of the result being bit i of the stream, and bsget moves BITPTR on by n. The bytes are read one after another, each with its own checks; the first that fails traps, and neither d nor BITPTR changes. The stream's bits are those of its bytes in order, each byte from bit 0. 4 eu when every byte lies on an LM page, else 40. -/
def Obligations.BitStreamReads : Prop :=
  ∀ (f : Form) (d a b : Reg) (n1 : BitVec 6) (s : State),
    let w := s.cur
    let p := (s.strand w).bitbuf
    let n := min (s.reg w b).toNat 64
    let m := n1.toNat + 1
    let at_ := fun (t : State) (v : Word) => t.setStrand w { t.strand w with bitbuf := v }
    (Able s f [.src a, .src b] → exec (.bsfill f a b) s = retires s f [.src a, .src b] 2 (at_ s (8 * s.reg w a + s.reg w b))) ∧
    (Able s f [.src b] → exec (.bsskip f b) s = retires s f [.src b] 2 (at_ s (p + s.reg w b))) ∧
    (Able s f [] → exec (.bsskipImm f n1) s = retires s f [] 2 (at_ s (p + BitVec.ofNat 64 m))) ∧
    (∀ x lm s1 e,
      (Able s f [.mem, .dst d, .src b] →
        (s.stream w p n = .bits x lm s1 →
          exec (.bspeek f d b) s = retires s f [.mem, .dst d, .src b] (if lm then 4 else 40) (s1.setReg w d (BitVec.ofNat 64 x)) ∧
          exec (.bsget f d b) s = retires s f [.mem, .dst d, .src b] (if lm then 4 else 40)
            (at_ (s1.setReg w d (BitVec.ofNat 64 x)) (p + BitVec.ofNat 64 n))) ∧
        (s.stream w p n = .trap e → exec (.bspeek f d b) s = traps s f e ∧ exec (.bsget f d b) s = traps s f e)) ∧
      (Able s f [.mem, .dst d] →
        (s.stream w p m = .bits x lm s1 →
          exec (.bspeekImm f d n1) s = retires s f [.mem, .dst d] (if lm then 4 else 40) (s1.setReg w d (BitVec.ofNat 64 x)) ∧
          exec (.bsgetImm f d n1) s = retires s f [.mem, .dst d] (if lm then 4 else 40)
            (at_ (s1.setReg w d (BitVec.ofNat 64 x)) (p + BitVec.ofNat 64 m))) ∧
        (s.stream w p m = .trap e → exec (.bspeekImm f d n1) s = traps s f e ∧ exec (.bsgetImm f d n1) s = traps s f e))) ∧
    (∀ (q : Word) (k : Nat) (at_ : Nat → State) (ps : Nat → List Piece) (vs : Nat → Nat), 0 < k → at_ 0 = s →
      let bytes := (q.toNat % 8 + k - 1) / 8 + 1
      let va := fun j : Nat => (q + BitVec.ofNat 64 (8 * j)).sshiftRight 3
      let reads := fun j : Nat => (at_ j).pieces w .load .all [(va j, 1)] = .ok (ps j) ∧ (at_ j).rowAway w (ps j) = false ∧
        (ps j).any (fun z => (at_ j).mustWait w false z.at_.flat 1) = false ∧
        ((at_ j).useAll w (ps j)).readRows w (ps j) = .ok ([vs j], at_ (j + 1)) ∧ vs j < 256
      ((∀ j, j < bytes → reads j) →
        ∃ x lm, s.stream w q k = .bits x lm (at_ bytes) ∧
          (lm = true ↔ ∀ j, j < bytes → onLm (ps j) = true) ∧
          ∀ i, x.testBit i = (decide (i < k) && (vs ((q.toNat % 8 + i) / 8)).testBit ((q.toNat % 8 + i) % 8))) ∧
      (∀ m e, m < bytes → (∀ j, j < m → reads j) →
        ((at_ m).pieces w .load .all [(va m, 1)] = .error e ∨
          (at_ m).pieces w .load .all [(va m, 1)] = .ok (ps m) ∧ (at_ m).rowAway w (ps m) = false ∧
          (ps m).any (fun z => (at_ m).mustWait w false z.at_.flat 1) = false ∧
          ((at_ m).useAll w (ps m)).readRows w (ps m) = .error e) →
        s.stream w q k = .trap e))

/-- mldw, mstrm, mrd and mclr: their checks, what they put into the queue, and the lock bits they set. With room in the queue each retires at issue, having put one operation behind the others with what it captures: mldw loads the slot's state and format and sets RL on its source; mstrm on a loaded slot whose format pairs with its type by the table of R194 clears the tag of d, sets WL on d and RL on a and c; mrd on a loaded slot does so for d; mclr leaves the slot empty. mstrm on an empty slot or with a pair outside the table and mrd on an empty slot trap ILLOP. No tile row, register or byte of memory changes at issue. -/
def Obligations.MatrixInstructionsIssue : Prop :=
  (∀ (f : Form) (ty : Ty) (k : BitVec 4) (slot : Bool) (d a : Tile) (c : Option Tile) (s : State),
    let w := s.cur
    let st := s.strand w
    let l := s.live w.core
    let p := (st.hold.mxs[slot.toNat]?).getD 0
    let sl := AMap.get MxaSlot.empty l.slots p
    let queued := fun (i : Instr) (ops : List Opnd) (eu : Nat) (good : State → MxaOp → Prop) =>
      ∃ t o, exec i s = retires s f ops eu t ∧ (t.live w.core).queue = l.queue ++ [o] ∧ o.plane = p ∧ o.strand = w.strand ∧ o.pc = st.pc ∧
        o.started = false ∧ o.fctl = st.fctl ∧ o.lut = l.lut ∧ (∀ e ∈ l.queue, e.seq < o.seq) ∧ good t o ∧
        { t.live w.core with queue := l.queue, slots := l.slots, tags := l.tags } = l ∧ { t with cores := s.cores } = s
    let slotIs := fun (t : State) (v : MxaSlot) => AMap.get MxaSlot.empty (t.live w.core).slots p = v ∧
      ∀ q, q ≠ p → AMap.get MxaSlot.empty (t.live w.core).slots q = AMap.get MxaSlot.empty l.slots q
    let lops := (if ty = .bpn then [Opnd.feat 0] else if ty = .lut4 then [.feat 1] else []) ++ [.slot slot, .tname a, .mxq]
    let sops := ((if ty = .lut4 then [Opnd.feat 1] else []) ++ (if sl.loaded && sl.ty == .bpn then [.feat 0] else [])) ++
      (match c with | some t => [.tname t] | none => []) ++ [.slot slot, .tname d, .tname a, .mxq]
    let rops : List Opnd := [.slot slot, .tname d, .mxq]
    let tagged := fun (t : State) => (∀ q, st.poolTile d = some q → (t.live w.core).tag q = 0 ∧ (t.live w.core).wl q = true) ∧
      (∀ q, st.poolTile d ≠ some q → (t.live w.core).tag q = l.tag q)
    (Able s f lops → queued (.mldw f ty k slot a) lops 48 (fun t o => o.kind = .ldw ∧ o.a = st.poolTile a ∧ o.d = none ∧ o.c = none ∧
      slotIs t { sl with loaded := true, ty := ty, k := k.toNat } ∧ (∀ q, st.poolTile a = some q → (t.live w.core).rl q = true) ∧
      (t.live w.core).tags = l.tags)) ∧
    (Able s f sops →
      (sl.loaded = false ∨ mxPair sl.ty ty = false → exec (.mstrm f ty slot d a c) s = traps s f { code := .illop }) ∧
      (sl.loaded = true → mxPair sl.ty ty = true → queued (.mstrm f ty slot d a c) sops 96 (fun t o => o.kind = .strm ∧ o.ty = ty ∧
        o.wty = sl.ty ∧ o.wk = sl.k ∧ o.d = st.poolTile d ∧ o.a = st.poolTile a ∧ o.c = c.bind st.poolTile ∧ slotIs t sl ∧ tagged t ∧
        (∀ r, r < 16 → o.rows.getLsbD r = (decide (r < st.rows) && st.mask.getLsbD r)) ∧
        (∀ q, st.poolTile a = some q ∨ c.bind st.poolTile = some q → (t.live w.core).rl q = true)))) ∧
    (Able s f rops →
      (sl.loaded = false → exec (.mrd f slot d) s = traps s f { code := .illop }) ∧
      (sl.loaded = true → queued (.mrd f slot d) rops 48 (fun t o => o.kind = .rd ∧ o.wty = sl.ty ∧ o.wk = sl.k ∧ o.d = st.poolTile d ∧
        o.a = none ∧ o.c = none ∧ slotIs t sl ∧ tagged t))) ∧
    (Able s f [.slot slot, .mxq] → queued (.mclr f slot) [.slot slot, .mxq] 16 (fun t o => o.kind = .clr ∧ o.d = none ∧ o.a = none ∧
      slotIs t { sl with loaded := false, ty := .i64, k := 0 } ∧ (t.live w.core).tags = l.tags))) ∧
  (∀ x y : Ty, mxPair x y = decide ((mxTy x, mxTy y) ∈ [(Ty.f32, Ty.f32), (.bf16, .bf16), (.f16, .f16), (.e4m3, .e4m3), (.e4m3, .e5m2),
    (.e5m2, .e4m3), (.e5m2, .e5m2), (.i8, .i8), (.lut4, .lut4), (.bpn, .i8), (.bpn, .lut4)]))

/-- Matrix operations start, finish, and hold mwait until the covered ones have finished. An operation that may start performs whole (the model's choice, log entry 26): an mldw puts the 16 rows of its tile into the slot's weights; an mstrm puts into each active row of d, and no other, 16 elements, each the fixed-order sum of R85 of the accumulator and 16 products, a float sum rounded at each step, an integer sum wrapped once; an mrd puts the weights into d in the layout of R205; an mclr leaves weights of zero. A stream writes the rows before the first that reads an uncorrectable error and holds an error with the number of rows completed and of active rows; a load of weights that reads one leaves weights of zero bits (log entries 56 and 84), a read back no row (the model's choice, log entry 56). A stream without an error holds exactly the flags its sums raise, of all active rows, for its strand while that runs. A finished operation leaves the queue, and with it its lock bits. An operation of the load unit may start when the unit is free and no earlier operation names its slot or still has its tiles in hand; a stream, when no earlier stream that has not started, no earlier load of its slot and no earlier operation with its tiles in hand stands before it. mwait waits while an operation that the strand has issued within its cover has not finished. With none left: when a covered operation holds an error it traps ECC with the address of the oldest such operation in issue order in VA (the model's choice, log entry 69), and only that error is discarded; else when a covered operation raised a flag enabled in the FCTL it captured it traps FPE with all held flags of the cover in INFO, which are discarded; else those flags are ORed into FFLAG and discarded, and it retires. The end of a wait does the same. -/
def Obligations.MatrixArrayRuns : Prop :=
  (∀ (core n : Nat) (s : State) (o : MxaOp), (s.live core).queue[n]? = some o →
     let l := s.live core
     let row := fun (t : Option Nat) (r : Nat) => match t with | some q => l.tileRow q r | none => 0
     let ws := (AMap.get MxaSlot.empty l.slots o.plane).weights
     let worn := l.perr.contains (.plane o.plane)
     let bad := fun r : Nat => l.perr.any (fun e => match e with | .tile x i => (o.a == some x || o.c == some x) && i == r | _ => false)
     let on := fun r : Nat => o.rows.getLsbD r = true ∧ ∀ i, i ≤ r → o.rows.getLsbD i = true → (worn || bad i) = false
     (mxaMayStart l.queue n = true →
       ∃ t : State, exec (.mxaOpStart core n) s = becomes t.wake ∧ { t with cores := s.cores } = s ∧
         (∀ c, c ≠ core → t.core c = s.core c) ∧
         (t.live core).queue = (if o.kind = .strm ∧ o.rows = 0 then l.queue.eraseIdx n else l.queue.set n { o with started := true }) ∧
         { t.live core with tiles := l.tiles, slots := l.slots, queue := l.queue, held := l.held, perr := l.perr } = l ∧
         (∀ e ∈ (t.live core).perr, e ∈ l.perr) ∧
         ((t.live core).held = l.held ∨ ∃ h, (t.live core).held = insHeld h l.held ∧ h.seq = o.seq ∧ h.strand = o.strand ∧
           h.birth = o.birth ∧ h.slot = o.slot ∧ h.fctl = o.fctl ∧
           ((l.strand o.strand).birth ≠ o.birth ∨ (l.strand o.strand).run ≠ .running → h.flags = 0)) ∧
         (o.kind = .strm → o.d.isSome = true → (∃ i, i < 16 ∧ o.rows.getLsbD i = true ∧ (worn || bad i) = true) →
           ∃ h ∈ (t.live core).held, h.seq = o.seq ∧ ∃ k, h.err = some (o.pc, k, ((List.range 16).filter o.rows.getLsbD).length) ∧
             (∀ i, i < 16 → o.rows.getLsbD i = true → (worn || bad i) = true → (∀ j, j < i → o.rows.getLsbD j = true → (worn || bad j) = false) →
               k = ((List.range i).filter o.rows.getLsbD).length)) ∧
         (o.kind = .strm → o.d.isSome = true → (∀ i, i < 16 → o.rows.getLsbD i = true → (worn || bad i) = false) →
           let raised : FFlags := ((List.range 16).filter o.rows.getLsbD).foldl (fun x r => (List.range 16).foldl (fun y j => y |||
             (if mxIsInt o.wty = true then (0 : FFlags) else ((List.range 16).foldl (fun (z : Nat × FFlags) k =>
               let v := rounded (fmtOf .f32) o.fctl (numFma (fctlMode o.fctl) (mxNum o.ty o.fctl (row o.a r) k) (mxNum o.wty o.fctl (AMap.get 0 ws k) j)
                 (readF (fmtOf .f32) o.fctl z.1))
               (v.1, z.2 ||| v.2)) (elem (row o.c r) 32 j, 0)).2)) x) 0
           (raised = 0 ∨ (l.strand o.strand).birth ≠ o.birth ∨ (l.strand o.strand).run ≠ .running → (t.live core).held = l.held) ∧
           (raised ≠ 0 → (l.strand o.strand).birth = o.birth → (l.strand o.strand).run = .running →
             ∃ h, (t.live core).held = insHeld h l.held ∧ h.flags = raised ∧ h.err = none)) ∧
         (o.kind = .ldw → (t.live core).tiles = l.tiles ∧
           ∀ k, k < 16 → AMap.get 0 (AMap.get MxaSlot.empty (t.live core).slots o.plane).weights k =
             if (List.range 16).any bad then 0 else row o.a k) ∧
         (o.kind = .clr → (t.live core).tiles = l.tiles ∧ ∀ k, AMap.get 0 (AMap.get MxaSlot.empty (t.live core).slots o.plane).weights k = (0 : Row)) ∧
         (∀ q, o.kind = .rd → o.d = some q → (t.live core).slots = l.slots ∧
           ∀ r, r < 16 → (t.live core).tileRow q r = if worn = true then l.tileRow q r else mrdRow o (AMap.get 0 ws r)) ∧
         (∀ q, o.kind = .strm → o.d = some q → (t.live core).slots = l.slots ∧
           (∀ x r, r < 16 → x ≠ q ∨ ¬ on r → (t.live core).tileRow x r = l.tileRow x r) ∧
           (∀ r j, r < 16 → j < 16 → on r →
             let acc := elem (row o.c r) 32 j
             (mxIsInt o.wty = true → elem ((t.live core).tileRow q r) 32 j = wrap 32 ((List.range 16).foldl (fun x k =>
               x + mxInt o.ty 0 o.lut (row o.a r) k * mxInt o.wty o.wk o.lut (AMap.get 0 ws k) j) (sval 32 acc))) ∧
             (mxIsInt o.wty = false → elem ((t.live core).tileRow q r) 32 j = ((List.range 16).foldl (fun x k =>
               (rounded (fmtOf .f32) o.fctl (numFma (fctlMode o.fctl) (mxNum o.ty o.fctl (row o.a r) k) (mxNum o.wty o.fctl (AMap.get 0 ws k) j)
                 (readF (fmtOf .f32) o.fctl x))).1) acc) % 2 ^ 32)))) ∧
     (mxaMayFinish l.queue n = true → exec (.mxaOpFinish core n) s = becomes (s.setLive core { l with queue := l.queue.eraseIdx n }).wake) ∧
     (mxaMayFinish l.queue n = true → o.started = true) ∧
     (n = 0 → o.started = false → (o.kind = .strm ∨ ∀ e ∈ l.queue, e.kind = .strm ∨ e.started = false) → mxaMayStart l.queue n = true) ∧
     (o.started = false → o.kind ≠ .strm → (∀ e ∈ l.queue, e.kind = .strm ∨ e.started = false) →
       (∀ e ∈ l.queue.take n, e.plane ≠ o.plane ∧ (e.started = true ∨ e.clash o = false)) → mxaMayStart l.queue n = true) ∧
     (o.started = false → o.kind = .strm → (∀ e ∈ l.queue.take n, (e.kind = .strm → e.started = true) ∧ (e.kind ≠ .strm → e.plane ≠ o.plane) ∧
       (e.started = true ∨ e.clash o = false)) → mxaMayStart l.queue n = true) ∧
     (n = 0 → o.started = true → mxaMayFinish l.queue n = true) ∧
     (mxaMayStart l.queue n = true → o.started = false ∧
       (∀ e ∈ l.queue.take n, e.plane = o.plane → e.kind = .strm ∧ o.kind = .strm) ∧
       (o.kind = .strm → ∀ e ∈ l.queue.take n, e.kind = .strm → e.started = true))) ∧
  (∀ (f : Form) (cover : BitVec 2) (s : State),
     let w := s.cur
     let l := s.live w.core
     let mine := fun (strand birth slot : Nat) =>
       strand == w.strand && birth == (s.strand w).birth && (cover == 0 || slot + 1 == cover.toNat)
     let busy := l.queue.any (fun o => mine o.strand o.birth o.slot)
     let fl := (l.held.filter (fun h => mine h.strand h.birth h.slot)).foldl (fun x h => x ||| h.flags) (0 : FFlags)
     let hot := l.held.any (fun h => mine h.strand h.birth h.slot && h.flags &&& (h.fctl >>> 4).setWidth 5 != 0)
     let kept := s.setLive w.core { l with held := l.held.filter (fun h => !mine h.strand h.birth h.slot) }
     let wakes := fun o : Host.Outcome State Fault Refusal => ∃ t, o = .next t ∧ exec (.mwaitEnd w.core w.strand) s = becomes t.wake
     let after := fun v : Wait => (s.strand w).pc + BitVec.ofNat 64 v.len
     (Able s f [] → (s.core w.core).st = .active →
       (busy = true → exec (.mwait f cover) s = waits s { mkWait .mwait false (lenBytes f.len) 1 with obj := BitVec.ofNat 64 cover.toNat }) ∧
       (∀ h pc rows act i, busy = false → l.held[i]? = some h → mine h.strand h.birth h.slot = true → h.err = some (pc, rows, act) →
         (∀ j e, j < i → l.held[j]? = some e → mine e.strand e.birth e.slot = true → e.err = none) →
         exec (.mwait f cover) s = traps (s.setLive w.core { l with held := l.held.set i { h with err := none } }) f
           { code := .ecc, cause := 30, va := pc, kind := 8, prog1 := BitVec.ofNat 64 rows, prog2 := BitVec.ofNat 64 act }) ∧
       (busy = false → (∀ h ∈ l.held, mine h.strand h.birth h.slot = true → h.err = none) →
         (hot = true → exec (.mwait f cover) s = traps kept f { code := .fpe, info := fl.toNat }) ∧
         (hot = false → exec (.mwait f cover) s = retires s f [] 1 (kept.raise w fl)))) ∧
     (∀ v, (s.strand w).wait = some v → v.kind = .mwait → (s.core w.core).st = .active → v.obj = BitVec.ofNat 64 cover.toNat → busy = false →
       (∀ h pc rows act i, l.held[i]? = some h → mine h.strand h.birth h.slot = true → h.err = some (pc, rows, act) →
         (∀ j e, j < i → l.held[j]? = some e → mine e.strand e.birth e.slot = true → e.err = none) →
         wakes ((s.setLive w.core { l with held := l.held.set i { h with err := none } }).takeTrap w
           { code := .ecc, cause := 30, va := pc, kind := 8, prog1 := BitVec.ofNat 64 rows, prog2 := BitVec.ofNat 64 act }
           (s.strand w).pc (after v))) ∧
       ((∀ h ∈ l.held, mine h.strand h.birth h.slot = true → h.err = none) →
         (hot = true → wakes (kept.takeTrap w { code := .fpe, info := fl.toNat } (s.strand w).pc (after v))) ∧
         (hot = false → exec (.mwaitEnd w.core w.strand) s = becomes ((kept.raise w fl).finish w v.len 1).wake))) ∧
     (∀ (hs : List MxaHeld) (h : MxaHeld), hs.Pairwise (fun x y => x.seq ≤ y.seq) → (insHeld h hs).Pairwise (fun x y => x.seq ≤ y.seq)))

/-- qpost and qwait, and what the information instructions read. With descriptor and packet aligned and translated, the links to the descriptor and the ring up and nothing to wait for: qpost of a descriptor in error traps ECC, of a host queue or of one with bad fields ACCESS with CAUSE 36; it waits for its release, publishes every byte, and then a closed queue gives -2 and a full one -1; else WRITE rises by 1, d takes the old WRITE k, and the 64 bytes of the packet stand in entry k mod 2^LOGCAP. A published packet joins the queue's list once no store to its entry is on its way. qwait waits for earlier reads of the strand and while a written line cannot go home; of a descriptor in error it traps ECC at issue (log entry 78); it retires at once with DONE (CONFD for .conf) when s[b] is at or above WRITE or below the count, and takes in every byte; else it waits until the count is above s[b]. Misaligned addresses trap ALIGN. ctxinfo and gid write d with the value q selects from the context's descriptor, the core, the strand's GID and its kernel's grid. enrd, at a system privilege, writes ENERGY.EU, ENSTAT or VTIME of a core, or the sum of EU over the allotment, at most 2^48 - 1, and traps ACCESS with CAUSE 37 for a context that is not alive or whose partition a supervisor does not govern, and ECC with CAUSE 30 where a live register that it reads is in error. kinfo with a = 0 writes the status of the strand's kernel; with a queue of its own context it writes the status of a sequence number, and traps ACCESS 37 for another context's. For a core outside the allotment q = 0 to 2 give 0, the model's reading, log entry 35; for a core that is AWAY they give what its save slot holds. -/
def Obligations.QueuePostAndWait : Prop :=
  (∀ (f : Form) (conf : Bool) (d a b : Reg) (s : State),
     let w := s.cur
     let ops : List Opnd := [.mem, .dst d, .src a, .src b]
     let qv := s.reg w a
     let pv := s.reg w b
     let count := fun (s : State) (q : Nat) (c : Bool) => s.read (q + (if c then 0x18 else 0x10)) 8
     (Able s f ops →
       (qv.toNat % 64 ≠ 0 → exec (.qpost f d a b) s = traps s f { code := .align, va := qv } ∧
         exec (.qwait f conf d a b) s = traps s f { code := .align, va := qv }) ∧
       (qv.toNat % 64 = 0 → pv.toNat % 64 ≠ 0 → exec (.qpost f d a b) s = traps s f { code := .align, va := pv }) ∧
       (∀ q x ps vs s1, pv.toNat % 64 = 0 → s.descAt w .atomic qv = .ok (q, x) → s.pieces w .load .tile [(pv, 64)] = .ok ps →
         s.rowAway w ps = false → s.cut w (.hbm q true) = false → ps.any (fun p => s.mustWait w false p.at_.flat p.n) = false → s.mustWait w true q 64 = false →
         (s.useAll w ps).readRows w ps = .ok (vs, s1) →
         let write := s.read q 8
         let read := s.read (q + 8) 8
         let flags := s.read (q + 0x28) 8
         let bad : Bool := flags.testBit 24 || s.qFieldsBad q
         let s2 := ((s1.useXlat w x).learn w q 64).publish w .all .package
         (∀ ln l, s2.line (clusterOf w.core) ln = some l → l.dirty = 0) ∧
         (∀ e, s.descEcc w .atomic qv q = some e → exec (.qpost f d a b) s = traps s f e) ∧
         (s.descEcc w .atomic qv q = none → bad = true →
           exec (.qpost f d a b) s = traps s f { code := .access, cause := 36, va := qv, kind := 2 }) ∧
         (s.descEcc w .atomic qv q = none → bad = false → s.relBusy w .all .package = true →
           exec (.qpost f d a b) s = waits s (mkWait .remote true 0 0)) ∧
         (s.descEcc w .atomic qv q = none → bad = false → s.relBusy w .all .package = false → flags / 2 ^ 25 % 4 = 3 →
           exec (.qpost f d a b) s = retires s f ops 16 (s2.setReg w d (-2))) ∧
         (s.descEcc w .atomic qv q = none → bad = false → s.relBusy w .all .package = false → flags / 2 ^ 25 % 4 ≠ 3 →
           write - read = 2 ^ (flags % 2 ^ 5) → exec (.qpost f d a b) s = retires s f ops 16 (s2.setReg w d (-1))) ∧
         (∀ r pa sy y, s.descEcc w .atomic qv q = none → bad = false → flags / 2 ^ 25 % 4 ≠ 3 → write - read ≠ 2 ^ (flags % 2 ^ 5) → s.relBusy w .all .package = false →
           let entry := s.readW (q + 0x20) + BitVec.ofNat 64 (64 * (write % 2 ^ (flags % 2 ^ 5)))
           s.pieces w .store .tile [(entry, 64)] = .ok [r] → entry.toNat % 64 = 0 → r.at_ = .hbm pa sy → s.cut w r.at_ = false → r.n = 64 →
           pa + 64 ≤ q ∨ q + 64 ≤ pa → r.x.claim = false → x.claim = false → vs = [y] → q % 64 = 0 → pa % 64 = 0 →
           let s3 := ((s2.useXlat w r.x).forget w q 8).bypass (clusterOf w.core) q 64
           let s4 := (s3.setHeads (s3.strand w).points true q 8).missed (s3.strand w).birth (s3.via w qv) q 8
           let t := ((s4.write q 8 (write + 1)).writeHome w pa 64 (y % 2 ^ 512) entry).wantSlot q (s.untaken q)
           exec (.qpost f d a b) s = retires s f ops 16 (t.setReg w d (BitVec.ofNat 64 write)) ∧ t.read q 8 = (write + 1) % 2 ^ 64 ∧ t.read pa 64 = y % 2 ^ 512)) ∧
       (∀ q x, s.descAt w .load qv = .ok (q, x) → s.mustWait w false q 64 = false →
         (s.readsBusy w = true ∨ s.cut w (.hbm q true) = true ∨ s.takeCut w .all = true →
           exec (.qwait f conf d a b) s = waits s (mkWait .remote true 0 0)) ∧
         (∀ e, s.readsBusy w = false → s.cut w (.hbm q true) = false → s.takeCut w .all = false → s.descEcc w .load qv q = some e → exec (.qwait f conf d a b) s = traps s f e)) ∧
       (∀ q x, s.descAt w .load qv = .ok (q, x) → s.mustWait w false q 64 = false → s.readsBusy w = false → s.cut w (.hbm q true) = false →
         s.takeCut w .all = false → s.descEcc w .load qv q = none →
         let done_ : Bool := decide (s.read q 8 ≤ pv.toNat) || decide (pv.toNat < count s q conf)
         let s1 := s.useXlat w x
         (done_ = true → exec (.qwait f conf d a b) s =
           retires s f ops 16 ((s1.setReg w d (BitVec.ofNat 64 (count s q conf))).takeIn w .all)) ∧
         (done_ = false → exec (.qwait f conf d a b) s = .next (s1.waiting w { mkWait .qwait false (lenBytes f.len) 16 with
           d := d, obj := qv, flat := q, gen := pv, deadline := if conf then 1 else 0 })))) ∧
     (∀ v, (s.strand w).wait = some v → v.kind = .qwait → (s.core w.core).st = .active →
       let c := count s v.flat (v.deadline == 1)
       exec (.qwaitEnd w.core w.strand) s =
         if v.gen.toNat < c ∧ s.takeCut w .all = false then becomes (((s.setReg w v.d (BitVec.ofNat 64 c)).takeIn w .all).finish w v.len v.eu).wake else .next s) ∧
     (∀ (q k : Nat), s.isQueue q = true → s.read (q + 8) 8 ≤ k → k < s.read q 8 → (s.queue q).published.contains k = false →
       (s.queue q).taken.contains k = false →
       let entry := s.readW (q + 0x20) + BitVec.ofNat 64 (64 * (k % 2 ^ (s.read (q + 0x28) 8 % 2 ^ 5)))
       (∀ e ∈ s.net, e.2.kind.isStore = true → e.2.landed = false →
         ∀ r ∈ s.rangesOf (s.queue q).ctx 2 entry.toNat 64, overlap e.2.flat e.2.bytes r.1 r.2 = false) →
       exec (.packetPublished q k) s = becomes (s.setQueue q { s.queue q with published := (s.queue q).published ++ [k] }).wake)) ∧
  (∀ (f : Form) (d a b : Reg) (q : BitVec 6) (s : State),
     let w := s.cur
     let ctx := s.ctxOf w.core
     let desc := (s.ctxRec ctx).desc
     let dd := fun off : Nat => s.read (desc + off) 8
     let put := fun (ops : List Opnd) (v : Nat) => retires s f ops 16 (s.setReg w d (BitVec.ofNat 64 v))
     let gid := (s.strand w).gid.toNat
     (Able s f [.dst d] →
       exec (.ctxinfo f d 0) s = put [.dst d] (2 ^ 16 * (dd 0 / 2 ^ 16 % 2 ^ 8) + ctx) ∧
       exec (.ctxinfo f d 1) s = put [.dst d] (s.read (desc + 0x20 + 4 * dieOf w.core) 4) ∧
       exec (.ctxinfo f d 2) s = put [.dst d] (dd 0 / 2 ^ 32 % 2 ^ 8) ∧
       exec (.ctxinfo f d 3) s = put [.dst d] (dd 0 / 2 ^ 48 % 2 ^ 16) ∧
       exec (.ctxinfo f d 4) s = put [.dst d] (s.live w.core).switches.toNat ∧
       exec (.ctxinfo f d 5) s = put [.dst d] ((s.ctxRec ctx).cores.filter (fun e => e.2 == .active)).length ∧
       exec (.ctxinfo f d 6) s = put [.dst d] (s.sqPending ctx w.core true).length ∧
       (∀ k g, (s.strand w).job = some (k, g) →
         let gx := (s.kernel k).packet.toNat / 2 ^ 128 % 2 ^ 16
         let gy := (s.kernel k).packet.toNat / 2 ^ 144 % 2 ^ 16
         exec (.gid f d 1) s = put [.dst d] (2 ^ 32 * (g / (s.kernel k).gridX) + g % (s.kernel k).gridX) ∧
         exec (.gid f d 2) s = put [.dst d] ((s.kernel k).groupRect g) ∧
         exec (.gid f d 3) s = put [.dst d] (2 ^ 32 * gy + gx) ∧
         exec (.kinfo f d 0 b) s = put [.dst d] (s.kernel k).status.toNat) ∧
       ((s.strand w).job = none → exec (.kinfo f d 0 b) s = put [.dst d] (2 ^ 32 * 9))) ∧
     (Able s f [.dst d, .status 0x26] →
       exec (.gid f d 0) s = put [.dst d, .status 0x26] (gid % 2 ^ 32) ∧
       exec (.gid f d 4) s = put [.dst d, .status 0x26] (gid / 2 ^ 32 % 2 ^ 8)) ∧
     (∀ qd x, a ≠ 0 → Able s f [.mem, .dst d, .src a, .src b] → s.descAt w .load (s.reg w a) = .ok (qd, x) →
       s.mustWait w false qd 64 = false → s.cut w (.hbm qd true) = false →
       (∀ e, s.descEcc w .load (s.reg w a) qd = some e → exec (.kinfo f d a b) s = traps s f e) ∧
       (s.descEcc w .load (s.reg w a) qd = none → s.read (qd + 0x30) 8 / 2 ^ 16 % 2 ^ 16 ≠ ctx → exec (.kinfo f d a b) s = traps s f { code := .access, cause := 37, va := s.reg w a }) ∧
       (s.descEcc w .load (s.reg w a) qd = none → s.read (qd + 0x30) 8 / 2 ^ 16 % 2 ^ 16 = ctx →
         exec (.kinfo f d a b) s = retires s f [.mem, .dst d, .src a, .src b] 16
           ((s.useXlat w x).setReg w d (s.kstatus qd (s.reg w b).toNat)))) ∧
     (let v := (s.reg w a).toNat
      let c := v / 2 ^ 16 % 2 ^ 16
      let core := 256 * (v / 2 ^ 8 % 2 ^ 7) + v % 2 ^ 8
      let ops : List Opnd := [.sys, .dst d, .src a]
      let sel : Nat := if q = 1 then 0x16 else if q = 2 then 0x14 else 0x15
      let worn : Bool := (if q = 3 then s.allotCores c else if s.inAllot c core then [core] else []).any (fun e =>
        s.resident c e && (s.live e).perr.any (fun x => match x with | .status _ n => n == sel | _ => false))
      Able s f ops → q.toNat ≤ 3 →
       let governed : Bool := (s.ctxRec c).alive && ((s.strand w).priv == .hv || s.ctxPart c == s.ctxPart ctx)
       (governed = false → exec (.enrd f d a q) s = traps s f { code := .access, cause := 37 }) ∧
       (governed = true → worn = true → exec (.enrd f d a q) s = traps s f { code := .ecc, cause := 30 }) ∧
       (governed = true → q.toNat ≤ 2 → s.inAllot c core = false → exec (.enrd f d a q) s = put ops 0) ∧
       (governed = true → q.toNat ≤ 2 → s.inAllot c core = true → s.resident c core = false →
         let kept := fun o : Nat => s.read (s.slotBase c core + 0x31800 + o) 8
         exec (.enrd f d a q) s = put ops (if q = 0 then kept 8 % 2 ^ 48 else if q = 1 then kept 16 else kept 0)) ∧
       (governed = true → worn = false → s.inAllot c core = true → s.resident c core = true →
         (q = 0 → exec (.enrd f d a q) s = put ops ((s.live core).energy.toNat % 2 ^ 48)) ∧
         (q = 1 → exec (.enrd f d a q) s = put ops (s.live core).enstat.toNat) ∧
         (q = 2 → exec (.enrd f d a q) s = put ops (s.live core).vtime.toNat)) ∧
       (governed = true → worn = false → q = 3 → exec (.enrd f d a q) s = put ops
         (min (2 ^ 48 - 1) ((s.allotCores c).map (fun e => (s.energyReg c e 0).toNat % 2 ^ 48)).sum))))

/-- Supersteps and timed sends of a domain. Outside a phase gdom sets DOMAIN to its level and the block's rectangle once every group of the block has started, waits for that otherwise, and traps SLOT inside a phase or for a block that can never be resident. sstep, with its release complete, publishes every byte to the cores of its domain, counts an arrival at its level and waits; inside a phase it traps SLOT. A strand whose barrier has completed leaves it in a phase, with the slot map as it stands in LM then. sstep.end outside a phase traps SLOT; inside it publishes and waits; the phase ends when every member is past it and no row of it is on its way, and a member leaves it, taking every byte in, no earlier than its stagger from then, and once its cluster's written lines can go home. In a phase, tsend of a slot that the map grants, that is not used, whose destination lies in the domain and the allotment, with an offset that is a multiple of 64 below 0x20000 and before the slot ends, marks the slot used and sends the row of its tile that bits [35:32] name: at once when the slot has begun, else when it begins. Outside these bounds it traps SLOT, ALIGN, ACCESS with CAUSE 35, SLOT, in this order. A row that arrives at an ACTIVE core over links that carry it, no row of its domain from a lower core for the same link and slot and no earlier store of its strand to its bytes being still on its way, is written at its offset and is gone. -/
def Obligations.SuperstepsOfADomain : Prop :=
  (∀ (f : Form) (lv : BitVec 6) (a : Reg) (s : State),
     let w := s.cur
     let st := s.strand w
     let mine : Scope := .rect (st.domain.toNat % 2 ^ 32)
     let domainAt := fun (n : Nat) (k : Kernel) (g : Nat) => (s.setStrand w { st with domain := BitVec.ofNat 64 (2 ^ 32 * n + k.blockRect n g) }).clearStatus w 0x24
     (Able s f [] → ∀ k g, st.job = some (k, g) →
       (st.phase.inPhase = true ∨ s.neverResident w lv.toNat = true → exec (.gdom f lv) s = traps s f { code := .slot }) ∧
       (st.phase.inPhase = false → s.neverResident w lv.toNat = false →
         (s.blockUp w lv.toNat = true → exec (.gdom f lv) s = retires s f [] 16 (domainAt lv.toNat (s.kernel k) g)) ∧
         (s.blockUp w lv.toNat = false → exec (.gdom f lv) s =
           waits s { mkWait .gdom false (lenBytes f.len) 16 with gen := lv.setWidth 64 }))) ∧
     (∀ v k g, st.job = some (k, g) → st.wait = some v → v.kind = .gdom → (s.core w.core).st = .active →
       exec (.gdomWaitEnd w.core w.strand) s =
         .next (if s.blockUp w v.gen.toNat then ((domainAt v.gen.toNat (s.kernel k) g).finish w v.len v.eu).wake else s)) ∧
     (∀ n, s.blockUp w n = ((s.jobOf w).1.block n (s.jobOf w).2.2).all (fun h =>
       ((s.jobOf w).1.group h).state == .running || ((s.jobOf w).1.group h).state == .ended)) ∧
     (Able s f [.mem, .src a, .status 0x24] →
       (st.phase.inPhase = true → exec (.sstep f a) s = traps s f { code := .slot }) ∧
       (st.phase.inPhase = false → a ≠ 0 → (s.reg w a).toNat % 64 ≠ 0 → exec (.sstep f a) s = traps s f { code := .align, va := s.reg w a }) ∧
       (∀ m, st.phase.inPhase = false → s.readMap w a = .ok m → s.mustWait w false m (if m = 0 then 0 else 64) = false →
         (s.relBusy w .all mine = true → exec (.sstep f a) s = waits s (mkWait .sstep true 0 0)) ∧
         (s.relBusy w .all mine = false →
           let n := st.domain.toNat / 2 ^ 32 % 8
           let s1 := s.publish w .all mine
           let p := { st.phase with arrived := true, level := n, counts := AMap.put st.phase.counts n (AMap.get 0 st.phase.counts n + 1) }
           exec (.sstep f a) s = .next
             (((s1.setStrand w { s1.strand w with phase := p }).waiting w { mkWait .sstep false (lenBytes f.len) 16 with flat := m }).settleDomains)))) ∧
     (Able s f [.mem, .status 0x24] →
       (st.phase.inPhase = false → exec (.sstepEnd f) s = traps s f { code := .slot }) ∧
       (st.phase.inPhase = true → s.relBusy w .all mine = true → exec (.sstepEnd f) s = waits s (mkWait .sstep true 0 0)) ∧
       (st.phase.inPhase = true → s.relBusy w .all mine = false →
         let s1 := s.publish w .all mine
         exec (.sstepEnd f) s = .next (((s1.setStrand w { s1.strand w with phase := { st.phase with ended := true } }).waiting w
           (mkWait .sstep false (lenBytes f.len) 16)).settleDomains))) ∧
     (∀ k g v d, st.job = some (k, g) → st.wait = some v → v.kind = .sstep → st.phase.arrived = true → (s.core w.core).st = .active → s.takeCut w .all = false →
       s.domain k st.phase.level ((s.kernel k).blockAt st.phase.level g) (AMap.get 0 st.phase.counts st.phase.level) = some d →
       ((s.settleStrand w).strand w).phase.inPhase = true ∧ ((s.settleStrand w).strand w).phase.tOpen = d.tOpen ∧
       ((s.settleStrand w).strand w).phase.map = (if v.flat = 0 then 0 else BitVec.ofNat 512 (s.read v.flat 64)) ∧
       ((s.settleStrand w).strand w).phase.arrived = false ∧ ((s.settleStrand w).strand w).wait = none) ∧
     (∀ k n bx by_ count d, s.domain k n (bx, by_) count = some d → d.tc = none →
       s.allMembers k n ((s.kernel k).blockGroup n bx by_) (fun m => m.phase.past n count) = true →
       s.rowsOut k ((s.kernel k).block n ((s.kernel k).blockGroup n bx by_)) = false →
       ∃ t : State, exec (.phaseEnd k n bx by_ count) s = becomes t.wake ∧ { t with domains := s.domains } = s ∧
         ∃ e, t.domain k n (bx, by_) count = some e ∧ e.tc = some s.time ∧
           e.stag = (s.ctl (dieBlock (s.kernel k).die + 0x18)).toNat % 2 ^ 12 ∧ e.tOpen = d.tOpen) ∧
     (∀ k g v d tc, st.job = some (k, g) → st.wait = some v → v.kind = .sstep → (s.core w.core).st = .active →
       st.phase.inPhase = true → st.phase.ended = true →
       s.domain k st.phase.level ((s.kernel k).blockAt st.phase.level g) (AMap.get 0 st.phase.counts st.phase.level) = some d → d.tc = some tc →
       let at_ := tc.toNat + d.stag * (w.core % 256 / 16 - st.domain.toNat % 256 / 16)
       (s.time.toNat < at_ ∨ s.takeCut w .all = true → exec (.staggeredRelease w.core w.strand) s = .next s) ∧
       (at_ ≤ s.time.toNat → s.takeCut w .all = false → ∃ t : State, exec (.staggeredRelease w.core w.strand) s = becomes t.wake ∧ (t.strand w).phase.inPhase = false ∧
         (t.strand w).phase.counts = st.phase.counts ∧ (t.strand w).wait = none ∧ t.cache (clusterOf w.core) = [] ))) ∧
  (∀ (f : Form) (slot : BitVec 6) (tl : Tile) (b : Reg) (s : State),
     let w := s.cur
     let st := s.strand w
     let p := st.phase
     let k := slot.toNat
     let v := (s.reg w b).toNat
     let off := v % 2 ^ 18
     let half := fun n : Nat => p.map.toNat / 2 ^ (16 * n) % 2 ^ 16
     let len := 4 * (half 0 % 256)
     let dest := 256 * (half (k + 1) / 2 ^ 8 % 2 ^ 7) + half (k + 1) % 2 ^ 8
     let granted : Bool := decide (k < half 0 / 2 ^ 8 % 2 ^ 5) && decide (2 ^ 15 ≤ half (k + 1)) && !p.used.getLsbD k
     let starts := fun n : Nat => p.tOpen.toNat + 64 + n * len
     let ok : Bool := p.inPhase && granted && inRect (st.domain.toNat % 2 ^ 32) dest && s.inAllot (s.ctxOf w.core) dest
     let row := (s.tile w tl).row (v / 2 ^ 32 % 16)
     let mark := s.setStrand w { st with phase := { p with used := p.used ||| (1 <<< k) } }
     let sent := fun (s : State) => s.send w { (s.packet w .row none).aim (.away dest off) 64 with
       data := row, hid := k, cmp := p.tOpen, expiry := BitVec.ofNat 64 (starts (k + 1)) }
     let ops : List Opnd := [.mem, .tsrc tl, .src b, .status 0x24, .status 0x13]
     (Able s f ops →
       (ok = false → exec (.tsend f slot tl b) s = traps s f { code := .slot }) ∧
       (ok = true → off % 64 ≠ 0 → exec (.tsend f slot tl b) s = traps s f { code := .align, va := BitVec.ofNat 64 off }) ∧
       (ok = true → off % 64 = 0 → 0x20000 ≤ off → exec (.tsend f slot tl b) s = traps s f { code := .access, cause := 35, va := BitVec.ofNat 64 off }) ∧
       (ok = true → off % 64 = 0 → off < 0x20000 →
         (starts (k + 1) ≤ s.time.toNat → exec (.tsend f slot tl b) s = traps s f { code := .slot }) ∧
         (s.time.toNat < starts (k + 1) → starts k ≤ s.time.toNat → exec (.tsend f slot tl b) s = retires s f ops 16 (sent mark)) ∧
         (s.time.toNat < starts (k + 1) → s.time.toNat < starts k → ∃ t, exec (.tsend f slot tl b) s = .next t ∧ t.net = s.net ∧
           (t.strand w).phase.tsRow = some (row, k, off) ∧ (t.strand w).phase.used = p.used ||| (1 <<< k) ∧
           (t.strand w).wait = some (mkWait .tsend false (lenBytes f.len) 16)))) ∧
     (∀ x r n o, st.wait = some x → x.kind = .tsend → (s.core w.core).st = .active → p.tsRow = some (r, n, o) →
       (s.time.toNat < starts n → exec (.tsendSlotStart w.core w.strand) s = .next s) ∧
       (starts n ≤ s.time.toNat → ∃ (t : State) (q : Packet), exec (.tsendSlotStart w.core w.strand) s = becomes t.wake ∧ t.pkt s.nextId = some q ∧ q.kind = .row ∧
         q.core = 256 * (half (n + 1) / 2 ^ 8 % 2 ^ 7) + half (n + 1) % 2 ^ 8 ∧ q.off = o ∧ q.bytes = 64 ∧ q.data = r ∧ q.hid = n ∧ q.cmp = p.tOpen ∧
         (t.strand w).phase.tsRow = none ∧ (t.strand w).wait = none)) ∧
     (∀ id q, s.pkt id = some q → q.kind = .row → q.landed = false → q.refused = false → s.isActive q.ctx q.core = true → isLm q.flat = true →
       s.storeBad q = false → s.carried q = true → s.rowTurn q = true → s.blocked q false = false →
       exec (.tsendLand id) s = becomes (((s.landStore q).delPkt id).settleDomains).wake))

/-- kdecl, kacq, ktry, krel and kquery: form, claim, grant, wait and release; the Tumbler grants in turn. A request word out of form traps ILLOP. kdecl with nothing held and counts within the pools sets the claim, else traps CLAIM. kacq and ktry first let the Tumbler cycle: kacq traps CLAIM beyond the claim, is granted and gives d the new holdings, or joins the end of the queue and waits; ktry gives d the code 0 to 3 and is granted at 0. krel of counts held waits for the loads and accesses that use them and moves the last units of each list into Limbo; beyond the holdings it traps CLAIM. kquery gives d holdings, claim, free units or waiting requests. A Tumbler cycle on an ACTIVE core keeps of Limbo the units the array still holds; a request stays in the queue exactly when, the older ones having been served, it is not grantable, and one that is has its counts added to the strand's holdings. -/
def Obligations.KeyringInstructions : Prop :=
  ∀ (f : Form) (d a : Reg) (s : State),
    let w := s.cur
    let v := s.reg w a
    let x := v.toNat
    let st := s.strand w
    let c : Counts := ⟨x % 4, x / 2 ^ 8 % 2 ^ 5, x / 2 ^ 16 % 2 ^ 6, x / 2 ^ 24 % 4⟩
    let ok : Bool := decide (x / 2 ^ 26 = 0) && decide (x / 2 ^ 22 % 4 = 0) && decide (x / 2 ^ 13 % 8 = 0) && decide (x / 4 % 2 ^ 6 = 0) &&
      decide (c.mxs ≤ 2) && decide (c.lmg ≤ 48) && decide (c.tile ≤ 16)
    let held : Counts := ⟨st.hold.reg.length, st.hold.tile.length, st.hold.lmg.length, st.hold.mxs.length⟩
    let wordOf := fun c : Counts => BitVec.ofNat 64 (c.reg + 2 ^ 8 * c.tile + 2 ^ 16 * c.lmg + 2 ^ 24 * c.mxs)
    let s1 := s.tumble w.core
    let code := (s1.live w.core).evaluate w.strand c
    let granted := s1.setLive w.core ((s1.live w.core).grant w.strand c)
    let da : List Opnd := [.dst d, .src a]
    (Able s f [.src a] →
      (ok = false → exec (.kdecl f a) s = traps s f { code := .illop } ∧ exec (.krel f a) s = traps s f { code := .illop }) ∧
      (ok = true →
        exec (.kdecl f a) s = (if held = ⟨0, 0, 0, 0⟩ ∧ c.reg ≤ 8 ∧ c.tile ≤ 32 ∧ c.lmg ≤ 48 ∧ c.mxs ≤ 2
          then retires s f [.src a] 16 (s.setStrand w { st with claim := c }) else traps s f { code := .claim }) ∧
        (c.le held = false → exec (.krel f a) s = traps s f { code := .claim }) ∧
        (c.le held = true → s.relWaits w c = true → exec (.krel f a) s = waits s (mkWait .operand true 0 0)) ∧
        (c.le held = true → s.relWaits w c = false → ∃ t, exec (.krel f a) s = retires s f [.src a] 16 t ∧
          (t.strand w).hold = ⟨st.hold.reg.take (held.reg - c.reg), st.hold.tile.take (held.tile - c.tile),
            st.hold.lmg.take (held.lmg - c.lmg), st.hold.mxs.take (held.mxs - c.mxs)⟩ ∧
          (∀ r u, (r, u) ∈ (t.live w.core).limbo ↔ (r, u) ∈ (s.live w.core).limbo ∨
            (u ∈ st.hold.of r ∧ ∃ j, (st.hold.of r)[j]? = some u ∧ (st.hold.of r).length -
              (match r with | .reg => c.reg | .tile => c.tile | .lmg => c.lmg | .mxs => c.mxs) ≤ j))))) ∧
    (Able s f da →
      (ok = false → exec (.kacq f d a) s = traps s f { code := .illop } ∧ exec (.ktry f d a) s = traps s f { code := .illop }) ∧
      (ok = true →
        exec (.ktry f d a) s = retires s f da 16 ((if code = 0 then granted else s1).setReg w d (BitVec.ofNat 64 code)) ∧
        (code = 3 → exec (.kacq f d a) s = traps s f { code := .claim }) ∧
        (code = 0 → exec (.kacq f d a) s = retires s f da 16 (granted.setReg w d (wordOf (granted.strand w).hold.counts))) ∧
        (code = 1 ∨ code = 2 → ∃ t, exec (.kacq f d a) s = .next t ∧
          (t.live w.core).kqueue = (s1.live w.core).kqueue ++ [⟨w.strand, c⟩] ∧
          (t.strand w).wait = some { mkWait .kacq false (lenBytes f.len) 16 with d := d } ∧ (t.live w.core).regs = (s1.live w.core).regs))) ∧
    (Able s f [.dst d] →
      let put := fun v : Word => retires s f [.dst d] 16 (s.setReg w d v)
      exec (.kquery f d 0) s = put (wordOf held) ∧ exec (.kquery f d 1) s = put (wordOf st.claim) ∧
      exec (.kquery f d 2) s = put (wordOf (s.live w.core).freeCounts) ∧
      exec (.kquery f d 3) s = put (BitVec.ofNat 64 (s.live w.core).kqueue.length)) ∧
    (∀ core, (s.core core).st = .active → exec (.tumblerCycle core) s = becomes (s.tumble core).wake) ∧
    (∀ core u, u ∈ ((s.tumble core).live core).limbo ↔ u ∈ (s.live core).limbo ∧ (s.live core).arrayHolds u = true) ∧
    (∀ core pre q post, (s.live core).kqueue = pre ++ q :: post → ((s.live core).kqueue.map (·.strand)).Nodup →
      let older := (s.setLive core { s.live core with kqueue := pre }).tumble core
      let u := s.tumble core
      let g := (older.live core).evaluate q.strand q.req
      (q ∈ (u.live core).kqueue ↔ g ≠ 0) ∧
      (u.strand ⟨core, q.strand⟩).hold.counts =
        (if g = 0 then (s.strand ⟨core, q.strand⟩).hold.counts.add q.req else (s.strand ⟨core, q.strand⟩).hold.counts)) ∧
    (∀ core q, (s.live core).limbo = [] → (s.live core).kqueue = [q] → q.strand < 4 →
      let u := s.tumble core
      ((s.live core).evaluate q.strand q.req = 0 → (s.strand ⟨core, q.strand⟩).wait ≠ none →
        (u.live core).kqueue = [] ∧ (u.strand ⟨core, q.strand⟩).wait = none ∧
        (u.strand ⟨core, q.strand⟩).hold.counts = (s.strand ⟨core, q.strand⟩).hold.counts.add q.req) ∧
      ((s.live core).evaluate q.strand q.req ≠ 0 → (u.live core).kqueue = [q] ∧ u.strand ⟨core, q.strand⟩ = s.strand ⟨core, q.strand⟩))

/-- What a grant gives: free units in order, registers that read zero; no unit twice, and every strand can still finish. Evaluate gives 3 where holdings plus request exceed the claim, else 1 where the request exceeds the free units, else 2 where the state after it would not be safe, else 0. A grant at code 0 appends, for each type, the first free units in the order of the pool; the registers of new blocks read zero and new slots are empty; no unit of a type is held twice, in Limbo or kept, if none was before; and the state of the pools is safe after it. Pools are safe exactly when the four strands have an order in which each one's claim fits its holdings and the units that are free, in Limbo or kept, with what those before it in the order hold. -/
def Obligations.GrantsAreSafe : Prop :=
  ∀ (l : CoreCtx) (i : Nat) (c : Counts), i < 4 →
    let h := (l.strand i).hold
    let after := h.counts.add c
    let l' := l.grant i c
    let give := fun (r : Res) => (l.free r).take (match r with | .reg => c.reg | .tile => c.tile | .lmg => c.lmg | .mxs => c.mxs)
    l.evaluate i c = (if after.le (l.strand i).claim = false then 3 else if c.le l.freeCounts = false then 1
      else if l.safe (l.freeCounts.sub c) (fun k => if k = i then after else (l.strand k).hold.counts) = false then 2 else 0) ∧
    (∀ r, (l'.strand i).hold.of r = h.of r ++ give r) ∧
    (∀ r, (give r).Pairwise (fun x y => if r = .lmg then y < x else x < y)) ∧
    (∀ k, k ≠ i → l'.strand k = l.strand k) ∧ (l'.strand i).claim = (l.strand i).claim ∧ l'.limbo = l.limbo ∧
    (∀ b n, b ∈ give .reg → n < 16 → AMap.get 0 l'.regs (16 * b + n) = 0) ∧
    (∀ p, p / 16 ∉ give .reg → AMap.get 0 l'.regs p = AMap.get 0 l.regs p) ∧
    (∀ m, m ∈ give .mxs → AMap.get MxaSlot.empty l'.slots m = MxaSlot.empty) ∧
    (∀ r, (l.taken r).Nodup → (l'.taken r).Nodup) ∧
    (l.evaluate i c = 0 → l'.safe l'.freeCounts (fun k => (l'.strand k).hold.counts) = true ∧
      ∀ r, (give r).length = (match r with | .reg => c.reg | .tile => c.tile | .lmg => c.lmg | .mxs => c.mxs)) ∧
    (∀ (F : Counts) (H : Nat → Counts),
      let num := fun (c : Counts) (r : Res) => match r with | .reg => c.reg | .tile => c.tile | .lmg => c.lmg | .mxs => c.mxs
      l.safe F H = true ↔ ∃ p : List Nat, p.Perm [0, 1, 2, 3] ∧ ∀ pre k post, p = pre ++ k :: post → ∀ r,
        num (l.strand k).claim r ≤ num (H k) r + num F r + (l.limbo.filter (fun u => u.1 == r)).length +
          (l.kept.filter (fun u => u.2.1 == r)).length + (pre.map (fun j => num (H j) r)).sum)

/-- The six barrier instructions and the leave of a waiter: fields of the object before and after, status, traps. On an object that passes the common check: binit raises GEN, opens the object with its count, 1 to 65535, LAST 2 and nothing arrived, and clears the poison record; barr and barw of an OPEN object count an arrival, and the last one raises GEN, sets LAST 0 and clears ARRIVED; barr gives d the GEN found; bwait and barw leave at once with status 1 when POISONED, with LAST when GEN is another, and wait otherwise; bpoison of an OPEN object sets STATE 2 and the record; bquery reads a dword. barr, bwait, barw and bpoison of an INVALID object trap ACCESS with CAUSE 39. A misaligned address traps ALIGN, and a count out of range ILLOP once the page is right. A release waits for what is covered, bwait for earlier reads, an acquire while a covered written line cannot go home. No byte outside the object's 16 changes from the state published. A waiter leaves, or traps, by the same rule, but waits while its object's core is away or its core droops, and traps ECC where the object is in error. That binit clears the reserved bits [43:32] of the barrier word, and an arrival keeps them, is log entry 44. -/
def Obligations.BarrierInstructions : Prop :=
  (∀ v : Word, barGen v = v.toNat / 2 ^ 48 ∧ barState v = v.toNat / 2 ^ 46 % 4 ∧ barLast v = v.toNat / 2 ^ 44 % 4 ∧
    barArrived v = v.toNat / 2 ^ 16 % 2 ^ 16 ∧ barCount v = v.toNat % 2 ^ 16 ∧
    barInvalid v = (barState v == 0 || barState v == 3 || barCount v == 0 || (barState v == 1 && decide (barCount v ≤ barArrived v))) ∧
    ∀ g, barLeave v g = if barState v = 2 then some 1 else if barGen v ≠ g then some (barLast v) else none) ∧
  (∀ (f : Form) (d a b e : Reg) (q : BitVec 6) (s : State),
    let w := s.cur
    let va := s.reg w a
    let rops : List Opnd := [.dst d, .scope e, .mem, .src a]
    let wops : List Opnd := [.dst d, .src b, .scope e, .mem, .src a]
    let pops : List Opnd := [.src b, .scope e, .mem, .src a]
    (va.toNat % 64 ≠ 0 →
      (Able s f [.mem, .src a, .src b] → exec (.binit f a b) s = traps s f { code := .align, va := va, kind := 2 }) ∧
      (Able s f rops → exec (.barr f d a e) s = traps s f { code := .align, va := va, kind := 2 } ∧
        exec (.barw f d a e) s = traps s f { code := .align, va := va, kind := 2 }) ∧
      (Able s f wops → exec (.bwait f d a b e) s = traps s f { code := .align, va := va, kind := 2 }) ∧
      (Able s f pops → exec (.bpoison f a b e) s = traps s f { code := .align, va := va, kind := 2 }) ∧
      (Able s f [.dst d, .mem, .src a] → exec (.bquery f d a q) s = traps s f { code := .align, va := va, kind := 2 })) ∧
    (∀ p, s.barPage w va = .ok p → Able s f [.mem, .src a, .src b] → (s.reg w b).toNat = 0 ∨ 65535 < (s.reg w b).toNat →
      exec (.binit f a b) s = traps s f { code := .illop }) ∧
    (∀ o s1, s.barObj w va = .obj o s1 →
      let ack := fun s : State => if o.own then s else s.ackNow w
      let s2 := ack (s1.publish w (.object o.flat) (s.scopeOf w e))
      let s3 := ack s1
      let at_ := fun (s : State) => s.readW o.flat
      let cut : Bool := s.takeCut w (.object o.flat)
      let rest := fun (s t : State) => ∀ x, x < o.flat ∨ o.flat + 16 ≤ x → memByte t.mem x = memByte s.mem x
      (Able s f [.mem, .src a, .src b] →
        let n := (s.reg w b).toNat
        ((n = 0 ∨ 65535 < n) → exec (.binit f a b) s = traps s f { code := .illop }) ∧
        (0 < n → n ≤ 65535 → ∃ t, exec (.binit f a b) s = retires s f [.mem, .src a, .src b] 16 t ∧ rest s1 t ∧
          barFields (at_ t) = ((barGen (at_ s1) + 1) % 2 ^ 16, 1, 2, 0, 0, n) ∧ t.readW (o.flat + 8) = 0)) ∧
      (s.relBusy w (.object o.flat) (s.scopeOf w e) = true →
        (Able s f rops → exec (.barr f d a e) s = waits s (mkWait .remote true 0 0) ∧ exec (.barw f d a e) s = waits s (mkWait .remote true 0 0)) ∧
        (Able s f pops → exec (.bpoison f a b e) s = waits s (mkWait .remote true 0 0))) ∧
      (Able s f rops → cut = true → exec (.barw f d a e) s = waits s (mkWait .remote true 0 0)) ∧
      (Able s f rops → s.relBusy w (.object o.flat) (s.scopeOf w e) = false → at_ s2 = at_ s1 →
        (barInvalid (at_ s1) = true → exec (.barr f d a e) s = traps s f { code := .access, cause := 39, va := o.va, kind := 2 } ∧
          (cut = false → exec (.barw f d a e) s = traps s f { code := .access, cause := 39, va := o.va, kind := 2 })) ∧
        (barInvalid (at_ s1) = false →
          (∃ t, exec (.barr f d a e) s = retires s f rops 16 t ∧ rest s2 t ∧ t.reg w d = (if d = 0 then 0 else BitVec.ofNat 64 (barGen (at_ s2))) ∧
            (barState (at_ s2) = 1 → barFields (at_ t) = barOne (at_ s2)) ∧ (barState (at_ s2) ≠ 1 → at_ t = at_ s2)) ∧
          (cut = false → barState (at_ s2) = 2 → ∃ t, exec (.barw f d a e) s = retires s f rops 16 t ∧ t.reg w d = (if d = 0 then 0 else 1) ∧
            ((s2.acqOf w o.flat e).ranges = [] ∨ isLm o.flat = false ∧ o.flat % 64 = 0 → at_ t = at_ s2)) ∧
          (cut = false → barState (at_ s2) = 1 → barArrived (at_ s2) + 1 = barCount (at_ s2) → ∃ t, exec (.barw f d a e) s = retires s f rops 16 t ∧
            t.reg w d = 0 ∧ ((s2.acqOf w o.flat e).ranges = [] ∨ isLm o.flat = false ∧ o.flat % 64 = 0 →
              barFields (at_ t) = ((barGen (at_ s2) + 1) % 2 ^ 16, 1, 0, (at_ s2).toNat / 2 ^ 32 % 2 ^ 12, 0, barCount (at_ s2)))) ∧
          (cut = false → barState (at_ s2) = 1 → barArrived (at_ s2) + 1 ≠ barCount (at_ s2) → ∃ t, exec (.barw f d a e) s = .next t ∧ rest s2 t ∧
            barFields (at_ t) = barOne (at_ s2) ∧ (t.strand w).wait = some { mkWait .barrier false (lenBytes f.len) 16 with
              d := d, obj := o.va, flat := o.flat, gen := BitVec.ofNat 64 (barGen (at_ s2)),
              acq := some (s2.acqOf w o.flat e) }))) ∧
      (Able s f wops → s.readsBusy w = true ∨ cut = true → exec (.bwait f d a b e) s = waits s (mkWait .remote true 0 0)) ∧
      (Able s f wops → s.readsBusy w = false → cut = false →
        let g := (s3.reg w b).toNat % 2 ^ 16
        (barInvalid (at_ s1) = true → exec (.bwait f d a b e) s = traps s f { code := .access, cause := 39, va := o.va, kind := 2 }) ∧
        (∀ x, barInvalid (at_ s1) = false → barLeave (at_ s3) g = some x → ∃ t, exec (.bwait f d a b e) s = retires s f wops 16 t ∧
          t.reg w d = (if d = 0 then 0 else BitVec.ofNat 64 x)) ∧
        (barInvalid (at_ s1) = false → barLeave (at_ s3) g = none → ∃ t, exec (.bwait f d a b e) s = .next t ∧ t.mem = s3.mem ∧
          (t.strand w).wait = some { mkWait .barrier false (lenBytes f.len) 16 with
            d := d, obj := o.va, flat := o.flat, gen := BitVec.ofNat 64 g, acq := some (s3.acqOf w o.flat e) })) ∧
      (Able s f pops → s.relBusy w (.object o.flat) (s.scopeOf w e) = false → at_ s2 = at_ s1 →
        (barInvalid (at_ s1) = true → exec (.bpoison f a b e) s = traps s f { code := .access, cause := 39, va := o.va, kind := 2 }) ∧
        (barInvalid (at_ s1) = false → ∃ t, exec (.bpoison f a b e) s = retires s f pops 16 t ∧ rest s2 t ∧
          (barState (at_ s2) = 1 → barState (at_ t) = 2 ∧ barGen (at_ t) = barGen (at_ s2) ∧ (w.core < 2 ^ 15 → (t.readW (o.flat + 8)).toNat =
            2 ^ 48 * barGen (at_ s2) + 2 ^ 32 * w.core + (s2.reg w b).toNat % 2 ^ 32)) ∧
          (barState (at_ s2) ≠ 1 → t.mem = s2.mem))) ∧
      (Able s f [.dst d, .mem, .src a] →
        let done := s3.barDone (s.strand w).birth (s.strand w).points (s.via w o.va) o.flat
        exec (.bquery f d a 0) s = retires s f [.dst d, .mem, .src a] 16 (done.setReg w d (s3.readW o.flat)) ∧
        exec (.bquery f d a 1) s = retires s f [.dst d, .mem, .src a] 16 (done.setReg w d (s3.readW (o.flat + 8))) ∧ rest s3 done)) ∧
    (∀ v, (s.strand w).wait = some v → v.kind = .barrier → (s.core w.core).st = .active →
      let pc := (s.strand w).pc
      let held : Bool := s.barAway (s.ctxOf w.core) v.flat || (s.drooping w.core && !(isLm v.flat && lmCore v.flat == w.core))
      (held = true → exec (.barrierWaiterLeave w.core w.strand) s = .next s) ∧
      (∀ c, held = false → s.eccCause (clusterOf w.core) v.flat 16 = some c →
        ∃ u, s.takeTrap w { code := .ecc, cause := c, va := v.obj, kind := 2, hurt := (v.flat, 16) } pc (pc + BitVec.ofNat 64 v.len) = .next u ∧
          exec (.barrierWaiterLeave w.core w.strand) s = becomes u.wake) ∧
      (s.eccCause (clusterOf w.core) v.flat 16 = none → held = false → barInvalid (s.readW v.flat) = true →
        ∃ u, s.takeTrap w { code := .access, cause := 39, va := v.obj, kind := 2 } pc (pc + BitVec.ofNat 64 v.len) = .next u ∧
          exec (.barrierWaiterLeave w.core w.strand) s = becomes u.wake) ∧
      (s.eccCause (clusterOf w.core) v.flat 16 = none → held = false → barInvalid (s.readW v.flat) = false →
        barLeave (s.readW v.flat) v.gen.toNat = none →
        exec (.barrierWaiterLeave w.core w.strand) s = .next s) ∧
      (∀ x, s.eccCause (clusterOf w.core) v.flat 16 = none → held = false → barInvalid (s.readW v.flat) = false →
        barLeave (s.readW v.flat) v.gen.toNat = some x →
        x ≤ 1 → s.takeCut w (.ranges (v.acq.getD ⟨v.flat, 0, []⟩).ranges) = true → exec (.barrierWaiterLeave w.core w.strand) s = .next s) ∧
      (∀ x, s.eccCause (clusterOf w.core) v.flat 16 = none → held = false → barInvalid (s.readW v.flat) = false →
        barLeave (s.readW v.flat) v.gen.toNat = some x → 1 < x ∨ s.takeCut w (.ranges (v.acq.getD ⟨v.flat, 0, []⟩).ranges) = false →
        ∃ t : State, exec (.barrierWaiterLeave w.core w.strand) s = becomes t.wake ∧
        t.reg w v.d = (if v.d = 0 ∨ (s.strand w).holds v.d = false then 0 else BitVec.ofNat 64 x) ∧ (t.strand w).wait = none)))

/-- What an xfer makes of its source elements: copy, transpose, FRC encode and decode, MX quantise, LUT4 expansion. Copy takes element j to element j with its bits unchanged; transpose takes the element with the first two indexes exchanged. FrcEncode of a block of finite elements holds in bits [7:0] the greatest biased exponent field S and in field i of m bits the element times 2^(125 + m - S), rounded to nearest even and held within the m-bit signed range; a block with a NaN or an infinity gives S and side code 0xFF and mantissas 0. The last byte of a block is written with its side byte. A decoded element comes of the bytes of its block, and FrcDecode of S = 0xFF gives canonical NaNs, else the rounded c times 2^(S - 125 - m). MX quantisation of 32 elements gives scale 0xFF and codes 0 for a NaN or an infinity among them, 0x7F and codes 0 for zeros; else, X being the exponent of the greatest magnitude less Emx, scale 0 and codes 0 below -127, and above it, X held at 127, scale X + 127 and each element divided by 2^X, rounded, at most the largest; the last code is written with the scale. LUT4 expansion gives the table entry captured at issue, in an integer or a float type. -/
def Obligations.TransferElements : Prop :=
  (∀ (r : XferRec) (s d : LRec) (j : Nat) (v : Nat),
    (r.xform = 0 → xferNeeds 0 r.budget.toNat s d j = [j] ∧ xferValue r s d j [v] = (v, none)) ∧
    (r.xform = 1 → xferNeeds 1 r.budget.toNat s d j = [s.number ((d.index j).2.1, (d.index j).1, (d.index j).2.2.1, (d.index j).2.2.2)] ∧
      xferValue r s d j [v] = (v, none)) ∧
    (r.xform = 5 → xferNeeds 5 r.budget.toNat s d j = [j] ∧
      let x : Int := sval 8 (r.lut.toNat / 2 ^ (8 * v))
      (d.ty = .i8 ∨ d.ty = .i16 ∨ d.ty = .i32 → xferValue r s d j [v] = (wrap (8 * memWidth d.ty) x, none)) ∧
      (d.ty = .bf16 ∨ d.ty = .f16 ∨ d.ty = .f32 → xferValue r s d j [v] = ((roundTo (fmtOf d.ty) 0 false (Num.ofInt x)).1, none)))) ∧
  (∀ (r : XferRec) (s d : LRec) (j : Nat) (vs : List Nat), r.xform = 3 →
    let n := frcBytes r.budget.toNat
    let i := d.index j
    let block := i.1 / 4 + d.e0 / 4 * (i.2.1 / 4 + d.e1 / 4 * (i.2.2.1 + d.e2 * i.2.2.2))
    xferNeeds 3 r.budget.toNat s d j = (List.range n).map (fun k => block * n + k) ∧
    xferValue r s d j vs = (frcDecode (fmtOf d.ty) (frcBits r.budget.toNat) (vs.foldr (fun b acc => b + 256 * acc) 0)
      (4 * (i.2.1 % 4) + i.1 % 4), none)) ∧
  (∀ (r : XferRec) (s d : LRec) (j : Nat) (vs : List Nat), r.xform = 4 → d.ty = .e4m3 ∨ d.ty = .e5m2 → vs.length = 32 →
    let f := fmtOf d.ty
    let c := r.fctlc
    let xs := vs.map (readF (fmtOf s.ty) c)
    let emx : Int := if d.ty = .e4m3 then 8 else 15
    let top : Machine.Num → Option Int := fun x => match x with | .fin _ m e _ => some ((Nat.log2 m : Int) + e) | _ => none
    let bad : Machine.Num → Bool := fun x => match x with | .nan _ | .inf _ => true | _ => false
    let gives := fun (scale : Nat) (code : Nat → Nat) =>
      xferValue r s d j vs = (code (j % 32), if j % 32 = 31 then some (j / 32, scale) else none)
    let clip := fun (k : Int) (i : Nat) =>
      let y := (xs.getD i (.zero false)).scale (-k)
      let z := roundTo f (fctlMode c) (fctlFz c) y
      if z.2 &&& fOF ≠ 0 then (if y.neg? then f.signBit else 0) + f.maxBits else z.1
    xferNeeds 4 r.budget.toNat s d j = (List.range 32).map (fun k => j / 32 * 32 + k) ∧
    ((∃ x ∈ xs, bad x = true) → gives 0xFF (fun _ => 0)) ∧
    ((∀ x ∈ xs, bad x = false ∧ top x = none) → gives 0x7F (fun _ => 0)) ∧
    (∀ t, (∀ x ∈ xs, bad x = false) → (∃ x ∈ xs, top x = some t) → (∀ x ∈ xs, ∀ u, top x = some u → u ≤ t) →
      (t - emx < -127 → gives 0 (fun _ => 0)) ∧
      (-127 ≤ t - emx → t - emx ≤ 127 → gives (t - emx + 127).toNat (clip (t - emx))) ∧
      (127 < t - emx → gives 0xFE (clip 127)))) ∧
  (∀ (r : XferRec) (s d : LRec) (j : Nat) (vs : List Nat), r.xform = 2 →
    let n := frcBytes r.budget.toNat
    xferNeeds 2 r.budget.toNat s d j = (List.range 16).map (s.frcElem (j / n)) ∧
    (xferValue r s d j vs).1 = (frcEncode (fmtOf s.ty) (frcBits r.budget.toNat) vs).1 / 2 ^ (8 * (j % n)) % 256 ∧
    (xferValue r s d j vs).2 = (if j % n + 1 = n then some (j / n, (frcEncode (fmtOf s.ty) (frcBits r.budget.toNat) vs).2) else none)) ∧
  (∀ (f : Fmt) (m : Nat) (xs : List Nat), f = fmtOf .bf16 ∨ f = fmtOf .f32 → m = 4 ∨ m = 8 ∨ m = 16 → xs.length = 16 →
    (∀ x ∈ xs, x < 2 ^ (if f = fmtOf .bf16 then 16 else 32)) →
    let code := (frcEncode f m xs).1
    ((∃ x ∈ xs, fIsNan f x = true ∨ fIsInf f x = true) → frcEncode f m xs = (0xFF, 0xFF)) ∧
    ((∀ x ∈ xs, fIsNan f x = false ∧ fIsInf f x = false) →
      (∀ x ∈ xs, biasedExp f x ≤ code % 256) ∧ (∃ x ∈ xs, biasedExp f x = code % 256) ∧
      ∀ (i x : Nat), xs[i]? = some x →
        sval m (code / 2 ^ (8 + m * i)) = max (-(2 ^ (m - 1))) (min (2 ^ (m - 1) - 1)
          (roundInt 0 ((fVal f x).scale (125 + m - ((code % 256 : Nat) : Int)))).1)) ∧
    (∀ c i, c % 256 = 0xFF → frcDecode f m c i = f.nan) ∧
    (∀ c i, c % 256 ≠ 0xFF → frcDecode f m c i =
      (roundTo f 0 false ((Num.ofInt (sval m (c / 2 ^ (8 + m * i)))).scale (((c % 256 : Nat) : Int) - 125 - m))).1))

/-- xfer: its traps, its record; the engine starts in issue order, completes and arrives, stops at a fault, goes on at DONE. An xfer whose record offsets are misaligned or outside LM, whose records or pairing R322 and R323 do not admit, or whose barrier address is misaligned traps; with no free record it waits; else it takes the first free record, which holds what it captured. The engine starts the oldest operation when every one that has begun has completed. A running operation that meets no fault completes: the record is free and its barrier has its arrival, or, at an INVALID object, a report. One that meets a fault, in its run or at its barrier, stops, keeps its record with DONE, and is reported; when serviced it goes on, reading its records again first where a restore has still to do so (log entry 91). A fault of the barrier operation is reported as KIND 5 with the barrier's address (log entry 31). A write of the engine to a page in HBM over links that carry it lands in the page's shadow frame. The order of an xfer's traps is the model's (log entry 92). -/
def Obligations.TransfersRun : Prop :=
  (∀ (f : Form) (xf : BitVec 3) (bud : BitVec 2) (d a b : Reg) (s : State),
    let w := s.cur
    let feat : List Opnd := if xf = 2 ∨ xf = 3 then [.feat 2] else if xf = 5 then [.feat 1] else []
    let ops : List Opnd := (feat ++ [.mem, .src a, .src b] ++ if d = 0 then [] else [.src d])
    let so := s.reg w a
    let dof := s.reg w b
    let bar := if d = 0 then 0 else s.reg w d
    Able s f ops →
      (so.toNat % 64 ≠ 0 → exec (.xfer f xf bud d a b) s = traps s f { code := .align, va := so }) ∧
      (so.toNat % 64 = 0 → 0x30000 ≤ so.toNat → exec (.xfer f xf bud d a b) s = traps s f { code := .access, cause := 35, va := so }) ∧
      (so.toNat % 64 = 0 → so.toNat < 0x30000 → dof.toNat % 64 ≠ 0 → exec (.xfer f xf bud d a b) s = traps s f { code := .align, va := dof }) ∧
      (so.toNat % 64 = 0 → so.toNat < 0x30000 → dof.toNat % 64 = 0 → 0x30000 ≤ dof.toNat →
        exec (.xfer f xf bud d a b) s = traps s f { code := .access, cause := 35, va := dof }) ∧
      (∀ sr dr, s.readLrec w so = .ok sr → s.readLrec w dof = .ok dr → (s.lrecBusy w so = true ∨ s.lrecBusy w dof = true) →
        exec (.xfer f xf bud d a b) s = waits s (mkWait .operand true 0 0)) ∧
      (∀ sr dr, s.readLrec w so = .ok sr → s.readLrec w dof = .ok dr → s.lrecBusy w so = false → s.lrecBusy w dof = false →
        (∀ t, lrecTrap sr so = some t → exec (.xfer f xf bud d a b) s = traps s f t) ∧
        (lrecTrap sr so = none → lrecTrap dr dof = none →
          (xformOk xf.toNat bud.toNat (LRec.of sr) (LRec.of dr) = false → exec (.xfer f xf bud d a b) s = traps s f { code := .illop }) ∧
          (xformOk xf.toNat bud.toNat (LRec.of sr) (LRec.of dr) = true →
            (bar.toNat % 64 ≠ 0 → exec (.xfer f xf bud d a b) s = traps s f { code := .align, va := bar }) ∧
            (bar.toNat % 64 = 0 →
              ((∀ k, k < 4 → s.xferRec w.core k ≠ none) → exec (.xfer f xf bud d a b) s = waits s (mkWait .xferFull true 0 0)) ∧
              (∀ k, k < 4 → s.xferRec w.core k = none → (∀ j, j < k → s.xferRec w.core j ≠ none) →
                let r : XferRec := {
                  xform := xf, budget := bud, strand := w.strand, pc := (s.strand w).pc, srec := so.setWidth 18, drec := dof.setWidth 18,
                  bar := bar, done := 0, fctlc := (s.strand w).fctl, lut := (s.live w.core).lut, src := sr, dst := dr,
                  started := false, fault := none, order := s.nextId, job := (s.strand w).job, priv := (s.strand w).priv,
                  birth := (s.strand w).birth, left := none, stale := false }
                exec (.xfer f xf bud d a b) s =
                  retires s f ops 16 (({ s with nextId := s.nextId + 1 }.setXfer w.core k (some r)).noteXferBar w.core r))))))) ∧
  (∀ (bits_ : BitVec 512) (off : Word),
    let r := LRec.of bits_
    (r.e0 = 0 ∨ r.e1 = 0 ∨ r.e2 = 0 ∨ r.e3 = 0 ∨ r.ty = .i64 ∨ r.ty = .n64 → lrecTrap bits_ off = some { code := .illop }) ∧
    (lrecTrap bits_ off = none → r.base.toNat % r.width = 0 ∧ 0 < r.count)) ∧
  (∀ (core k : Nat) (r : XferRec) (s : State), k < 4 → (s.core core).st = .active → s.xferRec core k = some r →
    ((∃ j q, j < 4 ∧ s.xferRec core j = some q ∧ q.started = true) → exec (.xferOpStart core) s = becomes s.wake) ∧
    ((∀ j, j < 4 → ∀ q, s.xferRec core j = some q → q.started = false ∧ (j ≠ k → r.order < q.order)) →
      exec (.xferOpStart core) s = becomes (s.setXfer core k (some { r with started := true })).wake) ∧
    (r.started = true → r.fault = none →
      let run := s.runXfer core k r none
      (∀ t, run.2.2 = none → run.1.engArrive core run.2.1 = .arrived t →
        exec (.xferComplete core (BitVec.ofNat 2 k)) s = becomes (t.setXfer core k none).wake ∧ (t.setXfer core k none).xferRec core k = none) ∧
      (let bad : XFault := ⟨18, 39, 0, 0, run.2.1.bar⟩
       run.2.2 = none → run.1.engArrive core run.2.1 = .invalid →
        exec (.xferComplete core (BitVec.ofNat 2 k)) s = becomes ((run.1.setXfer core k (some { run.2.1 with fault := some bad })).report (dieOf core)
          (run.2.1.report (run.1.ctxOf core) core k bad)).wake) ∧
      (∀ c l en, run.2.2 = none → run.1.engArrive core run.2.1 = .fault c l en →
        let bad : XFault := ⟨5, c, l, en, run.2.1.bar⟩
        exec (.xferFault core (BitVec.ofNat 2 k)) s = becomes ((run.1.setXfer core k (some { run.2.1 with fault := some bad })).report (dieOf core)
          (run.2.1.report (run.1.ctxOf core) core k bad)).wake) ∧
      (∀ fl, run.2.2 = some (.fault fl) →
        exec (.xferFault core (BitVec.ofNat 2 k)) s = becomes ((run.1.setXfer core k (some { run.2.1 with fault := some fl })).report (dieOf core)
          (run.2.1.report (run.1.ctxOf core) core k fl)).wake)) ∧
    (r.fault ≠ none → r.stale = false → exec (.xferResume core (BitVec.ofNat 2 k)) s = becomes (s.setXfer core k (some { r with fault := none })).wake) ∧
    (∀ p q, r.fault ≠ none → r.stale = true → lmPhys (s.engHold core r) r.srec.toNat = some p → lmPhys (s.engHold core r) r.drec.toNat = some q →
      (s.eccCause (clusterOf core) (lmFlat core p) 64 = none → s.eccCause (clusterOf core) (lmFlat core q) 64 = none →
        exec (.xferResume core (BitVec.ofNat 2 k)) s = becomes (s.setXfer core k (some { r with
          fault := none, stale := false, src := BitVec.ofNat 512 (s.read (lmFlat core p) 64),
          dst := BitVec.ofNat 512 (s.read (lmFlat core q) 64) })).wake) ∧
      (∀ c, s.eccCause (clusterOf core) (lmFlat core p) 64 = some c →
        let bad : XFault := ⟨4, c, 0, 0, r.srec.setWidth 64⟩
        exec (.xferResume core (BitVec.ofNat 2 k)) s = becomes ((s.setXfer core k (some { r with fault := some bad })).report (dieOf core)
          (({ r with fault := none } : XferRec).report (s.ctxOf core) core k bad)).wake))) ∧
  (∀ (core : Nat) (r : XferRec) (va : Word) (n v : Nat) (s : State) (t : TlbEnt),
    let sh := s.shadowWord t.slot
    s.leafFor core va = .ok t → s.engCause core r t va = none → pteTT sh = 1 → pteSw sh = true → n ≤ 64 →
    s.meshCarries 0 core (stackEntry (stackOf (frameAddr sh + (va.toNat - t.base)))) = true →
    ∃ u, s.engWrite core r va n v (2 ^ (8 * n) - 1) = .ok (frameAddr sh + (va.toNat - t.base), u) ∧
      u.read (frameAddr sh + (va.toNat - t.base)) n = v % 2 ^ (8 * n))

/-- latch: its traps, what it waits for, and the exchange of live and shadow words; ptprobe; tlbinv. latch traps ILLOP for a count of 0 or beyond 64, ACCESS with CAUSE 7 in a kernel that replays, ALIGN for its list, and by the checks of its pages; with an xfer to a page of the set or accesses unfinished it waits; else, with the strand's bytes published, every page of the set is exchanged for the cores of its scope. The pages are taken one by one: what has translated to a page reads it first, the cores of the scope drop their copies, and an exchange gives, in every replica, the live place the shadow word and the shadow place the live word with SW clear. ptprobe writes what a walk meets, and changes nothing else. tlbinv traps ACCESS with CAUSE 37 for a context of another partition below hypervisor; with no access that used one still to perform, it drops every translation of the named contexts for the range, in every core and in the levels that cores share, and no other; a number that names no live context is no foreign one (log entry 89). -/
def Obligations.PublishingPages : Prop :=
  ∀ (f : Form) (d a b e : Reg) (q : BitVec 6) (s : State),
    let w := s.cur
    let st := s.strand w
    let va := s.reg w a
    let lops : List Opnd := [.mem, .src a, .src b, .scope e]
    let n := (s.reg w b).toNat
    let replays : Bool := match st.kern with | some k => (s.kernel k).replay | none => false
    (Able s f lops →
      (n = 0 ∨ 64 < n → exec (.latch f a b e) s = traps s f { code := .illop }) ∧
      (0 < n → n ≤ 64 →
        (replays = true → exec (.latch f a b e) s = traps s f { code := .access, cause := 7, va := va, kind := 6 }) ∧
        (replays = false → va.toNat % 8 ≠ 0 → exec (.latch f a b e) s = traps s f { code := .align, va := va }) ∧
        (∀ ps vs s1, replays = false → va.toNat % 8 = 0 →
          s.pieces w .load .all ((List.range n).map (fun k => (va + BitVec.ofNat 64 (8 * k), 8))) = .ok ps →
          s.rowAway w ps = false → ps.any (fun p => s.mustWait w false p.at_.flat 8) = false →
          (s.useAll w ps).readRows w ps = .ok (vs, s1) →
          (∀ t, s1.latchSet w (vs.map (BitVec.ofNat 64)) = .error t → exec (.latch f a b e) s = traps s f t) ∧
          (∀ pages, s1.latchSet w (vs.map (BitVec.ofNat 64)) = .ok pages →
            (pages.any (s1.live w.core).xferOn = true ∨ s1.relBusy w .bound (s1.scopeOf w e) = true →
              exec (.latch f a b e) s = waits s (mkWait .remote true 0 0)) ∧
            (pages.any (s1.live w.core).xferOn = false → s1.relBusy w .bound (s1.scopeOf w e) = false →
              exec (.latch f a b e) s = retires s f lops 16 ((s1.publish w .bound (s1.scopeOf w e)).latchPages (pages.map (fun p => (p.slot, p.z)))
                ((s1.scopeOf w e).has w.core)))))) ) ∧
    (∀ slot z i, z ≤ 11 → i < replicas z → 8 * replicas z ≤ 0x1000 →
      let t := s.swapPage slot z
      t.readW (slot + 8 * i) = s.readW (slot + 8 * i + 0x1000) ∧
      t.readW (slot + 8 * i + 0x1000) = setBits (s.readW (slot + 8 * i)) 8 8 0) ∧
    (∀ inS, s.latchPages [] inS = s) ∧
    (∀ slot z rest inS,
      let live := frameFlat (s.readW slot)
      let shadow := frameFlat (s.readW (slot + 0x1000))
      let read := ((s.readAllIn live (pageSize z)).readAllIn shadow (pageSize z)).readAllSlot slot
      let t := ((read.dropIn live (pageSize z) inS).dropIn shadow (pageSize z) inS).swapPage slot z
      s.latchPages ((slot, z) :: rest) inS = (t.dropSlot slot inS).latchPages rest inS ∧ (t.dropSlot slot inS).mem = t.mem ∧
      ∀ c, inS c = true → ∀ e ∈ ((t.dropSlot slot inS).core c).tlb, e.slot ≠ slot) ∧
    (Able s f [.dst d, .src a] →
      let put := fun v : Word => retires s f [.dst d, .src a] 16 (s.setReg w d v)
      (∀ c l x, walk s (s.ctxOf w.core) va = .stop c l x →
        exec (.ptprobe f d a 0) s = put (if c = 1 ∨ 27 ≤ c ∧ c ≤ 31 then 0 else x) ∧ exec (.ptprobe f d a 1) s = put 0 ∧
        exec (.ptprobe f d a 2) s = put (BitVec.ofNat 64 (c + 2 ^ 10 * l))) ∧
      (∀ x l slot z, walk s (s.ctxOf w.core) va = .leaf x l slot z →
        exec (.ptprobe f d a 0) s = put x ∧ exec (.ptprobe f d a 1) s = put (if pteSp x then s.shadowWord slot else 0) ∧
        exec (.ptprobe f d a 2) s = put (BitVec.ofNat 64 (s.loadCause w va x l slot z + 2 ^ 10 * l +
          2 ^ 8 * (match s.claimant slot with | none => 0 | some k => if st.kern = some k then 1 else 2))))) ∧
    (Able s f ([.sys, .src a, .src b] ++ if d = 0 then [] else [.src d]) →
      let own := s.ctxOf w.core
      let id := (s.reg w d).toNat % 2 ^ 16
      let named := fun c : Nat => if d = 0 then c == own
        else if id = 0xFFFF then st.priv == .hv || s.ctxPart c == s.ctxPart own else c == id
      let hit := fun t : TlbEnt => named t.ctx && (n == 0 || decide (t.base < va.toNat + n ∧ va.toNat < t.base + pageSize t.z))
      let foreign : Bool := d != 0 && id != 0xFFFF && st.priv != .hv && (s.ctxRec id).alive && s.ctxPart id != s.ctxPart own
      (foreign = true → exec (.tlbinv f d a b) s = traps s f { code := .access, cause := 37, va := va }) ∧
      (foreign = false → s.entsBusy hit = true → exec (.tlbinv f d a b) s = waits s (mkWait .remote true 0 0)) ∧
      (foreign = false → s.entsBusy hit = false →
        ∃ t : State, exec (.tlbinv f d a b) s = retires s f ([.sys, .src a, .src b] ++ if d = 0 then [] else [.src d]) 16 t ∧
          { t with cores := s.cores, clusterTlb := s.clusterTlb, dieTlb := s.dieTlb } = s ∧
          (∀ c, (t.core c).tlb = (s.core c).tlb.filter (fun x => !hit x) ∧ { t.core c with tlb := [] } = { s.core c with tlb := [] }) ∧
          ∀ c, AMap.get [] t.clusterTlb c = (AMap.get [] s.clusterTlb c).filter (fun x => !hit x) ∧
            AMap.get [] t.dieTlb c = (AMap.get [] s.dieTlb c).filter (fun x => !hit x.1)))

/-- msend, mrecv and their ends: offer, acceptance, refusal, receipt in order. msend to a module that is not UP traps ACCESS with CAUSE 9, and to a core of its own module outside the allotment with CAUSE 33; else it offers its 64 bytes and waits. An offer to a core where the context is ACTIVE, with no message of the spill queue waiting, is accepted into a free inbox place behind the others, and the sender retires; with 16 in the inbox, or behind an offer that arrived before it, it waits with its number of arrival; while the context is away it becomes a spill entry, or waits, reported, for a queue that is full or not resident. An offer that no link carries stays on its way. A refusal of another module traps ACCESS with CAUSE 10 and withdraws the offer. mrecv takes the oldest message that no waiting strand is to have into eight registers and its source word into a, and its strand knows the release points of its sender; with none for it, mrecv waits and mrecv.try writes 0 into a. Of several that wait, the one that issued first takes the message. -/
def Obligations.MessagesAreSentAndReceived : Prop :=
  (∀ (f : Form) (d a : Reg) (s : State),
    let w := s.cur
    let v := (s.reg w a).toNat
    let m := v / 2 ^ 32 % 2 ^ 16
    let target := 256 * (v / 2 ^ 8 % 2 ^ 7) + v % 2 ^ 8
    let own := s.module_.toNat
    Able s f (.mem :: .src a :: srcRange d 8) →
      (m ≠ own → s.modUp m = false → exec (.msend f d a) s = traps s f { code := .access, cause := 9 }) ∧
      (m = own → s.inAllot (s.ctxOf w.core) target = false → exec (.msend f d a) s = traps s f { code := .access, cause := 33 }) ∧
      ((if m = own then s.inAllot (s.ctxOf w.core) target else s.modUp m) = true →
        ∃ (t : State) (p : Packet), exec (.msend f d a) s = .next t ∧ t.net = AMap.put s.net s.nextId p ∧ p.kind = .msg ∧ p.core = target ∧
          p.module_ = (if m = own then none else some m) ∧ p.bytes = 64 ∧ p.src = w ∧
          (∀ k, k < 8 → p.data.toNat / 2 ^ (64 * k) % 2 ^ 64 = (s.reg w (regAt d k)).toNat) ∧
          (t.strand w).wait = some { mkWait .msend false (lenBytes f.len) 40 with obj := BitVec.ofNat 64 s.nextId })) ∧
  (∀ (id : Nat) (p : Packet) (s : State), s.pkt id = some p → p.kind = .msg → s.carried p = false →
    exec (.msendAccept id) s = becomes s.wake) ∧
  (∀ (id : Nat) (p : Packet) (s : State), s.pkt id = some p → p.kind = .msg → s.carried p = true →
    (∀ ctx, p.module_ = none → s.msgCtx p = some ctx → s.msgAhead p = true →
      exec (.msendAccept id) s = becomes (s.msgQueue id p).wake) ∧
    (∀ ctx, p.module_ = none → s.msgCtx p = some ctx → s.msgAhead p = false →
      (s.isActive ctx p.core = true → s.sqPending ctx p.core true = [] →
        ((s.live p.core).inbox.length < 16 → ∃ t : State, exec (.msendAccept id) s = becomes t.wake ∧ t.pkt id = none ∧
          (t.live p.core).inbox = (s.live p.core).inbox ++ [⟨p.data, sourceWord p.smodule p.src.core, p.points⟩] ∧
          (p.smodule = s.module_.toNat → (∃ v, (s.strand p.src).wait = some v ∧ v.kind = .msend) → (t.strand p.src).wait = none)) ∧
        (16 ≤ (s.live p.core).inbox.length → exec (.msendAccept id) s = becomes (s.msgQueue id p).wake)) ∧
      (s.isActive ctx p.core = false → s.sqAbsent ctx = false → s.sqFull ctx = false →
        exec (.msendAccept id) s = becomes (((s.farRelease p).sqWrite ctx 3 p.core 0 64 p.src.core p.smodule p.data
          ⟨p.points, p.job, s.bearer p, none⟩).msgSent id p).wake) ∧
      (s.isActive ctx p.core = false → s.sqAbsent ctx = true → p.refused = false → ∃ (t : State) (q : Packet),
        exec (.msendAccept id) s = becomes ((t.report (dieOf p.core) (p.report 1 2)).wake) ∧ t.pkt id = some q ∧ q.hseq ≠ 0 ∧ q.refused = true) ∧
      (s.isActive ctx p.core = false → s.sqAbsent ctx = false → s.sqFull ctx = true → p.full = false → ∃ (t : State) (q : Packet),
        exec (.msendAccept id) s = becomes ((t.report (dieOf p.core) (p.report 19 0)).wake) ∧ t.pkt id = some q ∧ q.hseq ≠ 0 ∧ q.full = true)) ∧
    (∀ v m u, p.module_ = some m → s.home p = true → s.wayUp m = true → (s.strand p.src).wait = some v → v.kind = .msend → (s.core p.src.core).st = .active →
      let s1 := s.msgWithdraw p.src id
      s1.takeTrap p.src { code := .access, cause := 10 } (s.strand p.src).pc ((s.strand p.src).pc + BitVec.ofNat 64 v.len) = .next u →
      exec (.msendRefused id) s = becomes u.wake ∧ s1.pkt id = none)) ∧
  (∀ (m core : Nat), m < 2 ^ 16 → core < 2 ^ 15 → sourceWord m core =
    BitVec.ofNat 64 (2 ^ 63 + 2 ^ 32 * m + 2 ^ 8 * (core / 256) + core % 256)) ∧
  (∀ (f : Form) (try_ : Bool) (d a : Reg) (s : State),
    let w := s.cur
    let l := s.live w.core
    let ops : List Opnd := .dst a :: dstRange d 8
    let words := fun m : Msg => (List.range 8).map (fun k => BitVec.ofNat 64 (m.data.toNat / 2 ^ (64 * k)))
    let taken := fun (m : Msg) (rest : List Msg) (d a : Reg) (w : Who) =>
      (((s.setLive w.core { s.live w.core with inbox := rest }).learnIds w m.points).setRegs w d.toNat (words m)).setReg w a m.src
    (Able s f ops →
      (l.inbox.length ≤ l.receivers.length →
        (try_ = true → exec (.mrecv f try_ d a) s = retires s f ops 16 (s.setReg w a 0)) ∧
        (try_ = false → ∃ t : State, exec (.mrecv f try_ d a) s = .next t ∧ t.mem = s.mem ∧ (t.live w.core).regs = l.regs ∧
          (t.live w.core).inbox = l.inbox ∧ (t.strand w).wait = some { mkWait .inbox false (lenBytes f.len) 16 with
            d := d, obj := BitVec.ofNat 64 a.toNat, gen := BitVec.ofNat 64 s.nextId })) ∧
      (∀ m, l.inbox[l.receivers.length]? = some m →
        let rest := l.inbox.eraseIdx l.receivers.length
        (s.sqPending (s.ctxOf w.core) w.core true = [] → exec (.mrecv f try_ d a) s = retires s f ops 16 (taken m rest d a w)) ∧
        (∀ n more, s.sqPending (s.ctxOf w.core) w.core true = n :: more → rest.length < 16 →
          ∃ t : State, exec (.mrecv f try_ d a) s = retires s f ops 16 t ∧
            ∃ later, (t.live w.core).inbox = rest ++ s.sqMsg (s.ctxOf w.core) n :: later))) ∧
    (∀ (core strand : Nat) v m rest, (s.strand ⟨core, strand⟩).wait = some v → v.kind = .inbox → (s.core core).st = .active →
      (s.live core).inbox = m :: rest →
      ((∃ e ∈ (s.live core).receivers, e.2 < v.gen.toNat) → exec (.mrecvWaitEnd core strand) s = .next s) ∧
      ((∀ e ∈ (s.live core).receivers, v.gen.toNat ≤ e.2) → s.sqPending (s.ctxOf core) core true = [] →
        exec (.mrecvWaitEnd core strand) s =
          becomes ((taken m rest v.d (BitVec.ofNat 6 v.obj.toNat) ⟨core, strand⟩).finish ⟨core, strand⟩ v.len v.eu).wake)))

/-- hopen and hjoin: every trap in order, the slot as filled, the block as cleared; instructions on an id that no slot holds trap. hopen and hjoin trap ALIGN for a misaligned block or list, HINGE 14 for an invalid record, 13 for a slot not CLOSED or an id in a slot, 19 for a block or list out of bounds, ECC for a list in error, 18 for a malformed list, ECC for hopen's mass in error. Else the slot is OPEN with its id, block, record and list, no push seen, HDISAG 0 and the next tick at TIME + PERIOD; the header past MASS and the held values of the block are 0; hjoin writes mass and values 0, hopen keeps them; M0 is the mass. No other byte changes. Every other Hinge instruction on an id that no slot holds traps HINGE 12. -/
def Obligations.HingeSetsOpen : Prop :=
  ∀ (f : Form) (join : Bool) (id : BitVec 4) (slot : BitVec 2) (a b d : Reg) (ta : Tile) (ty : Ty) (s : State),
    let w := s.cur
    let i := if join then Instr.hjoin f id slot a b else .hopen f id slot a b
    let at_ := s.reg w a
    let lst := s.reg w b
    let ops : List Opnd := [.feat 4, .mem, .src a, .src b]
    let r := fun k : Nat => s.readW ((s.descW (s.ctxOf w.core) 0x18).toNat + 32 * id.toNat + 8 * k)
    let n := 16 * ((r 0).toNat % 2 ^ 8)
    let good : Bool := bit (r 0) 63 && decide ((r 0).toNat / 2 ^ 56 % 2 ^ 6 = 0) && decide ((r 0).toNat / 2 ^ 8 % 2 ^ 40 = 0) &&
      r 2 == 0 && r 3 == 0 && decide (-64 ≤ sval 8 ((r 0).toNat / 2 ^ 48)) && decide (sval 8 ((r 0).toNat / 2 ^ 48) ≤ 63) &&
      decide (1 ≤ (r 0).toNat % 2 ^ 8) && decide ((r 0).toNat % 2 ^ 8 ≤ 128)
    (Able s f ops →
      (at_.toNat % 64 ≠ 0 → exec i s = traps s f { code := .align, va := at_ }) ∧
      (at_.toNat % 64 = 0 → lst.toNat % 64 ≠ 0 → exec i s = traps s f { code := .align, va := lst }) ∧
      (at_.toNat % 64 = 0 → lst.toNat % 64 = 0 →
        let busy : Bool := (s.hslot w.core slot.toNat).state != .closed || ((s.live w.core).hfind id.toNat).isSome
        let out : Bool := decide (0x20000 < at_.toNat + 128 + 24 * n) || decide (0x30000 ≤ lst.toNat)
        (good = false → exec i s = traps s f { code := .hinge, cause := 14 }) ∧
        (good = true → busy = true → exec i s = traps s f { code := .hinge, cause := 13 }) ∧
        (good = true → busy = false → out = true → exec i s = traps s f { code := .hinge, cause := 19 }) ∧
        (∀ p c, good = true → busy = false → out = false → lmPhys (s.strand w).hold lst.toNat = some p →
          s.eccCause (clusterOf w.core) (lmFlat w.core p) 64 = some c → exec i s = traps s f { code := .ecc, cause := c, va := lst }) ∧
        (∀ p, good = true → busy = false → out = false → lmPhys (s.strand w).hold lst.toNat = some p →
          s.eccCause (clusterOf w.core) (lmFlat w.core p) 64 = none →
          let l : BitVec 512 := BitVec.ofNat 512 (s.read (lmFlat w.core p) 64)
          let blk := lmFlat w.core at_.toNat
          (partBad l (s.module_.toNat, w.core) = true → exec i s = traps s f { code := .hinge, cause := 18 }) ∧
          (∀ c, partBad l (s.module_.toNat, w.core) = false → join = false → s.eccCause (clusterOf w.core) blk 8 = some c →
            exec i s = traps s f { code := .ecc, cause := c, va := at_ }) ∧
          (partBad l (s.module_.toNat, w.core) = false → join = true ∨ s.eccCause (clusterOf w.core) blk 8 = none → ∃ t : State, exec i s = retires s f ops 16 t ∧
            t.hslot w.core slot.toNat = { HSlot.closed with
              state := .opened, id := id, block := at_.setWidth 18, attr0 := r 0, attr1 := r 1, attr2 := r 2,
              m0 := if join then 0 else s.readW blk, part := l, nextTick := addSpan s.time (BitVec.ofNat 64 ((r 1).toNat % 2 ^ 32)) } ∧
            (∀ k, 1 ≤ k → k < 16 → t.read (blk + 8 * k) 8 = 0) ∧ (∀ k, k < 2 * n → t.read (blk + 0x80 + 8 * n + 8 * k) 8 = 0) ∧
            t.read blk 8 = (if join then 0 else s.read blk 8) ∧
            (∀ k, k < n → t.read (blk + 0x80 + 8 * k) 8 = if join then 0 else s.read (blk + 0x80 + 8 * k) 8) ∧
            (∀ x, x < blk ∨ blk + 0x80 + 24 * n ≤ x → memByte t.mem x = memByte s.mem x))))) ∧
    ((s.live w.core).hfind id.toNat = none →
      let none_ := traps s f { code := .hinge, cause := 12 }
      (Able s f [.feat 4, .mem, .tsrc ta, .src b] → exec (.hload f ty id ta b) s = none_ ∧ exec (.hadd f ty id ta b) s = none_) ∧
      (Able s f (.feat 4 :: .mem :: (ldtWhole s ta ++ [.tdst ta, .src b])) → exec (.hread f ty id ta b) s = none_) ∧
      (Able s f [.feat 4, .mem, .dst d, .src a] → exec (.hpush f id d a) s = none_ ∧ exec (.hleave f id d a) s = none_) ∧
      (Able s f [.feat 4, .mem, .dst d] → exec (.hmass f id d) s = none_ ∧ exec (.hdisag f id d) s = none_) ∧
      (Able s f [.feat 4, .mem, .src a] → exec (.hmassSet f id a) s = none_) ∧
      (Able s f [.feat 4, .mem] → exec (.hpause f id) s = none_ ∧ exec (.hresume f id) s = none_))

/-- hload, hadd, hread, hmass, hmass.set, hdisag, hpause and hresume on the slot that holds the id. hload and hadd with a first element not a multiple of 16 or not below n trap HINGE 17, hload and hmass.set with a half held HINGE 16. hload writes each element whose row takes part with its loaded value, hadd with the stored value plus mass times the tile's value, both held within range, SAT telling of it; no other byte changes. hread writes the estimates of the rows that take part, zeros beyond 16 elements and beyond n, keeps the other rows, sets the tag 0, raises flags or traps FPE. hmass reads the mass, hmass.set writes it and M0, hdisag reads HDISAG and clears it. hpause pauses the slot and waits for held halves; hresume opens a PAUSED slot; both trap HINGE 12 on a LEAVING one. All this with the block free of errors; where the words of the header that an instruction reads are in error it traps ECC. -/
def Obligations.HingeBlockAccess : Prop :=
  ∀ (f : Form) (ty : Ty) (id : BitVec 4) (x : Tile) (d a b : Reg) (k : Nat) (s : State),
    (s.live s.cur.core).hfind id.toNat = some k →
    let w := s.cur
    let st := s.strand w
    let h := s.hslot w.core k
    let blk := lmFlat w.core h.block.toNat
    let n := h.n
    let k0 := (s.reg w b).toNat
    let fm := fmtOf ty
    let bad : Bool := k0 % 16 != 0 || decide (n ≤ k0)
    let part := fun e : Nat => decide (k0 ≤ e) && decide (e < k0 + 256) && st.rowActive ((e - k0) / 16)
    let val := fun e : Nat => fVal fm ((s.tile w x).elem fm.w ((e - k0) / 16) ((e - k0) % 16))
    let q := fun e : Nat => sval 64 (s.read (blk + 0x80 + 8 * e) 8)
    let m := (s.readW blk).toNat
    let held := s.hHeld blk
    let tops : List Opnd := [.feat 4, .mem, .tsrc x, .src b]
    let rops : List Opnd := .feat 4 :: .mem :: (ldtWhole s x ++ [.tdst x, .src b])
    let err := fun part : Nat × Nat => s.blockErr w.core h [part]
    (∀ (i : Instr) (ops : List Opnd) (part : Nat × Nat) (e : Nat × Nat),
      (i, ops, part) ∈ [(Instr.hload f ty id x b, tops, (0x20, 8)), (.hadd f ty id x b, tops, (0, 0x48)), (.hread f ty id x b, rops, (0, 8)),
        (.hmass f id d, [.feat 4, .mem, .dst d], (0, 8)), (.hmassSet f id a, [.feat 4, .mem, .src a], (0x20, 8)),
        (.hpause f id, [.feat 4, .mem], (0x20, 8))] →
      Able s f ops → bad = false → h.state ≠ .leaving → err part = some e →
      exec i s = traps s f { code := .ecc, cause := e.1, va := BitVec.ofNat 64 e.2 }) ∧
    (bad = true →
      (Able s f tops → exec (.hload f ty id x b) s = traps s f { code := .hinge, cause := 17 } ∧
        exec (.hadd f ty id x b) s = traps s f { code := .hinge, cause := 17 }) ∧
      (Able s f rops → exec (.hread f ty id x b) s = traps s f { code := .hinge, cause := 17 })) ∧
    (err (0, 0x80 + 24 * n) = none →
    let stored := fun (t : State) (g : Nat → Int × Bool) =>
      (∀ e, e < n → t.read (blk + 0x80 + 8 * e) 8 = if part e then wrap 64 (g e).1 else s.read (blk + 0x80 + 8 * e) 8) ∧
      bit (t.readW (blk + 0x20)) 0 = (bit (s.readW (blk + 0x20)) 0 || (List.range n).any (fun e => part e && (g e).2)) ∧
      (∀ y, y < blk + 0x20 ∨ (blk + 0x28 ≤ y ∧ y < blk + 0x80) ∨ blk + 0x80 + 8 * n ≤ y → memByte t.mem y = memByte s.mem y) ∧
      { t with mem := s.mem } = s
    (Able s f tops →
      (bad = false → held ≠ 0 → exec (.hload f ty id x b) s = traps s f { code := .hinge, cause := 16 }) ∧
      (bad = false → held = 0 → ∃ t : State, exec (.hload f ty id x b) s = retires s f tops 16 t ∧ stored t (fun e => loadQ h.e (val e))) ∧
      (bad = false → ∃ t : State, exec (.hadd f ty id x b) s = retires s f tops 16 t ∧
        stored t (fun e => addQ h.e m (q e) ((s.heldVals blk n).getD e 0) (val e)))) ∧
    (∀ y : Int, 0 < y → y < 2 ^ 20 → loadQ 4 (Num.ofInt y) = (min (y * 2 ^ 44) (2 ^ 63 - 1), decide (2 ^ 19 ≤ y))) ∧
    (ty = .f32 ∨ ty = .bf16 ∨ ty = .f16 → Able s f rops →
      (bad = false →
        let est := fun (r j : Nat) => rounded fm st.fctl (estimate h.e m (q (k0 + 16 * r + j)))
        let flags := ((List.range 16).filter (fun r => st.rowActive r && decide (k0 + 16 * r < n))).foldl
          (fun y r => y ||| ((List.range 16).map (fun j => (est r j).2)).foldl (· ||| ·) (0 : FFlags)) 0
        (flags &&& (st.fctl >>> 4).setWidth 5 ≠ 0 → exec (.hread f ty id x b) s = traps s f { code := .fpe, info := flags.toNat }) ∧
        (flags &&& (st.fctl >>> 4).setWidth 5 = 0 → ∃ t, exec (.hread f ty id x b) s = .next t ∧
          (∀ r j, r < 16 → j < 512 / fm.w → (t.tile w x).elem fm.w r j =
            if st.rowActive r = false then (s.tile w x).elem fm.w r j
            else if k0 + 16 * r < n ∧ j < 16 then (est r j).1 % 2 ^ fm.w else 0) ∧
          (∀ p, st.poolTile x = some p → (t.live w.core).tag p = 0) ∧ (t.strand w).fflag = st.fflag ||| flags.setWidth 64 ∧
          CoreFrame s t (fun y => { y with fflag := 0 }) [] [x] ∧ NothingElse s t))) ∧
    (Able s f [.feat 4, .mem, .dst d] →
      exec (.hmass f id d) s = retires s f [.feat 4, .mem, .dst d] 16 (s.setReg w d (s.readW blk)) ∧
      exec (.hdisag f id d) s = retires s f [.feat 4, .mem, .dst d] 16
        ((s.setHSlot w.core k { h with hdisag := 0 }).setReg w d (h.hdisag.setWidth 64))) ∧
    (Able s f [.feat 4, .mem, .src a] →
      (held ≠ 0 → exec (.hmassSet f id a) s = traps s f { code := .hinge, cause := 16 }) ∧
      (held = 0 → exec (.hmassSet f id a) s = retires s f [.feat 4, .mem, .src a] 16
        ((s.write blk 8 (s.reg w a).toNat).setHSlot w.core k { h with m0 := s.reg w a }))) ∧
    (Able s f [.feat 4, .mem] →
      (h.state = .leaving → exec (.hpause f id) s = traps s f { code := .hinge, cause := 12 } ∧
        exec (.hresume f id) s = traps s f { code := .hinge, cause := 12 }) ∧
      (h.state ≠ .leaving →
        (∀ j, j < 4 → (s.strand ⟨w.core, j⟩).wait.map (·.kind) ≠ some .hinge) →
        let s1 := s.setHSlot w.core k { h with state := .paused }
        (held = 0 → exec (.hpause f id) s = retires s f [.feat 4, .mem] 16 s1) ∧
        (held ≠ 0 → exec (.hpause f id) s =
          .next (s1.waiting w { mkWait .hinge false (lenBytes f.len) 16 with gen := BitVec.ofNat 64 k }))) ∧
      (h.state = .paused → exec (.hresume f id) s = retires s f [.feat 4, .mem] 16 (s.setHSlot w.core k { h with state := .opened, planp := false })) ∧
      (h.state = .opened → exec (.hresume f id) s = retires s f [.feat 4, .mem] 16 s)))

/-- hpush, hleave and the background tick: what each refuses, how a push splits the block, what it sends. A target that is no partner traps HINGE 15. hpush gives d 3 where the slot is not OPEN, 1 with two halves held, 2 below mass 2, else 0 and pushes; hleave gives 1 where it is not OPEN, waits while a half is held, else pushes the whole and is LEAVING. A push sends half of each value, rounded down, and half of the mass (the whole for hleave), keeps the rest, holds the part sent with its target and sequence number, and counts NEXTSEQ, HELD and SENT; mass and held masses add up as before. To a module that is not UP nothing is sent and the half comes back. With its header in error the instruction traps ECC, and a tick sends nothing and reports an engine fault. A tick of a background slot advances NEXTTICK and pushes to the next partner where the slot is OPEN, HELD below 2 and the mass at least 2. -/
def Obligations.HingePushes : Prop :=
  ∀ (f : Form) (id : BitVec 4) (d a : Reg) (k : Nat) (s : State), k < 4 →
    let w := s.cur
    let h := s.hslot w.core k
    let blk := lmFlat w.core h.block.toNat
    let n := h.n
    let tgt := s.reg w a
    let target := (tgt.toNat / 2 ^ 32 % 2 ^ 16, 256 * (tgt.toNat / 2 ^ 8 % 2 ^ 7) + tgt.toNat % 2 ^ 8)
    let ops : List Opnd := [.feat 4, .mem, .dst d, .src a]
    let m := fun s : State => (s.readW blk).toNat
    let q := fun s : State => s.vals (blk + 0x80) n
    let held := s.hHeld blk
    let clean : Bool := (s.blockErr w.core h [(0, 0x80 + 24 * n)]).isNone
    let i := if s.halfUsed blk 0 then 1 else 0
    let seq := (s.readW (blk + 0x20)).toNat / 2 ^ 32
    let dq := fun whole : Bool => if whole then q s else (q s).map (fun v : Int => v / 2)
    let dm := fun whole : Bool => if whole then m s else m s / 2
    let pushed := fun (t : State) (whole : Bool) (tg : Nat × Nat) (p : Packet) =>
      t.net = AMap.put s.net s.nextId p ∧ p.kind = .push ∧ p.core = tg.2 ∧ p.module_ = (if tg.1 = s.module_.toNat then none else some tg.1) ∧
      p.hseq = seq ∧ p.hid = h.id.toNat ∧ p.mass = dm whole ∧ p.vals = dq whole ∧ p.expo = h.e ∧
      p.expiry = addSpan s.time (BitVec.ofNat 64 (h.attr1.toNat / 2 ^ 32)) ∧
      m t = m s - dm whole ∧ q t = List.zipWith (fun x y : Int => x - y) (q s) (dq whole) ∧
      t.halfUsed blk i = true ∧ t.halfSeq blk i = seq ∧ t.halfMass blk i = dm whole ∧ t.vals (halfVals blk n i) n = dq whole ∧
      t.hHeld blk = held + 1 ∧ (t.readW (blk + 0x20)).toNat / 2 ^ 32 = (seq + 1) % 2 ^ 32 ∧
      (t.readW (blk + 8)).toNat = ((s.readW (blk + 8)).toNat + dm whole) % 2 ^ 64 ∧
      ((s.halfUsed blk 0 = false ∨ s.halfUsed blk 1 = false) → m t + t.heldMass blk = m s + s.heldMass blk)
    ((s.live w.core).hfind id.toNat = some k → Able s f ops →
      let reached : Bool := target.1 == s.module_.toNat || s.modUp target.1
      (partIndex h.part target = none → exec (.hpush f id d a) s = traps s f { code := .hinge, cause := 15 } ∧
        exec (.hleave f id d a) s = traps s f { code := .hinge, cause := 15 }) ∧
      (partIndex h.part target ≠ none →
        (h.state ≠ .opened → exec (.hpush f id d a) s = retires s f ops 16 (s.setReg w d 3) ∧
          exec (.hleave f id d a) s = retires s f ops 16 (s.setReg w d 1)) ∧
        (∀ e, h.state = .opened → s.blockErr w.core h [(0, 0x48)] = some e →
          exec (.hpush f id d a) s = traps s f { code := .ecc, cause := e.1, va := BitVec.ofNat 64 e.2 } ∧
          exec (.hleave f id d a) s = traps s f { code := .ecc, cause := e.1, va := BitVec.ofNat 64 e.2 }) ∧
        (h.state = .opened → clean = true →
          (held = 2 → exec (.hpush f id d a) s = retires s f ops 16 (s.setReg w d 1)) ∧
          (held < 2 → m s < 2 → exec (.hpush f id d a) s = retires s f ops 16 (s.setReg w d 2)) ∧
          (held < 2 → 2 ≤ m s → reached = true →
            ∃ t p, exec (.hpush f id d a) s = retires s f ops 16 (t.setReg w d 0) ∧ pushed t false target p) ∧
          (held < 2 → 2 ≤ m s → reached = false → (s.halfUsed blk 0 = true → s.halfSeq blk 0 ≠ seq) →
            ∃ t, exec (.hpush f id d a) s = retires s f ops 16 (t.setReg w d 0) ∧ t.net = s.net ∧ m t = m s ∧ q t = q s ∧ t.hHeld blk = held) ∧
          (held ≠ 0 → exec (.hleave f id d a) s = .next (s.waiting w { mkWait .hinge false (lenBytes f.len) 16 with
            d := d, obj := tgt, flat := 1, gen := BitVec.ofNat 64 k })) ∧
          (held = 0 → reached = true → ∃ t p, exec (.hleave f id d a) s = .next (t.waiting w { mkWait .hinge false (lenBytes f.len) 16 with
              d := d, obj := tgt, flat := 2, gen := BitVec.ofNat 64 k }) ∧ pushed t true target p ∧
            (t.hslot w.core k).state = .leaving)))) ∧
    ((s.core w.core).st = .active → h.state ≠ .closed → h.background = true →
      let s1 := s.setHSlot w.core k { h with nextTick := addSpan h.nextTick (BitVec.ofNat 64 h.period) }
      let used := ((List.range 16).map (fun j => (h.nextPart.toNat + j) % 16)).find? (partUsed h.part)
      (s.time.toNat < h.nextTick.toNat → exec (.hingeBgTick w.core (BitVec.ofNat 2 k)) s = becomes s.wake) ∧
      (∀ e j, h.nextTick.toNat ≤ s.time.toNat → used = some j → h.state = .opened → s.blockErr w.core h [(0, 0x48)] = some e →
        ∃ r : Report, r.kind = 7 ∧ r.cause = e.1 ∧ r.va = BitVec.ofNat 64 e.2 ∧ r.eng = 1 ∧ r.eslot = k ∧ r.core = w.core ∧
          exec (.hingeBgTick w.core (BitVec.ofNat 2 k)) s = becomes (s1.report (dieOf w.core) r).wake) ∧
      (h.nextTick.toNat ≤ s.time.toNat → clean = true →
        (used = none ∨ h.state ≠ .opened ∨ 2 ≤ held ∨ m s < 2 → exec (.hingeBgTick w.core (BitVec.ofNat 2 k)) s = becomes s1.wake) ∧
        (∀ j, used = some j → h.state = .opened → held < 2 → 2 ≤ m s →
          (partName h.part j).1 = s.module_.toNat →
          ∃ t p, exec (.hingeBgTick w.core (BitVec.ofNat 2 k)) s = becomes t.wake ∧ pushed t false (partName h.part j) p ∧ p.path = none ∧
            (t.hslot w.core k).nextTick = addSpan h.nextTick (BitVec.ofNat 64 h.period))))

/-- A push that arrives is refused, dropped or added once, with its reply; a reply frees the held half or gives it back. A push that its links carry is answered 1 where its context is not ACTIVE or no OPEN slot holds its id, 5 from a source that is no partner; it is not answered where its sequence number was seen or is stale, and an explicit one stays unsettled; else it is marked seen and answered 6 for another n or E, 4 when expired, 2 or 3 where mass or a value with the held halves would leave its range, else added, with RCVD and HDISAG, and answered 0. A reply with code 0 adds the held mass to ACKD, another code gives values and mass back; the half is free and HELD one less. The reply to a leave closes the slot at code 0, with mass and values 0, or opens it; the hleave retires and its d takes the code. A reply waits while its core droops. A push or a reply that meets a header in error is held, and reported once as an engine fault; a push held so is no longer held once it is answered. -/
def Obligations.HingeReceiptAndSettlement : Prop :=
  let fault := fun (r : Report) (e : Nat × Nat) (c k : Nat) (p : Packet) => r.kind = 7 ∧ r.cause = e.1 ∧ r.va = BitVec.ofNat 64 e.2 ∧ r.eng = 1 ∧
    r.core = c ∧ r.eslot = k ∧ r.strand = p.src.strand ∧ r.prog2 = BitVec.ofNat 64 p.hseq
  (∀ (pid : Nat) (p : Packet) (s : State), s.pkt pid = some p → p.kind = .push → p.module_ = none →
    p.landed = false → s.carried p = true →
    let c := p.core
    let reply := fun (t : State) (code : Nat) => becomes (t.setPkt pid { p with kind := .reply code, landed := true, held := false }).wake
    let here : Bool := match s.msgCtx p with
      | some ctx => s.isActive ctx c && s.resident ctx c && !(s.core c).fenced
      | none => false
    (here = false ∨ (s.live c).hfind p.hid = none → exec (.hingePushArrive pid) s = reply s 1) ∧
    (∀ k, here = true → (s.live c).hfind p.hid = some k →
      let h := s.hslot c k
      let blk := lmFlat c h.block.toNat
      let m := (s.readW blk).toNat
      let q := s.vals (blk + 0x80) h.n
      (h.state ≠ .opened → exec (.hingePushArrive pid) s = reply s 1) ∧
      (h.state = .opened → partIndex h.part (p.smodule, p.src.core) = none → exec (.hingePushArrive pid) s = reply s 5) ∧
      (∀ i e, h.state = .opened → partIndex h.part (p.smodule, p.src.core) = some i → s.blockErr c h [(0, 0x48)] = some e →
        (p.held = true → exec (.hingePushArrive pid) s = becomes s.wake) ∧
        (p.held = false → ∃ r : Report, fault r e c k p ∧
          exec (.hingePushArrive pid) s = becomes ((s.setPkt pid { p with held := true }).report (dieOf c) r).wake)) ∧
      (∀ i, h.state = .opened → partIndex h.part (p.smodule, p.src.core) = some i → s.blockErr c h [(0, 0x80 + 24 * h.n)] = none →
        let s1 := s.setHSlot c k (h.mark i p.hseq)
        let sums := List.zipWith (fun x y : Int => x + y) (List.zipWith (fun x y : Int => x + y) q (s.heldVals blk h.n)) p.vals
        let wrong : Bool := p.vals.length != h.n || p.expo != h.e
        let late : Bool := decide (p.expiry.toNat < s.time.toNat)
        let heavy : Bool := decide (2 ^ 64 ≤ m + s.heldMass blk + p.mass)
        let wide : Bool := sums.any (fun v => decide (v < -(2 ^ 63 : Int) ∨ (2 ^ 63 : Int) ≤ v))
        (h.knows i p.hseq = true → exec (.hingePushArrive pid) s =
          becomes (if s.fromHere p && p.path.isSome then s.setPkt pid { p with landed := true } else s.delPkt pid).wake) ∧
        (h.knows i p.hseq = false →
          (wrong = true → exec (.hingePushArrive pid) s = reply s1 6) ∧
          (wrong = false → late = true → exec (.hingePushArrive pid) s = reply s1 4) ∧
          (wrong = false → late = false → heavy = true → exec (.hingePushArrive pid) s = reply s1 2) ∧
          (wrong = false → late = false → heavy = false → wide = true → exec (.hingePushArrive pid) s = reply s1 3) ∧
          (wrong = false → late = false → heavy = false → wide = false → ∃ t : State, exec (.hingePushArrive pid) s = reply t 0 ∧
            (t.readW blk).toNat = m + p.mass ∧
            (∀ j x y, q[j]? = some x → p.vals[j]? = some y → sval 64 (t.read (blk + 0x80 + 8 * j) 8) = sval 64 (wrap 64 (x + y))) ∧
            (t.readW (blk + 0x18)).toNat = ((s.readW (blk + 0x18)).toNat + p.mass) % 2 ^ 64 ∧
            (t.hslot c k).hdisag = BitVec.ofNat 32 (disagree h.e q m p.vals p.mass) ∧ (t.hslot c k).knows i p.hseq = true)))) ∧
    (∀ (e : Int) (q : List Int) (dq : List Int), disagree e q 0 dq 1 = 0x7FC00000 ∧ disagree e q 1 dq 0 = 0x7FC00000)) ∧
  (∀ (pid code k : Nat) (p : Packet) (s : State), s.pkt pid = some p → p.kind = .reply code → p.smodule = s.module_.toNat → s.home p = true →
    k < 4 → (s.live p.src.core).hfind p.hid = some k →
    let c := p.src.core
    let s0 := s.ackPkt pid p
    let h := s.hslot c k
    let blk := lmFlat c h.block.toNat
    (s.drooping c = true → exec (.hingeReplyArrive pid 0) s = .next s) ∧
    (s.drooping c = false →
    (∀ e, s.blockErr c h [(0, 0x48)] = some e →
      (p.held = true → exec (.hingeReplyArrive pid 0) s = becomes s.wake) ∧
      (p.held = false → ∃ r : Report, fault r e c k p ∧
        exec (.hingeReplyArrive pid 0) s = becomes ((s.setPkt pid { p with held := true }).report (dieOf c) r).wake)) ∧
    (s.blockErr c h [(0, 0x80 + 24 * h.n)] = none → (∀ j, j < 4 → (s.strand ⟨c, j⟩).wait.map (·.kind) ≠ some .hinge) → h.state ≠ .leaving →
      exec (.hingeReplyArrive pid 0) s = becomes (s0.settleHalf c k p.hseq code).wake) ∧
    (∀ v, s.blockErr c h [(0, 0x80 + 24 * h.n)] = none → h.state = .leaving → p.src.strand < 4 → (s.strand p.src).wait = some v → v.kind = .hinge → v.flat = 2 → v.gen.toNat = k →
      (s.strand p.src).birth = p.birth →
      (∀ j, j < 4 → j ≠ p.src.strand → (s.strand ⟨c, j⟩).wait.map (·.kind) ≠ some .hinge) →
      ∃ t : State, exec (.hingeReplyArrive pid 0) s = becomes t.wake ∧ (t.strand p.src).wait = none ∧
        t.reg p.src v.d = (if v.d = 0 ∨ (s.strand p.src).holds v.d = false then 0 else BitVec.ofNat 64 code) ∧
        (t.hslot c k).state = (if code = 0 then .closed else if (s.core c).st = .saving then .paused else .opened) ∧
        (code = 0 → t.readW blk = 0 ∧ ∀ j, j < h.n → t.read (blk + 0x80 + 8 * j) 8 = 0))) ∧
    (∀ i, i < 2 → s.halfUsed blk i = true → s.halfSeq blk i = p.hseq → (i = 1 → s.halfUsed blk 0 = true → s.halfSeq blk 0 ≠ p.hseq) →
      let t := s.settleHalf c k p.hseq code
      t.halfUsed blk i = false ∧ (0 < s.hHeld blk → t.hHeld blk = s.hHeld blk - 1) ∧
      (code = 0 → (t.readW (blk + 0x10)).toNat = ((s.readW (blk + 0x10)).toNat + s.halfMass blk i) % 2 ^ 64 ∧ t.readW blk = s.readW blk ∧
        t.vals (blk + 0x80) h.n = s.vals (blk + 0x80) h.n) ∧
      (code ≠ 0 → t.readW (blk + 0x10) = s.readW (blk + 0x10) ∧
        (t.readW blk).toNat = ((s.readW blk).toNat + s.halfMass blk i) % 2 ^ 64 ∧
        ∀ j x y, (s.vals (blk + 0x80) h.n)[j]? = some x → (s.vals (halfVals blk h.n i) h.n)[j]? = some y →
          t.read (blk + 0x80 + 8 * j) 8 = wrap 64 (x + y))))

/-- Reductions with a witness, their routes, records and settlement. Each active element of the result (element 0 of each active row in the .row form) becomes the result Decide gives for its contributors and the same byte of the witness its code; every other byte of the witness is 0xFF and other elements stay. The result's tag is 0, the witness's names generation, operator, ties, form, k, width and rows; WGEN.GEN counts up; flags are raised, or trap FPE with nothing written. max and min of contributors that are no NaN give one that no other beats, med the one of middle rank, with the lowest index that equals it, or with the mask of all; clamp the value or the bound it passes; an integer ssum the sum held within range. wadj traps WITNESS with the CAUSE of the first check its witness's tag fails: 20 for tag 0, 21 operator, 22 ties, form or k, 23 width, 24 rows, 25 generation. Else each active element of output c becomes the gradient's where the code routes it to c, else 0; other elements stay, the outputs' tags are 0, and .once clears the witness's tag. wst writes sixteen rows, then tag, CRC and zeros; wld reads them, and traps WITNESS with CAUSE 26 where the last block is not what a record holds, else writes the rows and the tag. Misaligned, both trap ALIGN. -/
def Obligations.WitnessReductions : Prop :=
  ((∀ (f : Form) (ty : Ty) (all row : Bool) (km1 : BitVec 3) (d wt a b e : Tile) (s : State),
     let w := s.cur
     let st := s.strand w
     let wd := ty.tileWidth
     let many := (List.range (km1.toNat + 1)).map (fun c => BitVec.ofNat 4 (a.toNat + c))
     let from_ := if row then [a] else many
     ∀ (i : Instr) (op : Nat) (ties form : Bool) (k1 : Nat) (srcs : List Tile), (i, op, ties, form, k1, srcs) ∈ [
       (Instr.wredMax f ty all row km1 d wt a, 0, all, row, (if row then 0 else km1.toNat), from_),
       (.wredMin f ty all row km1 d wt a, 1, all, row, (if row then 0 else km1.toNat), from_),
       (.wredClamp f ty d wt a b e, 2, false, false, 2, [a, b, e]),
       (.wredMed f ty all km1 d wt a, 3, all, false, km1.toNat, many),
       (.wredSsum f ty row km1 d wt a, 4, false, row, (if row then 0 else km1.toNat), from_)] →
     Able s f ([.feat 5, .tdst d, .tdst wt, .twhole wt] ++ srcs.map .tsrc) → st.poolTile d ≠ st.poolTile wt →
       let act := fun (r k : Nat) => st.rowActive r && decide (k < 512 / wd) && (if form then decide (k = 0) else decide (k < st.cols))
       let dec := fun (r k : Nat) => witDecide op ty ties st.fctl
         (if form then (List.range (min st.cols (512 / wd))).map (fun j => (s.tile w a).elem wd r j) else srcs.map (fun t => (s.tile w t).elem wd r k))
       let flags := ((List.range 16).flatMap (fun r => ((List.range (512 / wd)).filter (act r)).map (fun k => (dec r k).2.2))).foldl (· ||| ·) (0 : FFlags)
       let code := if wd = 32 then 0 else if wd = 16 then 1 else 2
       (flags &&& (st.fctl >>> 4).setWidth 5 ≠ 0 → exec i s = traps s f { code := .fpe, info := flags.toNat }) ∧
       (flags &&& (st.fctl >>> 4).setWidth 5 = 0 → ∃ t, exec i s = .next t ∧
         (∀ r k, r < 16 → k < 512 / wd → (t.tile w d).elem wd r k = if act r k then (dec r k).1 % 2 ^ wd else (s.tile w d).elem wd r k) ∧
         (∀ r k, r < 16 → k < 64 → (t.tile w wt).elem 8 r k = if act r k then (dec r k).2.1 % 2 ^ 8 else 0xFF) ∧
         (∀ p, st.poolTile d = some p → (t.live w.core).tag p = 0) ∧
         (∀ p, st.poolTile wt = some p → (t.live w.core).tag p = BitVec.ofNat 32 (2 ^ 16 * (st.wgen.toNat % 2 ^ 16) + 2 ^ 15 + 2 ^ 12 * op +
           (if ties then 2 ^ 11 else 0) + (if form then 2 ^ 10 else 0) + 2 ^ 7 * k1 + 2 ^ 5 * code + 2 * (st.rows - 1))) ∧
         (t.strand w).wgen.toNat = (st.wgen.toNat % 2 ^ 16 + 1) % 2 ^ 16 ∧ (t.strand w).fflag = st.fflag ||| flags.setWidth 64 ∧
         CoreFrame s t (fun q => { q with fflag := 0, wgen := 0 }) [] [d, wt] ∧ NothingElse s t)) ∧
   (∀ (ty : Ty) (all : Bool) (c : Word) (raw : List Nat) (keys : List Int),
     let xs := raw.map (fun x => (witIn ty c x).1)
     raw ≠ [] → xs.map (witKey ty) = keys.map some →
       let names := fun (v : Int) (code : Nat) => if all then ∀ j, code.testBit j = decide (keys[j]? = some v)
         else keys[code]? = some v ∧ ∀ j, j < code → keys[j]? ≠ some v
       (∀ op, op = 0 ∨ op = 1 ∨ op = 3 → (witDecide op ty all c raw).1 ∈ xs ∧ ∃ v, witKey ty (witDecide op ty all c raw).1 = some v ∧
         names v (witDecide op ty all c raw).2.1 ∧
         (op = 0 → ∀ x ∈ keys, x ≤ v) ∧ (op = 1 → ∀ x ∈ keys, v ≤ x) ∧
         (op = 3 → (keys.filter (fun x => decide (x < v))).length ≤ (keys.length - 1) / 2 ∧
           (keys.length - 1) / 2 < (keys.filter (fun x => decide (x ≤ v))).length)) ∧
       (∀ x lo hi kx kl kh, xs = [x, lo, hi] → keys = [kx, kl, kh] →
         let r := witDecide 2 ty false c raw
         (r.1, r.2.1) = if kx < kl then (lo, 1) else if kh < kx then (hi, 2) else (x, 0)) ∧
       (ty.isFT = false →
         let total := keys.foldl (· + ·) 0
         let r := witDecide 4 ty false c raw
         r.1 = putElem ty true total ∧ r.2.2 = 0 ∧
         (r.2.1 = 0 ↔ intElem ty r.1 = total) ∧ (r.2.1 = 1 ↔ intElem ty r.1 < total) ∧ (r.2.1 = 2 ↔ total < intElem ty r.1)))) ∧
  (∀ (f : Form) (ty : Ty) (once : Bool) (gen : Option (BitVec 4)) (op : BitVec 3) (all row : Bool) (km1 : BitVec 3) (d g wt : Tile) (a : Reg) (s : State),
     let w := s.cur
     let st := s.strand w
     let wd := ty.tileWidth
     let k := if row then 1 else km1.toNat + 1
     let outs : List Tile := (List.range k).map (fun c => BitVec.ofNat 4 (d.toNat + c))
     let genOp : List Opnd := match gen with
       | some r => [.src (r.setWidth 6)]
       | none => []
     let i := Instr.wadj f ty once gen op all row km1 d g wt
     let at_ := s.reg w a
     let blocks := (List.range 17).map (fun n => (at_ + BitVec.ofNat 64 (64 * n), 64))
     let eu := fun ps : List Piece => if ps.all (fun p => match p.at_ with | .lm _ => true | _ => false) then 4 else 40
     let recTag := fun (rows : Rows) (tag : Nat) => tag + 2 ^ 32 * crc32 (rows.flatMap (fun r => bytesOfNat 64 r.toNat) ++ bytesOfNat 4 tag)
     (∀ pw, Able s f ([.feat 5] ++ outs.map .tdst ++ [.tsrc g, .tsrc wt] ++ genOp) → st.poolTile wt = some pw →
       let t := ((s.live w.core).tag pw).toNat
       let wrongGen : Bool := match gen with
         | some r => decide (t / 2 ^ 16 ≠ (s.reg w (r.setWidth 6)).toNat % 2 ^ 16)
         | none => false
       let cause := if t = 0 then 20 else if t / 2 ^ 12 % 2 ^ 3 ≠ op.toNat then 21
         else if t.testBit 11 ≠ all ∨ t.testBit 10 ≠ row ∨ t / 2 ^ 7 % 2 ^ 3 ≠ km1.toNat then 22
         else if t / 2 ^ 5 % 2 ^ 2 ≠ (if wd = 32 then 0 else if wd = 16 then 1 else 2) then 23
         else if t / 2 % 2 ^ 4 ≠ st.rows - 1 then 24 else if wrongGen then 25 else 0
       (cause ≠ 0 → exec i s = traps s f { code := .witness, cause := cause }) ∧
       (cause = 0 → (outs.map st.poolTile).Nodup → ∃ u, exec i s = .next u ∧
         (∀ c r j, c < k → r < 16 → j < 512 / wd →
           let code := (s.tile w wt).elem 8 r (if row then 0 else j)
           let hit : Bool := if all then decide (code < 0x80) && code.testBit c else if op = 4 then code == 0 else if row then code == j else code == c
           (u.tile w (BitVec.ofNat 4 (d.toNat + c))).elem wd r j = if st.rowActive r && decide (j < st.cols)
             then (if hit then (s.tile w g).elem wd r (if row then 0 else j) else 0)
             else (s.tile w (BitVec.ofNat 4 (d.toNat + c))).elem wd r j) ∧
         (∀ o ∈ outs, ∀ p, st.poolTile o = some p → (u.live w.core).tag p = 0) ∧
         (some pw ∉ outs.map st.poolTile → (u.live w.core).tag pw = if once then 0 else (s.live w.core).tag pw) ∧
         CoreFrame s u (fun q => q) [] (wt :: outs) ∧ NothingElse s u ∧
         (some pw ∉ outs.map st.poolTile → u.tile w wt = s.tile w wt))) ∧
     (at_.toNat % 64 ≠ 0 →
       (Able s f [.feat 5, .mem, .tsrc d, .src a] → exec (.wst f d a) s = traps s f { code := .align, va := at_, kind := 1 }) ∧
       (Able s f [.feat 5, .mem, .tdst d, .twhole d, .src a] → exec (.wld f d a) s = traps s f { code := .align, va := at_ })) ∧
     (∀ ps p, at_.toNat % 64 = 0 → st.poolTile d = some p →
       (Able s f [.feat 5, .mem, .tsrc d, .src a] → s.pieces w .store .tile blocks = .ok ps →
         ps.any (fun p => s.pieceWaits w p 64) = false →
         exec (.wst f d a) s = retires s f [.feat 5, .mem, .tsrc d, .src a] (eu ps)
           ((ps.zip ((s.tile w d).map (·.toNat) ++ [recTag (s.tile w d) ((s.live w.core).tag p).toNat])).foldl
             (fun acc r => acc.storeAt w r.1 r.2) (s.useAll w ps))) ∧
       (∀ vs s1, Able s f [.feat 5, .mem, .tdst d, .twhole d, .src a] → s.pieces w .load .tile blocks = .ok ps → s.rowAway w ps = false →
         ps.any (fun p => s.mustWait w false p.at_.flat 64) = false → (s.useAll w ps).readRows w ps = .ok (vs, s1) →
         let rows : Rows := (vs.take 16).map (BitVec.ofNat 512)
         let last := vs.getD 16 0
         let tag := last % 2 ^ 32
         let fit : Bool := decide (last = recTag rows tag) &&
           (tag == 0 || (tag.testBit 15 && decide (tag / 2 ^ 12 % 2 ^ 3 ≤ 4) && tag / 2 ^ 5 % 4 != 3 && !tag.testBit 0))
         (fit = false → exec (.wld f d a) s = traps s f { code := .witness, cause := 26 }) ∧
         (fit = true → exec (.wld f d a) s = retires s f [.feat 5, .mem, .tdst d, .twhole d, .src a] (eu ps)
           (s1.setTile w d rows (BitVec.ofNat 32 tag))))))

/-- Creation and destruction of a context, its switch out of and into a core, plans and gang switches. A descriptor in order, with an image of at most 64 KiB, makes a context that is alive and has never run; a context that is not RUNNING is destroyed. A mesh interrupt sends an ACTIVE context of the core to SAVING, its OPEN hinge sets PAUSED, and does nothing where it is not resident; during a scan it keeps what the scan saved AWAY. A save whose work has drained leaves the core free, the context AWAY, its state kept (log entry 17) with its LM objects named by the slot, and its LM image, what its strands wrote in it, in its save slot; before that it goes on. A request to resume a context that is AWAY waits while the core is taken; on a free core of the allotment it goes to RESTORING, or reports a slot out of order; the end of the restore makes it ACTIVE. PLANTAIL moved back or beyond the ring is refused; moved on by one it posts an entry that passes its checks (log entry 85), late where its T has passed (the model's reading, log entry 34). A core acts on a due entry: the context that goes out is saved, the one that comes in restored; before T it does not. -/
def Obligations.ContextsOnCores : Prop :=
  ∀ (s : State),
    (∀ (desc : Nat) (image : List Byte),
      let w := s.readW desc
      let id := w.toNat % 2 ^ 16
      let full : Bool := decide (16 ≤ (s.contexts.filter (fun e => e.2.alive && s.ctxPart e.1 == w.toNat / 2 ^ 16 % 2 ^ 8)).length)
      (s.descOk desc = true → full = false → image.length ≤ 0x10000 → ∃ t : State, exec (.contextCreate desc image) s = becomes t.wake ∧
        t.ctxRec id = { desc := desc, alive := true, ran := false, cores := [], binds := [], redone := [], image := image } ∧
        ∀ c, AMap.get CoreCtx.fresh t.saved (2 ^ 16 * c + id) = CoreCtx.fresh) ∧
      (s.descOk desc = false ∨ full = true ∨ 0x10000 < image.length → exec (.contextCreate desc image) s = becomes s.wake)) ∧
    (∀ ctx : Nat,
      ((s.ctxRec ctx).alive = true → (s.ctxRec ctx).running = false →
        ∃ t : State, exec (.contextDestroy ctx) s = becomes t.wake ∧ (t.ctxRec ctx).alive = false ∧
          memByte t.mem ((s.ctxRec ctx).desc + 3) = 3) ∧
      ((s.ctxRec ctx).alive = false ∨ (s.ctxRec ctx).running = true → exec (.contextDestroy ctx) s = .next s)) ∧
    (∀ (core ctx : Nat),
      (s.scans.lookup (clusterOf core) = none →
        (s.resident ctx core = true → (s.core core).st = .active → ∃ t : State, exec (.meshInterruptMessage core ctx) s = becomes t.wake ∧
          (t.core core).st = .saving ∧ t.coreSt ctx core = .saving ∧ (t.core core).ctx = some ctx ∧
          ∀ k, k < 4 → (s.hslot core k).state = .opened → (t.hslot core k).state = .paused ∧ (t.hslot core k).savep = true) ∧
        (s.resident ctx core = false → exec (.meshInterruptMessage core ctx) s = becomes s)) ∧
      (∀ sc : Scan, s.scans.lookup (clusterOf core) = some sc → exec (.meshInterruptMessage core ctx) s = becomes
        { s with scans := AMap.put s.scans (clusterOf core) { sc with saved := sc.saved.filter (fun e => e != (core, ctx)) } }) ∧
      (∀ blocks, (s.core core).ctx = some ctx → (s.core core).st = .saving → (s.core core).asked = [] →
        (s.drained core = false → ∃ t : State, exec (.savecoreEnd core blocks) s = becomes t.wake ∧ t.mem = s.mem ∧ t.saved = s.saved ∧
          t.core core = s.core core) ∧
        (s.drained core = true → (s.live core).xferList = [] →
          let base := s.slotBase ctx core
          let desc := (s.ctxRec ctx).desc
          ∃ t : State, exec (.savecoreEnd core blocks) s = becomes t.wake ∧ (t.core core).ctx = none ∧ (t.core core).st = .away ∧
            t.coreSt ctx core = .away ∧ AMap.get CoreCtx.fresh t.saved (2 ^ 16 * core + ctx) =
              (((s.keepErrors core).live core).parked base).rename (toSlot core base) ∧
            (inHbm base 0x40000 = true → desc + 4 ≤ base ∨ base + 0x40000 ≤ desc + 3 →
              ∀ x, x < 0x30000 → memByte t.mem (base + x) = memByte (s.publishAll [core]).mem (lmFlat core x)))) ∧
      (s.coreSt ctx core ≠ .away → exec (.resumeRequest core ctx) s = .next s) ∧
      (s.coreSt ctx core = .away → (s.ctxRec ctx).alive = true → s.inAllot ctx core = true → (s.core core).ctx ≠ none →
        ∃ t : State, exec (.resumeRequest core ctx) s = becomes t.wake ∧ ctx ∈ (t.core core).asked ∧
          { t.core core with asked := [] } = { s.core core with asked := [] } ∧ t.mem = s.mem) ∧
      (s.mayRestore core ctx = true → s.planWaits core = false → (s.core core).asked = [] →
        let base := s.slotBase ctx core
        let s0 := s.setCore core { s.core core with asked := [ctx] }
        let s1 := (s0.setCore core { s0.core core with asked := [] }).dropFrame base 0x40000
        let fits := s1.slotOk base (s1.readSlot base (s1.keptAt ctx core base).2)
        let s2 := s1.report (dieOf core) { kind := 17, ctx := ctx, core := core }
        (fits = false → exec (.resumeRequest core ctx) s = becomes (s2.setCore core { s2.core core with asked := [] }).wake) ∧
        (fits = true → ∃ t : State, exec (.resumeRequest core ctx) s = becomes t.wake ∧ (t.core core).ctx = some ctx ∧
          (t.core core).st = .restoring ∧ t.coreSt ctx core = .restoring)) ∧
      ((s.core core).ctx = some ctx → (s.core core).st = .restoring → (∀ n, n < 4 → (s.strand ⟨core, n⟩).phase.tsRow = none) →
        ∃ t : State, exec (.restorecoreEnd core) s = becomes t.wake ∧ (t.core core).st = .active ∧ t.coreSt ctx core = .active)) ∧
    (∀ (die : BitVec 3) (v : Word),
      let d := die.toNat
      let tail := s.planTail d
      (v.toNat < tail ∨ s.planHead d + s.planCap d < v.toNat → exec (.plantailWrite die v) s =
        becomes (s.report d { kind := 13, va := BitVec.ofNat 64 (dieBlock d + 0x50) }).wake) ∧
      (v.toNat = tail + 1 → v.toNat ≤ s.planHead d + s.planCap d → s.planOk d tail = true →
        ∃ t : State, exec (.plantailWrite die v) s = becomes t.wake ∧ t.planTail d = v.toNat ∧
          t.plans = s.plans ++ [{ die := d, n := tail, late := decide (s.readW (s.planAddr d tail) < s.time), acted := [] }])) ∧
    (∀ (die : BitVec 3) (n core : Nat) (p : Plan), s.plans.find? (fun q => q.die == die.toNat && q.n == n) = some p →
      let a := s.planAddr p.die p.n
      let out := (s.readW (a + 8)).toNat % 2 ^ 16
      let inn := (s.readW (a + 8)).toNat / 2 ^ 16 % 2 ^ 16
      (s.time < s.readW a → exec (.gangSwitchTime die n core) s = .next s) ∧
      (s.readW a ≤ s.time → inRect (s.planRect p.die p.n) core = true → p.inDone core = false → p.outDone core = false →
        s.scans.lookup (clusterOf core) = none →
        (out ≠ 0xFFFF → inn = 0xFFFF → s.resident out core = true → (s.core core).st = .active → bit (s.readW (a + 0x18)) 0 = false →
          ∃ t : State, exec (.gangSwitchTime die n core) s = becomes t.wake ∧ (t.core core).st = .saving ∧ t.coreSt out core = .saving) ∧
        (out = 0xFFFF → inn ≠ 0xFFFF → p.late = false → s.mayRestore core inn = true →
          let s1 := s.dropFrame (s.slotBase inn core) 0x40000
          s1.slotOk (s.slotBase inn core) (s1.readSlot (s.slotBase inn core) (s1.keptAt inn core (s.slotBase inn core)).2) = true →
          ∃ t : State, exec (.gangSwitchTime die n core) s = becomes t.wake ∧ (t.core core).ctx = some inn ∧ (t.core core).st = .restoring)))

/-- Creation, reset and close of a queue, doorbells, slice boundaries, the settling of slots, and what a pass takes. A queue is created with its counters 0 where its descriptor can stand and no queue, one that is CLOSED included, has its place or number (log entry 86 is the model's choice); reset of a FAULTED one makes it UNMAPPED, close makes it CLOSED. A doorbell of an open host queue within its ring raises WRITE and publishes the entries below; any other, one of a CLOSED queue among them, is reported to the ring of die 0 with KIND 15 (log entry 15 is the model's choice). TSLICE outside its range is refused; in range it stands, the old value in force until the next boundary. A boundary samples HEAVY and settles slots: the waiter served first has the highest key; each MAPPED queue keeps the key the boundary finds. A pass serves the MAPPED queues in the order of those keys: the first packet considered that is invalid faults the queue with FAULTSEQ and a report of the first byte that failed and where its walk ended, also while nothing may be taken (none is taken while one cannot be read yet), else of those whose dependences are met it takes the one of highest priority, then LIGHT under HEAVY, then lowest number, as a PENDING kernel. -/
def Obligations.QueuesOfADie : Prop :=
  ∀ (s : State),
    (∀ (va ring : Word) (ctx qid : BitVec 16) (hostq : Bool) (qprio : BitVec 4) (die : BitVec 3) (logcap : BitVec 5) (e : Word) (l slot z q : Nat),
      walk s ctx.toNat va = .leaf e l slot z → leafTarget e (va.toNat % pageSize z) = .hbm q true →
      let good : Bool := (s.ctxRec ctx.toNat).alive && decide (va.toNat % 64 = 0) && decide (ring.toNat % 64 = 0) && decide (4 ≤ logcap.toNat) &&
        decide (logcap.toNat ≤ 20) && s.allot ctx.toNat die.toNat != 0xFFFFFFFF && !s.isQueue q &&
        s.queues.all (fun x => x.2.ctx != ctx.toNat || s.read (x.1 + 0x30) 8 % 2 ^ 16 != qid.toNat)
      (good = false → exec (.queueCreate va ring ctx qid hostq qprio die logcap) s = .next s) ∧
      (good = true → ∃ t : State, exec (.queueCreate va ring ctx qid hostq qprio die logcap) s = becomes t.wake ∧
        t.queue q = { Queue.none_ with ctx := ctx.toNat, va := va } ∧ (∀ k, k < 4 → t.read (q + 8 * k) 8 = 0) ∧
        t.readW (q + 0x20) = ring ∧ t.read (q + 0x28) 8 = 2 ^ 24 * (if hostq then 1 else 0) + 2 ^ 16 * qprio.toNat + 2 ^ 8 * die.toNat + logcap.toNat ∧
        t.read (q + 0x30) 8 = 2 ^ 16 * ctx.toNat + qid.toNat ∧ t.read (q + 0x38) 8 = 0)) ∧
    (∀ q : Nat, s.isQueue q = true →
      (∃ t : State, exec (.queueClose q) s = becomes t.wake ∧ t.qState q = 3 ∧ t.qLogcap q = s.qLogcap q ∧ t.qWrite q = s.qWrite q) ∧
      (s.qState q = 2 → s.untaken q = false → ∃ t : State, exec (.queueReset q) s = becomes t.wake ∧ t.qState q = 0) ∧
      (s.qState q ≠ 2 → exec (.queueReset q) s = .next s)) ∧
    (∀ (die : BitVec 3) (k : BitVec 6) (full : Bool) (desc write : Word),
      let q := desc.toNat
      let n := write.toNat
      let good : Bool := full && s.isQueue q && s.qHost q && s.qDie q == die.toNat && s.qState q != 3 && decide (s.qWrite q < n) &&
        decide (n ≤ s.qRead q + 2 ^ s.qLogcap q)
      (good = true → ∃ t : State, exec (.hostDoorbell die k full desc write) s = becomes t.wake ∧ t.qWrite q = n ∧
        ∀ i, s.qRead q ≤ i → i < n → i ∈ (t.queue q).published ∨ i ∈ (s.queue q).taken) ∧
      (good = false → exec (.hostDoorbell die k full desc write) s =
        becomes (s.report 0 { kind := 15, va := BitVec.ofNat 64 (dieBlock die.toNat + 0x30_0000 + 0x10 * k.toNat) }).wake)) ∧
    (∀ (die : BitVec 3) (v : Word),
      let d := die.toNat
      let ok : Bool := decide (1000 ≤ v.toNat) && decide (v.toNat ≤ 1000000)
      (ok = false → exec (.tsliceWrite die v) s = becomes (s.report d { kind := 13, va := BitVec.ofNat 64 (dieBlock d) }).wake) ∧
      (ok = true → ∃ t : State, exec (.tsliceWrite die v) s = becomes t.wake ∧ t.ctl (dieBlock d) = v ∧
        AMap.get 0 t.tslice d = AMap.get (s.ctl (dieBlock d)).toNat s.tslice d)) ∧
    (∀ (die : BitVec 3) (heavy : Bool),
      let d := die.toNat
      let span := AMap.get (s.ctl (dieBlock d)).toNat s.tslice d
      (0 < span → s.time.toNat % span = 0 → (AMap.get Patience.none_ s.patience d).seen ≠ some s.time.toNat →
        ∃ t : State, exec (.sliceBoundary die heavy) s = becomes t.wake ∧ AMap.get false t.heavy d = heavy ∧ t.tslice.lookup d = none ∧
          (AMap.get Patience.none_ t.patience d).seen = some s.time.toNat ∧ ∀ q ∈ t.queuesIn d 1, (t.queue q).key = t.qKey q) ∧
      (s.time.toNat % span ≠ 0 → exec (.sliceBoundary die heavy) s = becomes s.wake) ∧
      (∀ q, s.nextWaiter d = some q → q ∈ s.waiters d ∧ ∀ x ∈ s.waiters d, s.qKey x ≤ s.qKey q ∧
        (s.qKey x = s.qKey q → (s.queue q).waitingAt ≤ (s.queue x).waitingAt)) ∧
      (s.queuesIn d 1 = [] → exec (.schedulerPass die) s = becomes s.wake) ∧
      (∀ q, s.queuesIn d 1 = [q] → exec (.schedulerPass die) s = becomes (s.serveQueue q).wake) ∧
      (∃ l : List Nat, l.Perm (s.queuesIn d 1) ∧ l.Pairwise (fun x y => s.passRank d x ≤ s.passRank d y) ∧
        exec (.schedulerPass die) s = becomes (l.foldl State.serveQueue s).wake) ∧
      (∀ x y, (s.queue x).key ≤ 255 → (s.queue y).key < (s.queue x).key → s.passRank d x < s.passRank d y)) ∧
    (∀ q : Nat, s.qState q = 1 →
      let rank := fun k : Kernel => 2 * k.pk 0x20 3 0 + (if AMap.get false s.heavy (s.qDie q) then k.pk 0x20 10 10 else 0)
      (s.candidate q = .nothing → s.serveQueue q = s) ∧
      (∀ n x, s.candidate q = .bad n x → n ∈ s.considered q ∧ s.readPacket q n = .error (some x) ∧
        (∀ j ∈ s.considered q, j < n → ∃ k, s.readPacket q j = .ok k) ∧
        (s.ringReady (s.qDie q) = true → s.serveQueue q = ((s.setQState q 2 0).write (q + 0x38) 8 n).report (s.qDie q)
          { kind := 16, cause := x.cause, va := BitVec.ofNat 64 x.va, level := x.level, entry := x.entry, ctx := (s.queue q).ctx }) ∧
        (s.ringReady (s.qDie q) = false → s.serveQueue q = s)) ∧
      (∀ n, n ∈ s.considered q → s.readPacket q n = .error none → (∀ j ∈ s.considered q, j < n → ∃ k, s.readPacket q j = .ok k) → s.candidate q = .nothing) ∧
      (∀ k, s.candidate q = .take k → (∀ j ∈ s.considered q, ∃ k', s.readPacket q j = .ok k') ∧ k.kseq ∈ s.considered q ∧ s.readPacket q k.kseq = .ok k ∧ s.depsMet q k = true ∧
        s.qRead q < s.qConfd q + 1024 ∧ (∀ n k', n ∈ s.considered q → s.readPacket q n = .ok k' → s.depsMet q k' = true → rank k' ≤ rank k ∧ (rank k' = rank k → k.kseq ≤ n)) ∧
        ((s.serveQueue q).kernel s.nextId).packet = k.packet ∧ ((s.serveQueue q).kernel s.nextId).state = .pending ∧
        ((s.serveQueue q).kernel s.nextId).kseq = k.kseq))

/-- A group is placed on free places of a rectangle that fits, in its turn, and starts as one event with the start values. A PENDING group whose turn it is, at a corner where each core of the rectangle is ACTIVE, not fenced and has a free place, takes the lowest free place of each; a group out of turn does not. A group that is STARTING, with every core of it ACTIVE, runs: each strand is at the kernel's code with its claim, domain, group id and no holdings, reads the address of its arguments in s1, the sequence number in s2, the queue in s3, zero in the other registers of its base block; the kernel is RUNNING. While a core is not ACTIVE, an earlier group of an ORDERED kernel has not started, or written bytes that the start's acquire drops cannot go home over their links, the group waits. -/
def Obligations.GroupsOfAKernel : Prop :=
  ∀ (kid g : Nat) (s : State),
    let k := s.kernel kid
    let gr := k.group g
    (∀ (x0 y0 : Nat), (AMap.get Patience.none_ s.patience k.die).holding = none →
      let cores := rectCores (k.rectAt x0 y0)
      (k.turnOf g = false → exec (.groupPlace kid g x0 y0) s = becomes s.wake) ∧
      (k.turnOf g = true → gr.state = .pending →
        (s.mayPlace kid x0 y0 = true → exec (.groupPlace kid g x0 y0) s = becomes (s.setGroup kid g
          { state := .starting, x0 := x0, y0 := y0, members := cores.map (fun c => ⟨⟨c, (s.freePlaces k.ctx c).headD 0⟩, false⟩) }).wake ∧
          ∀ c ∈ cores, s.inAllot k.ctx c = true ∧ s.isActive k.ctx c = true ∧ (s.core c).fenced = false ∧
            ∃ n, s.freePlaces k.ctx c = n :: (s.freePlaces k.ctx c).tail ∧ n < 4 ∧ ((s.ctxState k.ctx c).strand n).run ≠ .running) ∧
        (s.mayPlace kid x0 y0 = false → exec (.groupPlace kid g x0 y0) s = becomes s.wake))) ∧
    (gr.state = .starting → k.state = .pending ∨ k.state = .running → (gr.members.map (·.who)).Nodup → (∀ m ∈ gr.members, m.who.strand < 4) →
      ((∃ m ∈ gr.members, s.isActive k.ctx m.who.core = false ∨ s.takeCut m.who .all = true) ∨
        (k.ordered = true ∧ ∃ h, h < g ∧ (k.group h).state ≠ .running ∧ (k.group h).state ≠ .ended) → exec (.groupStart kid g) s = becomes s.wake) ∧
      ((k.ordered = false ∨ ∀ h, h < g → (k.group h).state = .running ∨ (k.group h).state = .ended) →
        (∀ m ∈ gr.members, s.isActive k.ctx m.who.core = true ∧ s.takeCut m.who .all = false) → ∃ t : State, exec (.groupStart kid g) s = becomes t.wake ∧
        (t.kernel kid).state = .running ∧ ((t.kernel kid).group g).state = .running ∧
        ∀ m ∈ gr.members, let st := t.strand m.who
          st.run = .running ∧ st.pc = BitVec.ofNat 64 k.code ∧ st.claim = k.claim ∧ st.hold = Holdings.none_ ∧ st.job = some (kid, g) ∧
          st.preds = 0 ∧ st.priv = .user ∧ st.wait = none ∧
          st.domain = BitVec.ofNat 64 (2 ^ 32 + k.rectAt gr.x0 gr.y0) ∧
          st.gid = BitVec.ofNat 64 (2 ^ 36 * (m.who.core / 256 - gr.y0) + 2 ^ 32 * (m.who.core % 256 - gr.x0) + g) ∧
          t.reg m.who 1 = BitVec.ofNat 64 k.argsVa ∧ t.reg m.who 2 = BitVec.ofNat 64 k.kseq ∧ t.reg m.who 3 = k.qva ∧
          ∀ r : Reg, 4 ≤ r.toNat → r.toNat < 16 → t.reg m.who r = 0))

/-- Retirement, fault, service, abandonment and replay of a kernel move it through its states as its rules give. A DRAINING kernel with nothing outstanding, no written byte of its cores' clusters held by a link, retires, its claims published: CONFIRMED at once without FEATURE2 bit 7, else RETIRED; before that it stays. Evidence of a fault, while its die's ring takes an entry, makes a kernel FAULTED with a report; of one that has stopped or is confirmed an error that was held for an exited strand is reported too, and no other evidence changes anything; one that was PENDING, RUNNING or DRAINING stops: no strand of it runs, on a core or in a saved state, its groups have ended and its barriers are poisoned: each recorded object that is OPEN, on a core that runs its context, with the recorded GEN or a strand of the kernel waiting on it, becomes POISONED with CC 1, the control core and the code 0xFFFFFF05 or 0xFFFFFF07. The report names the evidence: the core and the KIND, and the address. Service of a FAULTED kernel replays it where it asks for it, has fewer than three replays and never retired, else abandons it. Abandonment of a kernel before RETIRED, or FAULTED, makes it ABANDONED. A replay whose discard is complete, no error of it held any more, makes it PENDING again, with one more replay, no groups and the cores it ran on. Elsewhere these steps change nothing. -/
def Obligations.KernelsEndAndReplay : Prop :=
  ∀ (k : Nat) (cc : BitVec 2) (s : State),
    let kr := s.kernel k
    let st := kr.state
    let stuck : Bool := kr.cores.any (fun c => s.anyCut ⟨c, 0⟩ (fun _ _ => true))
    let errs : Bool := s.anyCtxState (fun l => l.held.any (fun h => h.err.isSome && ofKernel k h.job))
    (st = .draining → s.busy k = false → stuck = false → ∃ t : State, exec (.kernelRetire k) s = becomes t.wake ∧
      (t.kernel k).state = (if s.feature2.getLsbD 7 then .retired else .confirmed) ∧ (t.kernel k).everRetired = true ∧ (t.kernel k).claims = [] ∧
      (t.kernel k).retiredAt = s.time ∧ (t.kernel k).unscanned = kr.cores) ∧
    (st ≠ .draining ∨ s.busy k = true ∨ stuck = true → exec (.kernelRetire k) s = becomes s.wake) ∧
    (s.hasKernel k = true →
      (∀ why r s1, st = .pending ∨ st = .running ∨ st = .draining ∨ st = .retired → s.ringReady kr.die = true → s.faultWhy k why = some (r, s1) →
        ∃ t : State, exec (.kernelFault k why cc) s = becomes t.wake ∧ (t.kernel k).state = .faulted ∧
          (st ≠ .retired → (∀ g, ((t.kernel k).group g).state = .ended) ∧
            (∀ c ∈ t.cores, ∀ n, n < 4 → ofKernel k (c.2.live.strand n).job = true → (c.2.live.strand n).run ≠ .running) ∧
            ∀ key n, n < 4 → let x := (AMap.get CoreCtx.fresh t.saved key).strand n; ofKernel k x.job = true → x.run ≠ .running) ∧
          (st ≠ .retired → t = ((s1.poisonBars k 0xFFFFFF05 (4 * kr.die + cc.toNat)).stopKernel k .faulted).report kr.die r) ∧
          (match why with
            | .held c n => r.kind = 8 ∧ r.cause = 30 ∧ r.core = c ∧ r.ctx = kr.ctx
            | .memory a => r.kind = 11 ∧ r.va.toNat = a % 2 ^ 64 ∧ r.ctx = kr.ctx
            | .scan c => r.kind = 10 ∧ r.core = c ∧ r.ctx = kr.ctx
            | .service id => ∃ p, s.pkt id = some p ∧ (r.kind = 1 ∨ r.kind = 2) ∧ r.cause = 9 ∧ r.va = p.va ∧ r.pc = p.pc ∧ r.core = p.src.core
            | .xfer c n => r.core = c ∧ r.eslot = n ∧ r.ctx = kr.ctx)) ∧
      (∀ why, s.ringReady kr.die = false ∨ s.faultWhy k why = none → exec (.kernelFault k why cc) s = .next s) ∧
      (st = .pending ∨ st = .running ∨ st = .draining ∨ st = .faulted → ∃ t : State, exec (.kernelAbandon k cc) s = becomes t.wake ∧
        (t.kernel k).state = .abandoned ∧ (t.kernel k).claims = [] ∧
        (st ≠ .faulted → let s1 := (((s.poisonBars k 0xFFFFFF07 (4 * kr.die + cc.toNat)).stopKernel k .abandoned).releaseKept k).discardClaims k
          t = (s1.setKernel k { s1.kernel k with state := .abandoned }).raiseQueue kr.qdesc)) ∧
      (∀ (b : BarRec) (code src : Nat), b ∈ kr.bars → (∀ x ∈ kr.bars, x.flat % 64 = 0) → code < 2 ^ 32 → src < 2 ^ 15 →
        s.barAway kr.ctx b.flat = false →
        (isLm b.flat = true → (s.live (lmCore b.flat)).hingeCovers (b.flat - lmFlat (lmCore b.flat) 0) 16 = false) →
        let v := (s.bar0 b.flat).toNat
        v / 2 ^ 46 % 4 = 1 → v / 2 ^ 16 % 2 ^ 16 < v % 2 ^ 16 → s.waitsOn k b.flat = true ∨ b.gen = some (v / 2 ^ 48) →
        ((s.poisonBars k code src).bar0 b.flat).toNat = v + 2 ^ 46 ∧
        ((s.poisonBars k code src).bar1 b.flat).toNat = 2 ^ 48 * (v / 2 ^ 48) + 2 ^ 47 + 2 ^ 32 * src + code) ∧
      (st = .retired ∨ st = .confirmed ∨ st = .abandoned ∨ st = .replaying → exec (.kernelAbandon k cc) s = becomes s.wake)) ∧
    (s.hasKernel k = false → exec (.kernelAbandon k cc) s = .next s ∧ ∀ why, st ≠ .faulted → st ≠ .replaying → st ≠ .abandoned → st ≠ .confirmed →
      exec (.kernelFault k why cc) s = .next s) ∧
    (∀ why, st = .faulted ∨ st = .replaying ∨ st = .abandoned ∨ st = .confirmed →
      ((∀ c n, why ≠ .held c n) ∨ s.ringReady kr.die = false ∨ s.faultWhy k why = none → exec (.kernelFault k why cc) s = .next s) ∧
      (∀ c n r s1, why = .held c n → s.ringReady kr.die = true → s.faultWhy k why = some (r, s1) →
        exec (.kernelFault k why cc) s = becomes (s1.report kr.die r).wake ∧ r.kind = 8 ∧ r.cause = 30 ∧ r.core = c ∧ r.ctx = kr.ctx)) ∧
    (st = .faulted → ∃ t : State, exec (.kernelService k cc) s = becomes t.wake ∧
      (t.kernel k).state = (if kr.replay ∧ kr.replays < 3 ∧ kr.everRetired = false then .replaying else .abandoned) ∧
      ∀ c ∈ t.cores, ∀ u ∈ c.2.live.kept, u.1 ≠ k) ∧
    (st ≠ .faulted → exec (.kernelService k cc) s = becomes s.wake) ∧
    (st = .replaying → errs = false → ∃ t : State, exec (.replayDiscardComplete k) s = becomes t.wake ∧ (t.kernel k).state = .pending ∧
      (t.kernel k).replays = kr.replays + 1 ∧ (t.kernel k).groups = [] ∧ (t.kernel k).packet = kr.packet ∧
      (t.kernel k).cores = kr.cores ∧ (t.kernel k).sinceScan = kr.sinceScan) ∧
    (st ≠ .replaying ∨ errs = true → exec (.replayDiscardComplete k) s = .next s) ∧
    (∀ q c e, s.qDone q ≤ c → c < (s.raiseQueue q).qDone q → s.kernelAt q c = some e → e.2.counted false = true)

/-- Each link event takes a link to the state R335 names, with its counters; lquery reads them. Once reset is released the mesh and seam links train. A training that succeeds takes a link UP with one more training, a port learning its partner; one that fails takes a port DOWN, and a mesh or seam link to FAILED with a report of KIND 11 at the third failure in a row. A port trains again 100 ms after its failure. A flit in error counts one retry and one error, and the ninth in a row of the same flit starts retraining; a retraining that succeeds takes the link UP, one that fails a port DOWN and any other link to FAILED. A port that is not ABSENT or FAILED can be disabled, and enabled again it trains, as does one that is DOWN and has not trained since reset was released (log entry 36 is the model's choice); packets of a port that has gone take the next UP port of the list that they had at issue, or keep theirs where none is UP. From any other state the event changes nothing. lquery of a mesh link or a port writes its state, seam, partner and count of trainings for q = 0, its retries and errors for q = 1, its FEC counts for q = 2; of a module, for q = 0, its state, lock, number and epoch, the executing module being UP and the module of the time source in lock. A mesh link beyond the package reads 0. KIND 3, and KIND 2 with q above 0, trap ILLOP. -/
def Obligations.LinksChangeState : Prop :=
  (∀ (s : State) (k : Nat),
     let l := s.link k
     let real : Bool := isMeshKey k || isPortKey k
     (∃ t : State, exec .linkResetRelease s = becomes t ∧ t.links = s.links ∧
       (s.links.lookup k = none → isMeshKey k = true → (t.link k).state = .training)) ∧
     (∀ nm np,
       (l.state = .training → real = true → ∃ t : State, exec (.trainingSuccess k nm np) s = becomes t ∧ (t.link k).state = .up ∧
         (t.link k).trains.toNat = min (l.trains.toNat + 1) (2 ^ 16 - 1) ∧ (t.link k).retry = l.retry ∧ (t.link k).crcerr = l.crcerr ∧
         (isPortKey k = true → (t.link k).nmod = nm ∧ (t.link k).nport = np)) ∧
       (l.state ≠ .training → exec (.trainingSuccess k nm np) s = .next s)) ∧
     (real = false → exec (.trainingSuccess k 0 0) s = .next s ∧ exec (.trainingFailure k) s = .next s ∧ exec (.flitCrcError k false 0 false) s = .next s) ∧
     (l.state ≠ .training → exec (.trainingFailure k) s = .next s) ∧
     (l.state = .training → isPortKey k = true → ∃ t : State, exec (.trainingFailure k) s = becomes t ∧ (t.link k).state = .down ∧
       (t.link k).since = some s.time.toNat) ∧
     (l.state = .training → isPortKey k = false → isMeshKey k = true →
       (l.fails < 2 → ∃ t : State, exec (.trainingFailure k) s = becomes t ∧ (t.link k).state = .training ∧ (t.link k).fails = l.fails + 1 ∧
         t.reports = s.reports) ∧
       (2 ≤ l.fails → ∃ t : State, exec (.trainingFailure k) s = becomes (t.report (dieOf (k / 4)) { kind := 11, core := k / 4 }) ∧
         (t.link k).state = .failed ∧ t.reports = s.reports)) ∧
     (∀ (port : BitVec 5) (since : Nat), k = portKey port.toNat →
       (l.state = .down → l.since = some since → since + 100000000 ≤ s.time.toNat →
         ∃ t : State, exec (.portTrainRetry port) s = becomes t ∧ (t.link k).state = .training) ∧
       (l.since = some since → s.time.toNat < since + 100000000 → exec (.portTrainRetry port) s = .next s) ∧
       (l.state ≠ .down ∨ l.since = none → exec (.portTrainRetry port) s = .next s) ∧
       (l.state ≠ .absent → l.state ≠ .failed → ∃ t : State, exec (.portDisable port) s = becomes t ∧ (t.link k).state = .disabled ∧
         (t.link k).trains = l.trains ∧ t.net = AMap.mapVals s.net (fun _ p => t.reroute p)) ∧
       (l.state = .absent ∨ l.state = .failed → exec (.portDisable port) s = .next s) ∧
       (l.state = .disabled → ∃ t : State, exec (.portEnable port) s = becomes t ∧ (t.link k).state = .training ∧ (t.link k).trains = l.trains) ∧
       (l.state = .down → l.since = none → s.released = true → ∃ t : State, exec (.portEnable port) s = becomes t ∧ (t.link k).state = .training ∧
         (t.link k).trains = l.trains) ∧
       (l.state ≠ .disabled → l.state ≠ .down ∨ l.since ≠ none ∨ s.released = false → exec (.portEnable port) s = .next s)) ∧
     (∀ same fixed fec,
       (l.state = .up → real = true → ∃ t : State, exec (.flitCrcError k same fixed fec) s = becomes t ∧
         (t.link k).retry.toNat = min (l.retry.toNat + 1) (2 ^ 32 - 1) ∧ (t.link k).crcerr.toNat = min (l.crcerr.toNat + 1) (2 ^ 32 - 1) ∧
         (t.link k).trains = l.trains ∧
         (isPortKey k = false → (t.link k).fecOk = l.fecOk ∧ (t.link k).fecBad = l.fecBad) ∧
         (t.link k).tries = (if same then l.tries + 1 else 1) ∧
         (t.link k).state = (if same && decide (8 ≤ l.tries) then .retraining else .up)) ∧
       (l.state ≠ .up → exec (.flitCrcError k same fixed fec) s = .next s)) ∧
     (l.state = .retraining →
       (∃ t : State, exec (.retrainSuccess k) s = becomes t ∧ (t.link k).state = .up ∧
         (t.link k).trains.toNat = min (l.trains.toNat + 1) (2 ^ 16 - 1)) ∧
       (isPortKey k = true → ∃ t : State, exec (.retrainFailure k) s = becomes t ∧ (t.link k).state = .down ∧ (t.link k).since = some s.time.toNat) ∧
       (isPortKey k = false → ∃ t : State, exec (.retrainFailure k) s = becomes (t.report (dieOf (k / 4)) { kind := 11, core := k / 4 }) ∧
         (t.link k).state = .failed ∧ t.reports = s.reports)) ∧
     (l.state ≠ .retraining → exec (.retrainSuccess k) s = .next s ∧ exec (.retrainFailure k) s = .next s) ∧
     (∀ (m : Nat) (v : Word), s.route m = some v → s.portsTo m = (List.range (v.toNat / 2 ^ 48 % 4 + 1)).map (fun j => v.toNat / 2 ^ (5 * j) % 2 ^ 5)) ∧
     (∀ (p : Packet) (m : Nat), p.module_ = some m → (s.routed p).ports = s.portsTo m) ∧
     (∀ (p : Packet), p.port = none → s.reroute p = p) ∧
     (∀ (p : Packet) (q : Nat), p.port = some q →
       let st := (s.link (portKey q)).state
       let ports := p.ports
       (st = .up ∨ st = .retraining → s.reroute p = p) ∧
       (st ≠ .up → st ≠ .retraining → (∀ x ∈ ports, (s.link (portKey x)).state ≠ .up) → s.reroute p = p) ∧
       (st ≠ .up → st ≠ .retraining → ∀ i j, i < ports.length → ports[i]? = some q → ports.Nodup → 0 < j → j < ports.length →
         (∀ h, 0 < h → h < j → ∀ x, ports[(i + h) % ports.length]? = some x → (s.link (portKey x)).state ≠ .up) →
         ∀ x, ports[(i + j) % ports.length]? = some x → (s.link (portKey x)).state = .up → s.reroute p = { p with port := some x }))) ∧
  (∀ (f : Form) (d a : Reg) (s : State),
     let w := s.cur
     let v := (s.reg w a).toNat
     let kind := v / 2 ^ 62
     let x := v % 2 ^ 8
     let y := v / 2 ^ 8 % 2 ^ 7
     let dir := v / 2 ^ 16 % 4
     let put := fun n : Nat => retires s f [.dst d, .src a] 16 (s.setReg w d (BitVec.ofNat 64 n))
     Able s f [.dst d, .src a] →
       (∀ k, kind = 0 → meshKey (256 * y + x) dir = some k →
         let l := s.link k
         exec (.lquery f d a 0) s = put (2 ^ 61 * l.state.code + (if isSeam k then 2 ^ 60 else 0) + l.trains.toNat) ∧
         exec (.lquery f d a 1) s = put (2 ^ 32 * l.retry.toNat + l.crcerr.toNat) ∧ exec (.lquery f d a 2) s = put 0) ∧
       (kind = 0 → meshKey (256 * y + x) dir = none → exec (.lquery f d a 0) s = put 0) ∧
       (x < 255 → y < 128 → meshKey (256 * y + x) 0 = some (4 * (256 * y + x)) ∧ meshKey (256 * y + x + 1) 1 = some (4 * (256 * y + x)) ∧
         meshKey (256 * y + 255) 0 = none) ∧
       (kind = 1 →
         let l := s.link (portKey (v % 2 ^ 5))
         exec (.lquery f d a 0) s = put (2 ^ 61 * l.state.code + (if s.tlock l then 2 ^ 59 else 0) +
           (2 ^ 32 * l.nmod.toNat + 2 ^ 16 * l.nport.toNat) + l.trains.toNat) ∧
         exec (.lquery f d a 1) s = put (2 ^ 32 * l.retry.toNat + l.crcerr.toNat) ∧
         exec (.lquery f d a 2) s = put (2 ^ 32 * l.fecOk.toNat + l.fecBad.toNat)) ∧
       (kind = 2 →
         let m := v / 2 ^ 32 % 2 ^ 16
         let e := s.modEnt m
         (m = s.module_.toNat → exec (.lquery f d a 0) s = put (2 ^ 61 * 2 + (if m = s.timeSource ∨ s.inLock = true then 2 ^ 60 else 0) + 2 ^ 32 * m + e.epoch.toNat)) ∧
         (m ≠ s.module_.toNat → exec (.lquery f d a 0) s =
           put (2 ^ 61 * e.state.code + (if m = s.timeSource ∨ e.lock = true then 2 ^ 60 else 0) + 2 ^ 32 * m + e.epoch.toNat)) ∧
         exec (.lquery f d a 1) s = traps s f { code := .illop } ∧ exec (.lquery f d a 2) s = traps s f { code := .illop }) ∧
       (kind = 3 → ∀ q, exec (.lquery f d a q) s = traps s f { code := .illop }))

/-- Routes, time flits, the lock, the module table, and what becomes of the traffic of a module that fails. A route entry that is in order is written, and any other refused (the host reaches only what BAR0's windows show); a module uses its lowest entry, else the lowest default entry. A time flit at an UP port gives an estimate: within 16 ns the module is in lock, and the tenth in a row beyond takes it out, as 100 us without a flit do; the time source is always in lock (how the lock of others is known is log entry 37). An UNKNOWN module is added as JOINING; it is UP once a route is UP and it is in lock, as the time source always is, which raises its EPOCH, and JOINING again without; a FAILED one is cleared. A JOINING or UP module fails by declaration, or once every route was down for MFAILNS: a load of it or a returning atomic then returns with an error; a store or a non-returning atomic is reported with CAUSE 9, its count falls, and its kernel faults, but it waits while the fault ring is full; an msend traps ACCESS with CAUSE 9; a pushed half is answered with code 7; what the module has sent and what has not arrived is gone (log entry 38 says which choices are the model's). -/
def Obligations.ModulesOfThePod : Prop :=
  ∀ (s : State),
    (∀ (die : BitVec 3) (host : Bool) (e : BitVec 8) (v : Word),
      let pa := moduleBlock + 0x100 + 8 * e.toNat
      let c := v.toNat / 2 ^ 48 % 4 + 1
      let ports := (List.range c).map (fun k => v.toNat / 2 ^ (5 * k) % 2 ^ 5)
      let good : Prop := v.toNat / 2 ^ 50 % 2 ^ 13 = 0 ∧ v.toNat / 2 ^ 20 % 2 ^ 12 = 0 ∧ ports.Nodup
      (host = true → s.hostSees pa = false → exec (.routeTableWrite die host e v) s = becomes s.wake) ∧
      (host = false ∨ s.hostSees pa = true → good → ∃ t : State, exec (.routeTableWrite die host e v) s = becomes t.wake ∧ t.ctl pa = v ∧
        (∀ a, a ≠ pa → t.ctl a = s.ctl a) ∧ t.links = s.links) ∧
      (host = false ∨ s.hostSees pa = true → ¬ good → exec (.routeTableWrite die host e v) s =
        becomes ((s.report (if host then 0 else die.toNat) { kind := 13, va := BitVec.ofNat 64 pa }).settleModules).wake)) ∧
    (∀ (m : Nat) (v : Word), s.route m = some v →
      let entry := fun n : Nat => (s.ctl (moduleBlock + 0x100 + 8 * n)).toNat
      let names := fun (n x : Nat) => entry n / 2 ^ 63 = 1 ∧ entry n / 2 ^ 32 % 2 ^ 16 = x
      ∃ n, n < 256 ∧ v.toNat = entry n ∧ ((names n m ∧ ∀ j, j < n → ¬ names j m) ∨
        (names n 0xFFFF ∧ (∀ j, j < n → ¬ names j 0xFFFF) ∧ ∀ j, j < 256 → ¬ names j m))) ∧
    (∀ (port : BitVec 5) (src : BitVec 16) (offset : Word) (locked : Bool),
      let e := s.modEnt src.toNat
      let good : Prop := -16 ≤ offset.toInt ∧ offset.toInt ≤ 16
      let up : Bool := s.routeUp src.toNat && (locked || src.toNat == s.timeSource)
      ((s.link (portKey port.toNat)).state ≠ .up → exec (.timeFlit port src offset locked) s = .next s) ∧
      ((s.link (portKey port.toNat)).state = .up → ∃ t : State, exec (.timeFlit port src offset locked) s = becomes t ∧
        t.lastFlit = s.time ∧ (good → t.badEst = 0 ∧ t.lock = true) ∧
        (¬ good → t.badEst = s.badEst + 1 ∧ t.lock = (s.lock && decide (s.badEst < 9))) ∧
        (t.modEnt src.toNat).lock = locked ∧
        (e.state = .joining → (t.modEnt src.toNat).state = (if up then .up else .joining) ∧
          (t.modEnt src.toNat).epoch = (if up then e.epoch + 1 else e.epoch)) ∧
        (e.state = .up → (t.modEnt src.toNat).state = (if up then .up else .joining) ∧ (t.modEnt src.toNat).epoch = e.epoch) ∧
        (e.state = .unknown ∨ e.state = .failed → (t.modEnt src.toNat).state = e.state))) ∧
    (s.lastFlit.toNat + 100000 ≤ s.time.toNat → exec .timeFlitTimeout s = becomes { s with lock := false }) ∧
    (s.time.toNat < s.lastFlit.toNat + 100000 → exec .timeFlitTimeout s = .next s) ∧
    (s.timeSource = s.module_.toNat → s.inLock = true) ∧ (s.timeSource ≠ s.module_.toNat → s.inLock = s.lock) ∧
    (∀ (m : BitVec 16) (cc : BitVec 2),
      let e := s.modEnt m.toNat
      let live : Prop := e.state = .joining ∨ e.state = .up
      let failed : State := { s.setMod m.toNat { e with state := .failed } with
        net := s.net.filter (fun x => x.2.smodule != m.toNat || s.fromHere x.2 || x.2.arrived) }
      let left := s.net.filter (fun x => x.2.module_ == some m.toNat && x.2.smodule == s.module_.toNat)
      (e.state = .unknown → ∃ t : State, exec (.moduleAdd m) s = becomes t.wake ∧
        (t.modEnt m.toNat).state = (if s.routeUp m.toNat && (e.lock || m.toNat == s.timeSource) then .up else .joining)) ∧
      (e.state ≠ .unknown → exec (.moduleAdd m) s = .next s) ∧
      (e.state = .failed → ∃ t : State, exec (.moduleClear m) s = becomes t ∧ (t.modEnt m.toNat).state = .unknown ∧
        (t.modEnt m.toNat).epoch = e.epoch) ∧
      (e.state ≠ .failed → exec (.moduleClear m) s = .next s) ∧
      (¬ live → exec (.moduleDeclareFailed m cc) s = .next s ∧ exec (.moduleFailTimeout m cc) s = .next s) ∧
      (live → left = [] → exec (.moduleDeclareFailed m cc) s = becomes failed.wake) ∧
      (∀ since, live → e.downAt = some since →
        (s.time.toNat < since + (s.ctl moduleBlock).toNat → exec (.moduleFailTimeout m cc) s = .next s) ∧
        (since + (s.ctl moduleBlock).toNat ≤ s.time.toNat → exec (.moduleFailTimeout m cc) s = exec (.moduleDeclareFailed m cc) s ∧
          (left = [] → exec (.moduleFailTimeout m cc) s = becomes failed.wake))) ∧
      (∀ id p, live → left = [(id, p)] → s.pkt id = some p → (p.landed && p.refused) = false →
        let kept : Prop := p.kind = .near ∨ p.kind = .row ∨ (∃ sync, p.kind = .store sync) ∨ ((∃ op ty, p.kind = .amo op ty) ∧ p.ret = false)
        (p.kind = .load ∨ p.kind = .nearLoad ∨ ((∃ op ty, p.kind = .amo op ty) ∧ p.ret = true) → exec (.moduleDeclareFailed m cc) s =
          becomes (failed.setPkt id { p with landed := true, refused := true, poison := 0 }).wake) ∧
        (kept → s.ringReady (dieOf p.src.core) = false → exec (.moduleDeclareFailed m cc) s =
          becomes (failed.setPkt id { p with refused := true, landed := false }).wake) ∧
        (kept → s.ringReady (dieOf p.src.core) = true →
          let entry : Report :=
            { kind := (match p.kind with | .amo _ _ => 2 | _ => 1), cause := 9, va := p.va, pc := p.pc, strand := p.src.strand, ctx := p.ctx, core := p.src.core, level := p.ent.level,
              entry := p.ent.entry }
          let reported := (failed.report (dieOf p.src.core) entry).lostPkt id p
          (p.job = none → exec (.moduleDeclareFailed m cc) s = becomes reported.wake) ∧
          (∀ kid g, p.job = some (kid, g) → exec (.moduleDeclareFailed m cc) s = becomes (reported.kernelFaulted kid cc.toNat).wake)) ∧
        (p.kind = .msg → s.home p = true → ∀ v u, s.waitOf p.src [.msend] = some v →
          (failed.msgWithdraw p.src id).takeTrap p.src { code := .access, cause := 9 } (s.strand p.src).pc ((s.strand p.src).pc + BitVec.ofNat 64 v.len) = .next u →
          exec (.moduleDeclareFailed m cc) s = becomes u.wake ∧ (failed.msgWithdraw p.src id).pkt id = none) ∧
        (p.kind = .push ∨ (∃ c, p.kind = .reply c) → exec (.moduleDeclareFailed m cc) s = becomes (failed.hingeReplied id p 7).wake) ∧
        (∀ n, p.path = some n → s.ours p = true → (s.lostPkt id p).pkt id = none ∧ s.lostPkt id p = (s.packBack p.src n).delPkt id)))

/-- Fault rings, the sweep of LM, scans of a cluster with passing and fencing, and machine checks. HEAD moved back or past TAIL, and a base or capacity written to a ring that is not empty or out of range, are refused; else they stand, the second with HEAD and TAIL 0. A report stands whole at TAIL, field by field, and TAIL advances, or it waits while the ring is full. A sweep poisons and reports each LM word in error. A scan starts at its TIME, with FEATURE2 bit 7, and saves each ACTIVE context of the cluster; at its end, later, cores that match pass, and the others are fenced, with a report of KIND 10 and their SCANST bit (log entries 38 and 39 say what is the model's choice). A RETIRED kernel becomes CONFIRMED once each of its cores passed a scan that began after its retirement; a kernel not CONFIRMED that ran on a fenced core since its last scan faults (which control core acts is log entry 96). The slot of a fenced core stays as SaveCore left it. A machine check is reported and rolls back the window of each queue with a kernel concerned. -/
def Obligations.FaultRingsAndScans : Prop :=
  ∀ (s : State),
    (∀ (die : BitVec 3) (v : Word),
      let d := die.toNat
      (v.toNat < s.ringHead d ∨ s.ringTail d < v.toNat → exec (.faultRingHeadWrite die v) s =
        becomes (s.report d { kind := 13, va := BitVec.ofNat 64 (dieBlock d + 0x30) }).wake) ∧
      (s.ringHead d ≤ v.toNat → v.toNat ≤ s.ringTail d →
        ∃ t : State, exec (.faultRingHeadWrite die v) s = becomes t.wake ∧ t.ringHead d = v.toNat ∧ t.ringBase d = s.ringBase d) ∧
      (s.ringHead d ≠ s.ringTail d → ∀ cap, exec (.faultRingConfigWrite die cap v) s =
        becomes (s.report d { kind := 13, va := BitVec.ofNat 64 (dieBlock d + if cap then 0x28 else 0x20) }).wake) ∧
      (s.ringHead d = s.ringTail d → AMap.get [] s.reports d = [] →
        (∃ t : State, exec (.faultRingConfigWrite die false v) s = becomes t.wake ∧ t.ringBase d = v.toNat ∧ t.ringHead d = 0 ∧ t.ringTail d = 0) ∧
        (∀ k, 6 ≤ k → k ≤ 20 → v.toNat = 2 ^ k → ∃ t : State, exec (.faultRingConfigWrite die true v) s = becomes t.wake ∧
          t.ringCap d = v.toNat ∧ t.ringHead d = 0 ∧ t.ringTail d = 0) ∧
        ((∀ k, 6 ≤ k → k ≤ 20 → v.toNat ≠ 2 ^ k) → exec (.faultRingConfigWrite die true v) s =
          becomes (s.report d { kind := 13, va := BitVec.ofNat 64 (dieBlock d + 0x28) }).wake))) ∧
    (∀ (d : Nat) (r : Report), AMap.get [] s.reports d = [] →
      (s.ringTail d = s.ringHead d + s.ringCap d → (s.report d r).mem = s.mem ∧ (AMap.get [] (s.report d r).reports d).length = 1 ∧
        (s.report d r).ringTail d = s.ringTail d) ∧
      (s.ringTail d ≠ s.ringHead d + s.ringCap d → s.ringTail d + 1 < 2 ^ 64 →
        (s.report d r).ringTail d = s.ringTail d + 1 ∧ AMap.get [] (s.report d r).reports d = [] ∧
        (∀ a, inHbm (s.ringBase d) (128 * s.ringCap d) = true → (a < s.ringBase d + 128 * (s.ringTail d % s.ringCap d) ∨
          s.ringBase d + 128 * (s.ringTail d % s.ringCap d) + 128 ≤ a) → memByte (s.report d r).mem a = memByte s.mem a) ∧
        (r.cause < 256 → r.kind < 256 → r.level < 8 → r.eng < 2 → r.strand < 4 → r.eslot < 4 → r.ctx < 2 ^ 32 → r.core < 2 ^ 32 →
          let t := s.report d r
          let a := s.ringBase d + 128 * (s.ringTail d % s.ringCap d)
          t.readW a = r.va ∧ t.readW (a + 8) = r.pc ∧ t.readW (a + 0x20) = r.entry ∧ t.readW (a + 0x28) = r.prog1 ∧ t.readW (a + 0x30) = r.prog2 ∧
          (t.readW (a + 0x10)).toNat = 2 ^ 56 * r.cause + 2 ^ 48 * r.kind + 2 ^ 45 * r.level + 2 ^ 44 * r.eng + 2 ^ 42 * r.strand + 2 ^ 40 * r.eslot ∧
          (t.readW (a + 0x18)).toNat = 2 ^ 32 * r.ctx + r.core ∧ (t.readW (a + 0x40)).toNat = 2 ^ 56 * 0xFF ∧ t.readW (a + 0x48) = 0))) ∧
    (∀ core u : Nat, s.badUnits.filter (fun x => isLm x && lmCore x == core) = [u] →
      exec (.lmSweep core) s = becomes (({ s with
        badUnits := s.badUnits.filter (fun x => !(isLm x && lmCore x == core)), poisoned := u :: s.poisoned } : State).report (dieOf core)
          { kind := 9, cause := 27, va := BitVec.ofNat 64 (u - lmFlat core 0), ctx := s.ctxOf core, core := core }).wake) ∧
    (∀ core : Nat, s.badUnits.filter (fun x => isLm x && lmCore x == core) = [] → s.badUnits.all (fun x => !(isLm x && lmCore x == core)) = true →
      exec (.lmSweep core) s = becomes s.wake) ∧
    (∀ (die : BitVec 3) (i : BitVec 8),
      let cl := dieCluster die.toNat i.toNat
      let due : Prop := ∃ n, s.time.toNat = s.scanns die.toNat * (256 * n + i.toNat)
      (s.feature2.getLsbD 7 = false ∨ (s.scans.lookup cl).isSome = true → exec (.scanStart die i) s = .next s) ∧
      (0 < s.scanns die.toNat → ¬ due → exec (.scanStart die i) s = .next s) ∧
      (0 < s.scanns die.toNat → due → s.feature2.getLsbD 7 = true → s.scans.lookup cl = none →
        (∀ c ∈ clusterCores cl, (s.core c).st ≠ .restoring) →
        ∃ t : State, exec (.scanStart die i) s = becomes t.wake ∧ ∃ sc, t.scans.lookup cl = some sc ∧ sc.begun = s.time.toNat ∧
          ∀ c ∈ clusterCores cl, ∀ ctx, (s.core c).ctx = some ctx → (s.core c).st = .active →
            (t.core c).st = .saving ∧ (c, ctx) ∈ sc.saved) ∧
      (s.scans.lookup cl = none → ∀ bad, exec (.scanEnd die i bad) s = .next s) ∧
      (∀ sc bad, s.scans.lookup cl = some sc →
        ((∃ c ∈ clusterCores cl, (s.core c).ctx ≠ none) → exec (.scanEnd die i bad) s = .next s) ∧
        (s.time.toNat ≤ sc.begun → exec (.scanEnd die i bad) s = .next s) ∧
        (sc.begun < s.time.toNat → (∀ c ∈ clusterCores cl, (s.core c).ctx = none) → s.plans = [] → sc.saved = [] → s.kernels = [] →
          (bad = 0 → (∀ c ∈ clusterCores cl, (s.core c).fenced = false ∧ (s.core c).asked = []) →
            let u : State := State.refreshHealth
              (State.setCtl { s with scans := AMap.del s.scans cl } (clusterBlock cl + 0x10) (BitVec.ofNat 64 sc.begun)) cl
            ∃ t : State, exec (.scanEnd die i bad) s = becomes t.wake ∧ (∀ c, t.core c = u.core c) ∧ { t with cores := u.cores } = u) ∧
          (bad ≠ 0 → ∃ t : State, exec (.scanEnd die i bad) s = becomes t.wake ∧
            ∀ k, k < 16 → bad.getLsbD k = true → (t.core (clusterCore cl k)).fenced = true ∧
              (t.ctl (clusterBlock cl + 0x18)).getLsbD (if k < 8 then 56 + k else 40 + k) = true)) ∧
        (sc.begun < s.time.toNat → (∀ c ∈ clusterCores cl, (s.core c).ctx = none ∧ (s.core c).asked = []) → s.plans = [] → sc.saved = [] →
          let ended : State := (List.range 16).foldl (fun acc k =>
            let core := clusterCore cl k
            if bad.getLsbD k then acc.fenceCore cl k
            else if (acc.core core).fenced then acc
            else (acc.kernels.map (·.1)).foldl (fun x n => x.passKernel core sc.begun n) acc) { s with scans := AMap.del s.scans cl }
          ∃ t : State, exec (.scanEnd die i bad) s = becomes t.wake ∧ t.kernels = ended.kernels ∧ ∀ c, (t.core c).fenced = (ended.core c).fenced))) ∧
    (∀ (key : Nat) (l : CoreCtx), (s.core (key / 2 ^ 16)).fenced = true → (s.resave key l).mem = s.mem) ∧
    (∀ core begun k : Nat,
      let kr := s.kernel k
      (kr.state = .retired → kr.retiredAt.toNat < begun → (∀ c ∈ kr.unscanned, c = core) →
        ((s.passKernel core begun k).kernel k).state = .confirmed) ∧
      (kr.state = .retired → (begun ≤ kr.retiredAt.toNat ∨ ∃ c ∈ kr.unscanned, c ≠ core) →
        ((s.passKernel core begun k).kernel k).state = .retired) ∧
      (∀ c, kr.state = .retired → c ≠ core → (c ∈ ((s.passKernel core begun k).kernel k).unscanned ↔ c ∈ kr.unscanned))) ∧
    (∀ cl k n : Nat, k < 16 →
      let core := clusterCore cl k
      let kr := s.kernel n
      (((s.fenceCore cl k).core core).fenced = true) ∧
      (let bit_ := if k < 8 then 56 + k else 40 + k;
       ((s.fenceCore cl k).ctl (clusterBlock cl + 0x18)).getLsbD bit_ = true ∧
        ∀ j, j < 64 → j ≠ bit_ → ((s.fenceCore cl k).ctl (clusterBlock cl + 0x18)).getLsbD j = (s.ctl (clusterBlock cl + 0x18)).getLsbD j) ∧
      (s.kernels = [] → s.fenceCore cl k = State.report ((s.setCore core { s.core core with fenced := true }).setCtl (clusterBlock cl + 0x18)
        ((s.fenceCore cl k).ctl (clusterBlock cl + 0x18))) (dieOf core) { kind := 10, core := core }) ∧
      (s.kernels = [(n, kr)] → core ∉ kr.sinceScan → ((s.fenceCore cl k).kernel n).state = kr.state) ∧
      (s.kernels = [(n, kr)] → core ∈ kr.sinceScan → kr.state = .pending ∨ kr.state = .running ∨ kr.state = .draining ∨ kr.state = .retired → kr.die ≠ dieOf core → s.ringReady kr.die = true →
        ((s.fenceCore cl k).kernel n).state = .faulted)) ∧
    (∀ (die : BitVec 3) (cc : BitVec 2),
      (∀ key, (s.link key).state ≠ .failed → exec (.machineCheck die (.link key) cc) s = .next s) ∧
      (∀ key, s.ringReady (dieOf (meshEnds key).1) = false → exec (.machineCheck die (.link key) cc) s = .next s) ∧
      (∀ key, (s.link key).state = .failed → s.ringReady (dieOf (meshEnds key).1) = true → s.kernels.all (fun e => !(s.inWindow e.2 && s.concerned (.link key) e.1 e.2)) = true →
        exec (.machineCheck die (.link key) cc) s = becomes s.wake) ∧
      (∀ core n kr, s.kernels = [(n, kr)] →
        (s.ringReady die.toNat = false → exec (.machineCheck die (.core core) cc) s = .next s) ∧
        (s.ringReady die.toNat = true → s.inWindow kr = true → core ∈ kr.sinceScan →
          exec (.machineCheck die (.core core) cc) s = becomes ((s.kernelFaulted n cc.toNat).report die.toNat { kind := 11 }).wake) ∧
        (s.ringReady die.toNat = true → s.inWindow kr = false ∨ core ∉ kr.sinceScan →
          exec (.machineCheck die (.core core) cc) s = becomes (s.report die.toNat { kind := 11 }).wake)) ∧
      (∀ kr : Kernel, s.inWindow kr = true ↔
        (kr.state = .pending ∨ kr.state = .running ∨ kr.state = .draining) ∧ s.qDone kr.qdesc ≤ kr.kseq))

/-- A request for dividers and voltage: refused, begun, replaced, and carried out step by step; hops and droops. VREQ outside 550 to 850 or not a multiple of 10 is refused and reported; one below the least voltage of a divider asked for sets ERR and leaves the pending request. Otherwise, with no ramp, the request becomes the pending one, each core asked to slow down switches at once, the first step ends 1,000 ns later, and RAMP is 1; a request that finds its voltage and dividers in force leaves RAMP 0. With a ramp it replaces the pending request at the end of the present step, where that one takes force from its first step on. A step end moves VNOW 10 mV toward the request; before it nothing happens. A divider in force stays at one the voltage allows (that it switches at once where VNOW stands at VREQ is log entry 21). A hop ends for its core. A droop adds 1 to DROOPS, saturating, and ends 64 ns after it last fired (log entry 82). -/
def Obligations.ClockAndVoltage : Prop :=
  ∀ (cl : Nat) (s : State), isCluster cl = true →
    let p := s.powerOf cl
    let blk := clusterBlock cl
    let asked := s.ctl (blk + 0x20)
    let div := fun (w : Word) (k : Nat) => w.toNat / 2 ^ (4 * k) % 16 + 1
    let before : Prop := ∀ e, p.stepEnd = some e → s.time.toNat < e
    let least := fun d : Nat => if d = 1 then 850 else if d = 2 then 650 else if d = 3 then 590 else 550
    (∀ v : Word,
      let fits : Prop := 550 ≤ v.toNat ∧ v.toNat ≤ 850 ∧ v.toNat % 10 = 0
      let allowed : Prop := ∀ k, k < 16 → least (div asked k) ≤ v.toNat
      (¬ fits → exec (.vreqCommit cl v) s =
        becomes (s.report (dieOf (clusterCore cl 0)) { kind := 13, va := BitVec.ofNat 64 (blk + 0x28) }).wake) ∧
      (fits → ¬ allowed → before → ∃ t : State, exec (.vreqCommit cl v) s = becomes t.wake ∧ (t.ctl (blk + 0x38)).getLsbD 17 = true ∧
        t.powerOf cl = p ∧ t.vnow cl = s.vnow cl ∧ t.divNow cl = s.divNow cl) ∧
      (fits → allowed → p.stepEnd = none → s.vnow cl ≠ v.toNat →
        ∃ t : State, exec (.vreqCommit cl v) s = becomes t.wake ∧ (t.powerOf cl).divs = asked ∧ (t.powerOf cl).volts = v.toNat ∧
          (t.powerOf cl).stepEnd = some (s.time.toNat + 1000) ∧ (t.ctl (blk + 0x38)).getLsbD 16 = true ∧ t.vnow cl = s.vnow cl ∧
          ∀ k, k < 16 → div (t.divNow cl) k = max (div (s.divNow cl) k) (div asked k)) ∧
      (fits → allowed → p.stepEnd = none → s.vnow cl = v.toNat →
        ∃ t : State, exec (.vreqCommit cl v) s = becomes t.wake ∧ (t.powerOf cl).stepEnd = none ∧ (t.ctl (blk + 0x38)).getLsbD 16 = false ∧
          ∀ k, k < 16 → div (t.divNow cl) k = div asked k) ∧
      (fits → (¬ before) → 550 ≤ s.vnow cl → s.vnow cl ≤ 850 → ∃ t : State, exec (.vreqCommit cl v) s = becomes t.wake ∧
        t.vnow cl = (if s.vnow cl < p.volts then s.vnow cl + 10 else if p.volts < s.vnow cl then s.vnow cl - 10 else s.vnow cl)) ∧
      (fits → allowed → p.stepEnd ≠ none → before →
        ∃ t : State, exec (.vreqCommit cl v) s = becomes t.wake ∧ t.powerOf cl = { p with next := some (asked, v.toNat) } ∧
          t.divNow cl = s.divNow cl ∧ t.vnow cl = s.vnow cl)) ∧
    (p.stepEnd = none → exec (.voltageStepEnd cl) s = becomes s.wake) ∧
    (∀ e, p.stepEnd = some e → s.time.toNat < e → exec (.voltageStepEnd cl) s = becomes s.wake) ∧
    (∀ e, p.stepEnd = some e → e ≤ s.time.toNat → 550 ≤ s.vnow cl → s.vnow cl ≤ 850 → 550 ≤ p.volts → p.volts ≤ 850 → p.next = none →
      ∃ t : State, exec (.voltageStepEnd cl) s = becomes t.wake ∧
        t.vnow cl = (if s.vnow cl < p.volts then s.vnow cl + 10 else if p.volts < s.vnow cl then s.vnow cl - 10 else s.vnow cl) ∧
        (∀ k, k < 16 → div (t.divNow cl) k = (if div p.divs k < div (s.divNow cl) k ∧ least (div p.divs k) ≤ t.vnow cl then div p.divs k
          else div (s.divNow cl) k)) ∧
        (t.vnow cl ≠ p.volts → (t.powerOf cl).stepEnd = some (e + 1000) ∧ (t.ctl (blk + 0x38)).getLsbD 16 = true)) ∧
    (∀ e divs volts, p.stepEnd = some e → e ≤ s.time.toNat → 550 ≤ s.vnow cl → s.vnow cl ≤ 850 → p.next = some (divs, volts) →
      (∀ k, k < 16 → least (div divs k) ≤ volts) →
      ∃ t : State, exec (.voltageStepEnd cl) s = becomes t.wake ∧ (t.powerOf cl).divs = divs ∧ (t.powerOf cl).volts = volts ∧ (t.powerOf cl).next = none ∧
        t.vnow cl = (if s.vnow cl < p.volts then s.vnow cl + 10 else if p.volts < s.vnow cl then s.vnow cl - 10 else s.vnow cl) ∧
        (t.vnow cl ≠ volts → (t.powerOf cl).stepEnd = some (e + 1000) ∧ (t.ctl (blk + 0x38)).getLsbD 16 = true ∧
          ∀ k, k < 16 → div (t.divNow cl) k = max (div (s.divNow cl) k) (div divs k)) ∧
        (t.vnow cl = volts → (t.powerOf cl).stepEnd = none ∧ ∀ k, k < 16 → div (t.divNow cl) k = div divs k)) ∧
    (let legal := fun x : State =>
        let q := x.powerOf cl
        let good := fun (w : Word) (u : Nat) => 550 ≤ u ∧ u ≤ 850 ∧ u % 10 = 0 ∧ ∀ k, k < 16 → least (div w k) ≤ u
        good (x.divNow cl) (x.vnow cl) ∧ (q.stepEnd ≠ none → good q.divs q.volts ∧ (∀ k, k < 16 → div q.divs k ≤ div (x.divNow cl) k) ∧
          ∀ divs volts, q.next = some (divs, volts) → good divs volts);
      legal s → (∃ t : State, exec (.voltageStepEnd cl) s = becomes t.wake ∧ legal t) ∧
        ∀ v : Word, ∃ t : State, exec (.vreqCommit cl v) s = becomes t.wake ∧ legal t) ∧
    (∀ core : Nat, isCore core = true → ∃ t : State, exec (.clockHopEnd core) s = becomes t.wake ∧
      (t.powerOf (clusterOf core)).hops = (s.powerOf (clusterOf core)).hops.erase core ∧ t.divNow cl = s.divNow cl) ∧
    (∃ t : State, exec (.droopDetect cl) s = becomes t ∧ (t.powerOf cl).droop = some s.time ∧
      (t.ctl (blk + 0x38)).toNat / 2 ^ 32 % 2 ^ 16 = min ((s.ctl (blk + 0x38)).toNat / 2 ^ 32 % 2 ^ 16 + 1) 0xFFFF ∧ t.vnow cl = s.vnow cl) ∧
    (∀ since, p.droop = some since → since.toNat + 64 ≤ s.time.toNat → ∃ t : State, exec (.droopClear cl) s = becomes t.wake ∧
      (t.powerOf cl).droop = none ∧ t.mmio = s.mmio) ∧
    (∀ since, p.droop = some since → s.time.toNat < since.toNat + 64 → exec (.droopClear cl) s = becomes s.wake) ∧
    (p.droop = none → exec (.droopClear cl) s = becomes s.wake)

/-- Boot, partition images, attestation, FEATREQ, writes of control registers, and the passing of a nanosecond. A Roloskar image whose two signatures, each over the SHA-384 of bytes 0x000 to 0x037, and digest verify and whose version is at least the fused one boots the module with the rows of its partition table (log entry 41: the table's layout is not given), once; any other leaves it in recovery. A partition image that passes starts its partition; one that fails leaves it down, reported with KIND 14. Attestation of a started partition adds a report with both images' digests and versions, FEATURE1, FEATURE2 and the nonce, signed with both algorithms. FEATREQ is taken only while no context is RUNNING, into FEATURE2. A control register holds what is written within its range; a write out of range, with a reserved bit, or to no register is refused and reported; the host reaches only what BAR0's windows show. A nanosecond passes once nothing is left to happen at the present instant, a plan entry that is due, a slice boundary, a port's next training, the loss of lock, a module's failure among it: it adds 1 to TIME, and to VTIME and 15 eu where a context is ACTIVE (when it may pass is the model's choice, log entries 9 and 12). -/
def Obligations.BootAndRegisters : Prop :=
  ∀ (s : State),
    (∀ (image : List Byte),
      let length := natOfBytes (image.take 4)
      let body := (image.drop 16664).take length
      let signed : List Byte := sha384 (image.take 0x38)
      let good := fun kind : Nat => Config.rsaVerifies signed ((image.drop 0x38).take 384) = true ∧
        Config.slhVerifies signed ((image.drop 0x1B8).take 16224) = true ∧ 16664 ≤ image.length ∧ body.length = length ∧
        (image.drop 8).take 48 = sha384 body ∧ Config.minVersion kind ≤ natOfBytes ((image.drop 4).take 4)
      let kept : Image := { version := BitVec.ofNat 32 (natOfBytes ((image.drop 4).take 4))
                            digest := BitVec.ofNat 384 (natOfBytes ((image.drop 8).take 48)) }
      (∀ table, s.booted = false → s.recovery = false →
        (¬ good 0 → exec (.moduleResetBoot image table) s = becomes { s with recovery := true }) ∧
        (good 0 → ∃ t : State, exec (.moduleResetBoot image table) s = becomes t ∧ t.booted = true ∧ t.recovery = false ∧
          AMap.get ⟨0, 0⟩ t.images 16 = kept ∧
          (∀ r, table = [r] → t.part r.part.toNat = r) ∧ (table = [] → t.parts = s.parts))) ∧
      (∀ table, s.booted = true ∨ s.recovery = true → exec (.moduleResetBoot image table) s = .next s) ∧
      (∀ part : BitVec 4,
        (s.booted = false ∨ part.toNat ∈ s.partsUp → exec (.partitionImageVerify part image) s = .next s) ∧
        (s.booted = true → part.toNat ∉ s.partsUp →
          (good 1 → ∃ t : State, exec (.partitionImageVerify part image) s = becomes t ∧ part.toNat ∈ t.partsUp ∧
            AMap.get ⟨0, 0⟩ t.images part.toNat = kept) ∧
          (¬ good 1 → exec (.partitionImageVerify part image) s = becomes (s.report (s.partDie part.toNat) { kind := 14 }).wake)))) ∧
    (∀ (part : BitVec 4) (nonce : List Byte),
      (s.booted = false ∨ part.toNat ∉ s.partsUp ∨ nonce.length ≠ 32 → exec (.attestationRequest part nonce) s = .next s) ∧
      (s.booted = true → part.toNat ∈ s.partsUp → nonce.length = 32 → ∃ (t : State) (a : Attest),
        exec (.attestationRequest part nonce) s = becomes t ∧ t.attests = s.attests ++ [a] ∧ a.roloskar = AMap.get ⟨0, 0⟩ s.images 16 ∧
        a.partition = AMap.get ⟨0, 0⟩ s.images part.toNat ∧ a.feature1 = 0xFF ∧ a.feature2 = s.feature2 ∧ a.nonce = nonce ∧
        ∃ content, a.rsa = Config.rsaSign content ∧ a.slh = Config.slhSign content)) ∧
    (∀ (die : BitVec 3) (host : Bool) (v : Word),
      let running : Prop := ∃ e ∈ s.contexts, e.2.alive = true ∧ ∃ c ∈ e.2.cores, c.2 ≠ .away
      let seen : Prop := host = false ∨ s.hostSees (moduleBlock + 0x10) = true
      (¬ seen → exec (.featreqWrite die host v) s = becomes s.wake) ∧
      (seen → v.toNat < 2 ^ 8 → ¬ running → ∃ t : State, exec (.featreqWrite die host v) s = becomes t.wake ∧ t.feature2.toNat = v.toNat) ∧
      (seen → 2 ^ 8 ≤ v.toNat ∨ running → exec (.featreqWrite die host v) s = becomes
        (s.report (if host then 0 else die.toNat) { kind := 13, va := BitVec.ofNat 64 (moduleBlock + 0x10) }).wake)) ∧
    (∀ (die : BitVec 3) (host : Bool) (pa v : Word),
      let seen : Prop := host = false ∨ s.hostSees pa.toNat = true
      let at_ := fun o : Nat => seen ∧ pa.toNat = dieBlock die.toNat + o
      let refused := becomes (s.report (if host then 0 else die.toNat) { kind := 13, va := pa }).wake
      let stands : Prop := ∃ t : State, exec (.mmioRegisterWrite die host pa v) s = becomes t.wake ∧ t.ctl pa.toNat = v ∧
        ∀ a, a ≠ pa.toNat → t.ctl a = s.ctl a
      (¬ seen → exec (.mmioRegisterWrite die host pa v) s = if pa.toNat < mmioBase ∨ pa.toNat % 8 ≠ 0 then .next s else becomes s.wake) ∧
      (at_ 0x08 → (1 ≤ v.toNat ∧ v.toNat ≤ 100 → stands) ∧
        (v.toNat = 0 ∨ 100 < v.toNat → exec (.mmioRegisterWrite die host pa v) s = refused)) ∧
      (at_ 0x10 → (20000 ≤ v.toNat ∧ v.toNat ≤ 1000000 → stands) ∧
        (v.toNat < 20000 ∨ 1000000 < v.toNat → exec (.mmioRegisterWrite die host pa v) s = refused)) ∧
      (at_ 0x18 → (v.toNat ≤ 4095 → stands) ∧ (4095 < v.toNat → exec (.mmioRegisterWrite die host pa v) s = refused)) ∧
      (at_ 0x40 → stands) ∧
      (∀ k, k < 32 → at_ (0x1000 + 0x10 * k) → (v.toNat % 0x1000 = 0 → stands) ∧
        (v.toNat % 0x1000 ≠ 0 → exec (.mmioRegisterWrite die host pa v) s = refused)) ∧
      (∀ k, k < 32 → at_ (0x1008 + 0x10 * k) → (v.toNat % 0x1000000 = 0 → stands) ∧
        (v.toNat % 0x1000000 ≠ 0 → exec (.mmioRegisterWrite die host pa v) s = refused)) ∧
      (at_ 0x38 ∨ at_ 0x58 → exec (.mmioRegisterWrite die host pa v) s = becomes s.wake) ∧
      (at_ 0x60 → exec (.mmioRegisterWrite die host pa v) s = refused) ∧
      (at_ 0x200000 → (v.toNat / 2 ^ 48 ≠ 0 → exec (.mmioRegisterWrite die host pa v) s = refused) ∧
        (v.toNat / 2 ^ 48 = 0 → exec (.mmioRegisterWrite die host pa v) s = becomes s.wake)) ∧
      (at_ 0x200018 → s.mmioRead pa.toNat = s.ctl pa.toNat ∧
        (v.toNat / 2 ^ 16 % 2 ^ 32 ≠ 0 → exec (.mmioRegisterWrite die host pa v) s = refused) ∧
        (v.toNat / 2 ^ 16 % 2 ^ 32 = 0 → ∃ t : State, exec (.mmioRegisterWrite die host pa v) s = becomes t.wake ∧
          (t.ctl pa.toNat).toNat = (s.ctl pa.toNat).toNat / 2 ^ 16 * 2 ^ 16 + v.toNat % 2 ^ 16)) ∧
      (seen → pa.toNat = moduleBlock → (1000 ≤ v.toNat ∧ v.toNat ≤ 1000000000 → stands) ∧
        (v.toNat < 1000 ∨ 1000000000 < v.toNat → exec (.mmioRegisterWrite die host pa v) s = refused))) ∧
    (s.overdue ≠ none ∨ s.overduePod ≠ none → exec .timeNsAdvance s = .next s) ∧
    (∀ k l since, isPortKey k = true → s.links.lookup k = some l → l.state = .down → l.since = some since → since + 100000000 ≤ s.time.toNat →
      exec .timeNsAdvance s = .next s) ∧
    (s.lock = true → s.lastFlit.toNat + 100000 ≤ s.time.toNat → exec .timeNsAdvance s = .next s) ∧
    (∀ m e since, m < 2 ^ 16 → s.modules.lookup m = some e → e.state = .joining ∨ e.state = .up → e.downAt = some since →
      since + (s.ctl moduleBlock).toNat ≤ s.time.toNat → exec .timeNsAdvance s = .next s) ∧
    (∀ p ∈ s.plans, ∀ c ∈ rectCores (s.planRect p.die p.n), s.readW (s.planAddr p.die p.n) ≤ s.time → s.planDue p c = true →
      exec .timeNsAdvance s = .next s) ∧
    (∀ d : Nat, d < 8 → s.tslice.lookup d = none → (s.ctl (dieBlock d)).toNat ≠ 0 → s.time.toNat % (s.ctl (dieBlock d)).toNat = 0 →
      (AMap.get Patience.none_ s.patience d).seen ≠ some s.time.toNat → exec .timeNsAdvance s = .next s) ∧
    (s.overdue = none → s.overduePod = none → ∃ t : State, exec .timeNsAdvance s = becomes t.wake ∧ t.time = s.time + 1 ∧ t.mem = s.mem ∧
      ∀ c, (t.core c).st = (s.core c).st ∧
        ((s.core c).st = .active → (s.live c).energy.toNat + 15 < 2 ^ 48 →
          (t.live c).vtime = (s.live c).vtime + 1 ∧ (t.live c).energy.toNat = (s.live c).energy.toNat + 15) ∧
        ((s.core c).st ≠ .active → t.live c = s.live c))

/-- movi: the value of each form, the register it writes, and its trap. movi retires with 2 eu having written d with its immediate: the 12-bit field of the 32-bit form, the 16-bit field of the 64-bit form and the literal of the 96-bit form, each sign-extended to 64 bits, and the whole literal of the 128-bit form. It traps ILLOP where the strand does not hold d. -/
def Obligations.MoviWritesItsImmediate : Prop :=
  ∀ (f : Form) (d : Reg) (imm : Imm) (ws : List (BitVec 32)) (s : State), (Instr.movi f d imm).wf = true → encode (.movi f d imm) = some ws →
    let v : Word := if f.len = 0 then ((ws.getD 0 0).extractLsb' 20 12).signExtend 64 else if f.len = 1 then
      ((ws.getD 1 0).extractLsb' 0 16).signExtend 64 else if f.len = 2 then (ws.getD 2 0).signExtend 64 else ws.getD 3 0 ++ ws.getD 2 0
    (Able s f [.dst d] → exec (.movi f d imm) s = retires s f [.dst d] 2 (s.setReg s.cur d v)) ∧
    ((s.strand s.cur).guard f = true → (s.live s.cur.core).perr = [] → (s.strand s.cur).pendingReg d = false →
      (s.strand s.cur).holds d = false → exec (.movi f d imm) s = traps s f { code := .illop })

/-- sel takes one of two registers by a predicate and its sense, both read before it writes. sel retires with 2 eu having written d with the value a held before where the predicate differs from the sense bit, and with the value b held before otherwise, also where d is a or b. It traps ILLOP where the strand does not hold one of the three registers, and its encoding has no value that another instruction shares. -/
def Obligations.SelectByPredicate : Prop :=
  ∀ (f : Form) (p : Pred) (sense : Bool) (d a b : Reg) (s : State),
    (Able s f [.dst d, .src a, .src b, .preds] → exec (.sel f p sense d a b) s = retires s f [.dst d, .src a, .src b, .preds] 2
      (s.setReg s.cur d (if ((s.strand s.cur).pred p ^^ sense) = true then s.reg s.cur a else s.reg s.cur b))) ∧
    ((s.strand s.cur).guard f = true → (s.live s.cur.core).perr = [] → (∀ r ∈ [d, a, b], (s.strand s.cur).pendingReg r = false) →
      (∃ r ∈ [d, a, b], (s.strand s.cur).holds r = false) → exec (.sel f p sense d a b) s = traps s f { code := .illop }) ∧
    (∀ (j : Instr) (ws : List (BitVec 32)), (Instr.sel f p sense d a b).wf = true → encode (.sel f p sense d a b) = some ws → j.wf = true →
      encode j = some ws → j = .sel f p sense d a b)

/-- The module right after reset, at the values the spec gives, in the form every step keeps. At reset memory is in its form and lists nothing (log entry 3 is the model's choice of what RAM then reads as), FEATURE2 is 0, every mesh and seam link is DOWN and each port DOWN or ABSENT, every module of the table is UNKNOWN, no link has counted anything, no fault ring has a base, a capacity or an entry, TSLICE is 50,000, HEAVYPCT 50, SCANNS 31,250, STAGNS 0, MFAILNS 10 ms, no route is in use, each watchpoint has LOGSZ 2 and no kind, each cluster has its dividers at 1, VREQ and VNOW 850 and no droop; no core holds a context, no strand runs, and no image has started. -/
def Obligations.ResetLeaves : Prop :=
  let s := State.reset
  Inv s ∧ s.mem = [] ∧ s.feature2 = 0 ∧ (∀ k, isMeshKey k = true → (s.link k).state = .down) ∧
    (∀ k, (s.link k).trains = 0 ∧ (s.link k).retry = 0 ∧ (s.link k).crcerr = 0 ∧ (s.link k).fecOk = 0 ∧ (s.link k).fecBad = 0) ∧
    (∀ p, p < 32 → (s.link (portKey p)).state = (if Config.portFitted p then .down else .absent)) ∧
    (∀ m, (s.modEnt m).state = .unknown ∧ s.route m = none) ∧
    (∀ d, d < 8 → s.ringBase d = 0 ∧ s.ringCap d = 0 ∧ s.ringHead d = 0 ∧ s.ringTail d = 0 ∧ s.ctl (dieBlock d) = 50000 ∧
      s.ctl (dieBlock d + 8) = 50 ∧ s.scanns d = 31250 ∧ s.ctl (dieBlock d + 0x18) = 0) ∧
    s.mfailns = 10000000 ∧
    (∀ c i, isCore c = true → i < 2 → s.ctl (watchAddr c i) = 0 ∧ s.ctl (watchAddr c i + 8) = 2) ∧
    (∀ cl, isCluster cl = true → s.ctl (clusterBlock cl + 0x20) = 0 ∧ s.ctl (clusterBlock cl + 0x28) = 850 ∧ s.divNow cl = 0 ∧
      s.ctl (clusterBlock cl + 0x38) = 850 ∧ (s.powerOf cl).droop = none) ∧
    (∀ c n, (s.core c).ctx = none ∧ (s.core c).st = .away ∧ (s.strand ⟨c, n⟩).run = .notStarted) ∧
    s.booted = false ∧ s.recovery = false ∧ s.partsUp = []

/-- Words the spec writes out decode to the instructions it says they are, and its illegal ones do not. The five worked encodings of R51, nop and the two fill patterns of R50, the illegal neighbours of R51, and a word of each of several families as its rule writes it. -/
def Obligations.WordsOfTheSpecDecode : Prop :=
  decodeTableWord 32 0x04510300 = some (.iAdd ⟨0, 0, false⟩ .i64 3 4 (.reg 5)) ∧
  decodeTableWord 64 0x5100FFFB00010305 = some (.addImm ⟨1, 2, true⟩ .i32 3 4 (-5)) ∧
  decodeTableWord 128 0x123456789ABCDEF00000000000000727 = some (.movi ⟨3, 0, false⟩ 7 0x123456789ABCDEF0) ∧
  decodeTableWord 64 0x09000000001002C1 = some (.tadd ⟨1, 0, false⟩ .bf16 false 2 0 1) ∧
  decodeTableWord 32 0x00041850 = some (.br 3 false 16) ∧
  decodeTableWord 32 0x00000060 = some (.nop ⟨0, 0, false⟩) ∧ decodeTableWord 64 0x61 = some (.nop ⟨1, 0, false⟩) ∧
  decodeTableWord 32 0 = none ∧ decodeTableWord 128 (2 ^ 128 - 1) = none ∧ decodeTableWord 32 0xC0 = none ∧
  decodeTableWord 64 0x1000000000000061 = none ∧ decodeTableWord 96 0x04510302 = none ∧
  decodeTableWord 32 0x0C0240F8 = some (.krel ⟨0, 0, false⟩ 9) ∧
  decodeTableWord 32 0x2402CCF8 = some (.barr ⟨0, 0, false⟩ 12 11 0) ∧
  decodeTableWord 32 0x041250A4 = some (.mrecv ⟨0, 0, false⟩ true 16 9) ∧
  decodeTableWord 32 0x0C7185FC = some (.tlbinv ⟨0, 0, false⟩ 5 6 7)

/-- A step runs the instruction that the bytes at the PC decode to, or the next happening of the agenda. With no happening to come, a step takes the first strand of the current core that may issue: where its instruction is fetched whole and no fetch watchpoint matches, the step is exec of the decoded instruction in the state the fetch leaves, and a trap of ILLOP where the words decode to nothing; before it the core's Tumbler takes its cycle. The first word is the four bytes of HBM, as the strand sees them, at the place its address translates to; a translation that fails traps, and one that needs links which do not carry it waits. With nothing to run or due, what is to happen at this instant does, what its time makes happen on the links of the pod after it, and then a nanosecond passes (this schedule of an empty agenda is log entry 9). With a happening to come, the step is that happening: an issue on a core likewise, a step of the table as exec of it; a reset leaves the reset state, but for the fields that log entries 2 and 42 name. The NEXTPC of a failed fetch and of words that decode to nothing is log entries 14 and 23. -/
def Obligations.StepRunsDecoded : Prop :=
  ∀ (s : State) (core n : Nat) (more : List Nat), s.candidates core = n :: more →
    let w : Who := ⟨core, n⟩
    let s0 : State := { s.tumble core with cur := w }
    let pc := (s0.strand w).pc
    let runs := fun o : Host.Outcome State Fault Refusal =>
      (∀ ws s1, s0.fetchInstr w pc = .words ws s1 → s1.watched w pc 4 59 = false →
        (∀ i rest, decode (ws.flatMap bytesOfWord) = some (i, rest) → o = exec i s1) ∧
        (decode (ws.flatMap bytesOfWord) = none → o = exec .unassignedEncoding s1)) ∧
      (∀ ws s1, s0.fetchInstr w pc = .words ws s1 → s1.watched w pc 4 59 = true →
        o = s1.trapNow w (Trap.watch pc 3) pc (pc + BitVec.ofNat 64 (4 * ws.length))) ∧
      (∀ t, s0.fetchInstr w pc = .trap t → o = s0.trapNow w t pc (pc + BitVec.ofNat 64 (s0.lenAt w pc))) ∧
      (s0.fetchInstr w pc = .wait → o = .next (s0.heldOff w .operand))
    (s.agenda = [] → core = s.cur.core → runs (step s)) ∧
    (∀ s1 : State, s1.agenda = .issue core :: s.agenda → { s1 with agenda := s.agenda } = s → runs (step s1)) ∧
    (∀ (s1 : State) (i : Instr) (rest : List Turn), s1.agenda = .event i :: rest → encode i = none → i ≠ .unassignedEncoding →
      step s1 = exec i { s1 with agenda := rest }) ∧
    (∀ (s1 : State) (rest : List Turn), s1.agenda = .reset :: rest → step s1 = .next
      { State.reset with module_ := s1.module_, agenda := rest, nextId := s1.nextId, freeCtr := s1.freeCtr }) ∧
    (∀ x v sync, s0.translate w pc .fetch .all = .ok x → s0.place w x.tgt = some (.hbm v sync) → inHbm v 4 = true → s0.eccCause (clusterOf core) v 4 true = none →
      (s0.strand w).icache = [] → (s0.fetchCut w (.hbm v sync) = true → s0.fetchInstr w pc = .wait) ∧ (s0.fetchCut w (.hbm v sync) = false → ∃ s1, s0.fetchWord w pc = .word
        (BitVec.ofNat 32 (natOfBytes ((List.range 4).map (fun k => s0.peekByte (clusterOf core) (v + k))))) s1 ∧ s1.mem = s0.mem)) ∧
    (∀ t, s0.translate w pc .fetch .all = .error t → s0.fetchInstr w pc = .trap t) ∧
    (∀ s1 : State, s1.agenda = [] → s1.candidates s1.cur.core = [] → s1.due s1.cur.core = none →
      (∀ i, s1.overdue = some i → step s1 = exec i { s1 with freeCtr := s1.freeCtr + 1 }) ∧
      (∀ d, s1.overdue = none → s1.overduePod = some d →
        let s2 : State := { s1 with freeCtr := s1.freeCtr + 1 }
        step s1 = match d with
          | .train port => exec (.portTrainRetry port) s2
          | .unlock => exec .timeFlitTimeout s2
          | .fail m cc => exec (.moduleFailTimeout m cc) s2) ∧
      (s1.overdue = none → s1.overduePod = none → step s1 = exec .timeNsAdvance s1))

/-- Decoding and encoding agree: on every well-formed instruction, and on every sequence of bytes that decodes. For every well-formed instruction that has an encoding, with every operand at every value the encoding admits, and whatever bytes follow: decoding the bytes of its words gives the instruction and those bytes. Whatever decodes is well-formed, and the bytes it was read from are the bytes of its words. So no bit of an encoding is dropped, and no other bytes stand for it. -/
def Obligations.DecodeUndoesEncode : Prop :=
  (∀ (i : Instr) (ws : List (BitVec 32)) (rest : List Byte), i.wf = true → encode i = some ws →
    decode (ws.flatMap bytesOfWord ++ rest) = some (i, rest)) ∧
  (∀ (bs rest : List Byte) (i : Instr), decode bs = some (i, rest) →
    i.wf = true ∧ ∃ ws, encode i = some ws ∧ bs = ws.flatMap bytesOfWord ++ rest)

/-- Every step keeps memory in its form: rising addresses, and no entry that an unlisted address reads as. For every state whose memory is in its canonical form, whatever else it holds and whatever is to come: the state after a step has its memory in that form. So equal memories are equal lists, whatever ran. -/
def Obligations.StepKeepsInv : Prop :=
  ∀ s t : State, Inv s → step s = .next t → Inv t
end

