-- ==== Sys2Proof/Laws/Memory.lean ====
section
/-!
SUPPORT. Laws of finite maps and of memory: a read after a write, and the canonical form that every memory operation keeps.
-/
namespace Sys2Proof.Machine

/-! ## Finite maps -/

theorem AMap.lookup_ins {β : Type} (m : AMap β) (k : Nat) (v : β) (hk : ∀ e ∈ m, e.1 ≠ k) (j : Nat) :
    (AMap.ins m k v).lookup j = if j = k then some v else m.lookup j := by
  induction m with
  | nil =>
    unfold AMap.ins
    rw [List.lookup_cons]
    by_cases h : j = k
    · subst h; simp
    · rw [beq_false_of_ne h, if_neg h]
  | cons e t ih =>
    have he : e.1 ≠ k := hk e (List.mem_cons_self ..)
    have ht := ih (fun x hx => hk x (List.mem_cons_of_mem _ hx))
    obtain ⟨a, b⟩ := e
    have he : a ≠ k := he
    unfold AMap.ins
    by_cases h : a < k
    · rw [if_pos h]
      simp only [List.lookup_cons, ht]
      by_cases ja : j = a
      · subst ja; simp [he]
      · simp [beq_false_of_ne ja]
    · rw [if_neg h]
      by_cases jk : j = k
      · subst jk; simp
      · simp [List.lookup_cons, beq_false_of_ne jk, jk]

theorem AMap.lookup_del {β : Type} (m : AMap β) (k j : Nat) :
    (AMap.del m k).lookup j = if j = k then none else m.lookup j := by
  unfold AMap.del
  induction m with
  | nil => simp [List.lookup]
  | cons e t ih =>
    obtain ⟨a, b⟩ := e
    by_cases ha : a = k
    · subst ha
      rw [List.filter_cons_of_neg (by simp), ih]
      by_cases ja : j = a
      · simp [ja]
      · simp [List.lookup_cons, beq_false_of_ne ja, ja]
    · rw [List.filter_cons_of_pos (by simpa using ha), List.lookup_cons, List.lookup_cons, ih]
      by_cases ja : j = a
      · subst ja; simp [ha]
      · simp [beq_false_of_ne ja]

theorem AMap.lookup_put {β : Type} (m : AMap β) (k : Nat) (v : β) (j : Nat) :
    (AMap.put m k v).lookup j = if j = k then some v else m.lookup j := by
  unfold AMap.put
  rw [AMap.lookup_ins _ _ _ (by intro e he; simpa using (List.mem_filter.mp he).2)]
  split
  · rfl
  · rename_i h
    have := AMap.lookup_del m k j
    unfold AMap.del at this
    rw [this, if_neg h]

/-- A map read after a write. -/
theorem AMap.get_put {β : Type} (d : β) (m : AMap β) (k : Nat) (v : β) (j : Nat) :
    AMap.get d (AMap.put m k v) j = if j = k then v else AMap.get d m j := by
  unfold AMap.get; rw [AMap.lookup_put]; split <;> rfl
@[simp] theorem AMap.get_put_same {β : Type} (d : β) (m : AMap β) (k : Nat) (v : β) : AMap.get d (AMap.put m k v) k = v := by
  rw [AMap.get_put, if_pos rfl]
theorem AMap.get_put_other {β : Type} (d : β) (m : AMap β) (k : Nat) (v : β) {j : Nat} (h : j ≠ k) :
    AMap.get d (AMap.put m k v) j = AMap.get d m j := by
  rw [AMap.get_put, if_neg h]
theorem AMap.get_del {β : Type} (d : β) (m : AMap β) (k j : Nat) :
    AMap.get d (AMap.del m k) j = if j = k then d else AMap.get d m j := by
  unfold AMap.get; rw [AMap.lookup_del]; split <;> rfl

theorem AMap.lookup_mapVals {β : Type} (m : AMap β) (f : Nat → β → β) (j : Nat) :
    (AMap.mapVals m f).lookup j = (m.lookup j).map (f j) := by
  unfold AMap.mapVals
  induction m with
  | nil => rfl
  | cons e t ih =>
    obtain ⟨a, b⟩ := e
    simp only [List.map_cons, List.lookup_cons, ih]
    by_cases h : j = a
    · subst h; simp
    · simp [beq_false_of_ne h]

/-! ## One byte of memory -/

theorem memByte_memPut (m : List Host.Cell) (a : Nat) (b : Byte) (x : Nat) :
    memByte (memPut m a b) x = if x = a then b else memByte m x := by
  have hf : ∀ x, (m.filter (fun c => !(c.1 == a))).lookup x = if x = a then none else m.lookup x := AMap.lookup_del m a
  have hi : ∀ (m : List Host.Cell), (∀ e ∈ m, e.1 ≠ a) → ∀ x, (memIns m a b).lookup x = if x = a then some b else m.lookup x := by
    intro m hm x
    have e : ∀ m : List Host.Cell, memIns m a b = AMap.ins m a b := by
      intro m; induction m with
      | nil => rfl
      | cons c t ih => simp only [memIns, AMap.ins, ih]
    rw [e]; exact AMap.lookup_ins m a b hm x
  unfold memPut memByte
  by_cases hb : b = Config.unlistedByte
  · simp only [hb, if_true, hf]
    by_cases hx : x = a <;> simp [hx]
  · simp only [hb, if_false]
    rw [hi _ (by intro e he; simpa using (List.mem_filter.mp he).2), hf]
    by_cases hx : x = a <;> simp [hx]

@[simp] theorem memByte_memPut_same (m : List Host.Cell) (a : Nat) (b : Byte) : memByte (memPut m a b) a = b := by
  rw [memByte_memPut, if_pos rfl]
theorem memByte_memPut_other (m : List Host.Cell) {a x : Nat} (b : Byte) (h : x ≠ a) :
    memByte (memPut m a b) x = memByte m x := by
  rw [memByte_memPut, if_neg h]

/-- A write of n bytes changes those n bytes and no other. -/
theorem memByte_memWrite (m : List Host.Cell) (a n v x : Nat) :
    memByte (memWrite m a n v) x =
      if a ≤ x ∧ x < a + n then BitVec.ofNat 8 (v / 256 ^ (x - a)) else memByte m x := by
  induction n generalizing m a v with
  | zero =>
    have : ¬(a ≤ x ∧ x < a + 0) := by omega
    rw [if_neg this]; rfl
  | succ n ih =>
    rw [memWrite, ih, memByte_memPut]
    by_cases h1 : a + 1 ≤ x ∧ x < a + 1 + n
    · have h2 : a ≤ x ∧ x < a + (n + 1) := by omega
      rw [if_pos h1, if_pos h2, Nat.div_div_eq_div_mul]
      congr 2
      obtain ⟨k, hk⟩ : ∃ k, x = a + 1 + k := ⟨x - (a + 1), by omega⟩
      have e1 : x - a = k + 1 := by omega
      have e2 : x - (a + 1) = k := by omega
      rw [e1, e2, Nat.pow_succ, Nat.mul_comm]
    · rw [if_neg h1]
      by_cases hx : x = a
      · subst hx; simp
      · have h2 : ¬(a ≤ x ∧ x < a + (n + 1)) := by omega
        rw [if_neg hx, if_neg h2]

theorem memByte_memWriteBytes (m : List Host.Cell) (a : Nat) (bs : List Byte) (x : Nat) :
    memByte (memWriteBytes m a bs) x =
      if h : a ≤ x ∧ x < a + bs.length then bs[x - a]'(by omega) else memByte m x := by
  induction bs generalizing m a with
  | nil =>
    have : ¬(a ≤ x ∧ x < a + ([] : List Byte).length) := by
      rw [List.length_nil]; omega
    rw [dif_neg this]; rfl
  | cons b t ih =>
    rw [memWriteBytes, ih, memByte_memPut]
    by_cases h1 : a + 1 ≤ x ∧ x < a + 1 + t.length
    · have h2 : a ≤ x ∧ x < a + (b :: t).length := by rw [List.length_cons]; omega
      rw [dif_pos h1, dif_pos h2]
      have e : x - a = (x - (a + 1)) + 1 := by omega
      simp only [e, List.getElem_cons_succ]
    · rw [dif_neg h1]
      by_cases hx : x = a
      · subst hx
        have h2 : x ≤ x ∧ x < x + (b :: t).length := by simp
        rw [if_pos rfl, dif_pos h2]; simp
      · have h2 : ¬(a ≤ x ∧ x < a + (b :: t).length) := by simp; omega
        rw [if_neg hx, dif_neg h2]

/-! ## The canonical form -/

theorem wf_nil : Memory.wf [] := ⟨List.Pairwise.nil, by simp⟩

theorem wf_filter {m : List Host.Cell} (p : Host.Cell → Bool) (h : Memory.wf m) : Memory.wf (m.filter p) :=
  ⟨h.1.filter p, fun c hc => h.2 c (List.mem_filter.mp hc).1⟩

theorem mem_memIns {m : List Host.Cell} {a : Nat} {b : Byte} {c : Host.Cell} (h : c ∈ memIns m a b) : c = (a, b) ∨ c ∈ m := by
  induction m with
  | nil => exact Or.inl (by simpa [memIns] using h)
  | cons e t ih =>
    unfold memIns at h
    split at h
    · rcases List.mem_cons.mp h with h | h
      · exact Or.inr (by rw [h]; exact List.mem_cons_self ..)
      · rcases ih h with h | h
        · exact Or.inl h
        · exact Or.inr (List.mem_cons_of_mem _ h)
    · rcases List.mem_cons.mp h with h | h
      · exact Or.inl h
      · exact Or.inr h

theorem wf_memIns {m : List Host.Cell} {a : Nat} {b : Byte} (h : Memory.wf m) (hb : b ≠ Config.unlistedByte)
    (hne : ∀ c ∈ m, c.1 ≠ a) : Memory.wf (memIns m a b) := by
  refine ⟨?_, fun c hc => ?_⟩
  · have hp := h.1
    clear h
    induction m with
    | nil => simp [memIns]
    | cons e t ih =>
      rw [List.pairwise_cons] at hp
      have hne' := hne e (List.mem_cons_self ..)
      unfold memIns
      split
      · rename_i hlt
        rw [List.pairwise_cons]
        refine ⟨fun c hc => ?_, ih (fun c hc => hne c (List.mem_cons_of_mem _ hc)) hp.2⟩
        rcases mem_memIns hc with rfl | hc
        · exact hlt
        · exact hp.1 c hc
      · rename_i hlt
        rw [List.pairwise_cons]
        refine ⟨fun c hc => ?_, List.pairwise_cons.mpr hp⟩
        rcases List.mem_cons.mp hc with rfl | hc
        · show a < c.1; omega
        · have := hp.1 c hc; show a < c.1; omega
  · rcases mem_memIns hc with rfl | hc
    · exact hb
    · exact h.2 c hc

theorem wf_memPut {m : List Host.Cell} (a : Nat) (b : Byte) (h : Memory.wf m) : Memory.wf (memPut m a b) := by
  unfold memPut
  have hf := wf_filter (fun c => !(c.1 == a)) h
  by_cases hb : b = Config.unlistedByte
  · rw [if_pos hb]; exact hf
  · rw [if_neg hb]
    exact wf_memIns hf hb (fun c hc => by simpa using (List.mem_filter.mp hc).2)

theorem wf_memWrite {m : List Host.Cell} (a n v : Nat) (h : Memory.wf m) : Memory.wf (memWrite m a n v) := by
  induction n generalizing m a v with
  | zero => exact h
  | succ n ih => exact ih _ _ (wf_memPut _ _ h)

theorem wf_memWriteBytes {m : List Host.Cell} (a : Nat) (bs : List Byte) (h : Memory.wf m) :
    Memory.wf (memWriteBytes m a bs) := by
  induction bs generalizing m a with
  | nil => exact h
  | cons b t ih => exact ih _ (wf_memPut _ _ h)

theorem wf_memClear {m : List Host.Cell} (a n : Nat) (h : Memory.wf m) : Memory.wf (memClear m a n) := wf_filter _ h

theorem wf_foldl {α : Type} {f : List Host.Cell → α → List Host.Cell} (hf : ∀ m a, Memory.wf m → Memory.wf (f m a))
    (l : List α) {m : List Host.Cell} (h : Memory.wf m) : Memory.wf (l.foldl f m) := by
  induction l generalizing m with
  | nil => exact h
  | cons a t ih => exact ih (hf _ _ h)

theorem wf_memCopy {m : List Host.Cell} (src dst n : Nat) (h : Memory.wf m) : Memory.wf (memCopy m src dst n) :=
  wf_foldl (fun _ _ hm => wf_memPut _ _ hm) _ (wf_filter _ h)

theorem wf_writeDirty {m : List Host.Cell} (base : Nat) (l : Line) (n : Nat) (h : Memory.wf m) :
    Memory.wf (writeDirty m base l n) := by
  induction n with
  | zero => exact h
  | succ n ih =>
    unfold writeDirty
    split
    · exact wf_memPut _ _ ih
    · exact ih

/-- Equal reads of every byte make equal memories, for memories in the canonical form. -/
theorem memByte_ext {m n : List Host.Cell} (hm : Memory.wf m) (hn : Memory.wf n) (h : ∀ a, memByte m a = memByte n a) : m = n := by
  have low : ∀ {m : List Host.Cell} {a : Nat}, (∀ c ∈ m, a < c.1) → memByte m a = Config.unlistedByte := by
    intro m a h
    unfold memByte
    have : m.lookup a = none := by
      induction m with
      | nil => rfl
      | cons c t ih =>
        obtain ⟨k, v⟩ := c
        have := h (k, v) (List.mem_cons_self ..)
        rw [List.lookup_cons, beq_false_of_ne (by simp at this; omega)]
        exact ih (fun c hc => h c (List.mem_cons_of_mem _ hc))
    rw [this]; rfl
  have head : ∀ (c : Host.Cell) (t : List Host.Cell), memByte (c :: t) c.1 = c.2 := by
    intro c t; obtain ⟨k, v⟩ := c; simp [memByte, List.lookup_cons]
  induction m generalizing n with
  | nil =>
    cases n with
    | nil => rfl
    | cons c t => exact absurd (by rw [← head c t, ← h]; rfl) (hn.2 c (List.mem_cons_self ..))
  | cons c t ih =>
    cases n with
    | nil => exact absurd (by rw [← head c t, h]; rfl) (hm.2 c (List.mem_cons_self ..))
    | cons e u =>
      have hmp := List.pairwise_cons.mp hm.1
      have hnp := List.pairwise_cons.mp hn.1
      have hk : c.1 = e.1 := by
        rcases Nat.lt_trichotomy c.1 e.1 with hlt | heq | hlt
        · exact absurd (by
            rw [← head c t, h]
            exact low (fun x hx => by
              rcases List.mem_cons.mp hx with rfl | hx
              · exact hlt
              · exact Nat.lt_trans hlt (hnp.1 x hx))) (hm.2 c (List.mem_cons_self ..))
        · exact heq
        · exact absurd (by
            rw [← head e u, ← h]
            exact low (fun x hx => by
              rcases List.mem_cons.mp hx with rfl | hx
              · exact hlt
              · exact Nat.lt_trans hlt (hmp.1 x hx))) (hn.2 e (List.mem_cons_self ..))
      have hv : c.2 = e.2 := by rw [← head c t, h, hk, head e u]
      have hce : c = e := Prod.ext hk hv
      subst hce
      congr 1
      refine ih ⟨hmp.2, fun x hx => hm.2 x (List.mem_cons_of_mem _ hx)⟩ ⟨hnp.2, fun x hx => hn.2 x (List.mem_cons_of_mem _ hx)⟩ (fun a => ?_)
      by_cases ha : a = c.1
      · subst ha; rw [low hmp.1, low hnp.1]
      · have := h a
        have e : ∀ w : List Host.Cell, memByte (c :: w) a = memByte w a := by
          intro w; unfold memByte; obtain ⟨k, v⟩ := c; rw [List.lookup_cons, beq_false_of_ne ha]
        rw [e, e] at this; exact this

end Sys2Proof.Machine
end

