-- ==== Sys2Proof/Laws/State.lean ====
section
/-!
SUPPORT. What each update of the state leaves as it was, field by field, and what it reads as afterwards.
-/
namespace Sys2Proof.Machine

/-! ## Updates of one field: every other field stays -/

@[simp] theorem State.write_fields (s : State) (a n v : Nat) :
    (s.write a n v).time = s.time ∧ (s.write a n v).module_ = s.module_ ∧ (s.write a n v).feature2 = s.feature2 ∧
    (s.write a n v).mmio = s.mmio ∧ (s.write a n v).badUnits = s.badUnits ∧ (s.write a n v).poisoned = s.poisoned ∧
    (s.write a n v).cores = s.cores ∧ (s.write a n v).clusterTlb = s.clusterTlb ∧
    (s.write a n v).dieTlb = s.dieTlb ∧ (s.write a n v).caches = s.caches ∧ (s.write a n v).owners = s.owners ∧
    (s.write a n v).heads = s.heads ∧ (s.write a n v).spills = s.spills ∧ (s.write a n v).predict = s.predict ∧
    (s.write a n v).contexts = s.contexts ∧ (s.write a n v).saved = s.saved ∧ (s.write a n v).queues = s.queues ∧
    (s.write a n v).kernels = s.kernels ∧ (s.write a n v).domains = s.domains ∧
    (s.write a n v).patience = s.patience ∧ (s.write a n v).heavy = s.heavy ∧ (s.write a n v).firstQ = s.firstQ ∧
    (s.write a n v).tslice = s.tslice ∧ (s.write a n v).plans = s.plans ∧ (s.write a n v).net = s.net ∧
    (s.write a n v).reports = s.reports ∧ (s.write a n v).released = s.released ∧ (s.write a n v).links = s.links ∧
    (s.write a n v).modules = s.modules ∧ (s.write a n v).lock = s.lock ∧ (s.write a n v).badEst = s.badEst ∧
    (s.write a n v).lastFlit = s.lastFlit ∧ (s.write a n v).power = s.power ∧ (s.write a n v).scans = s.scans ∧
    (s.write a n v).booted = s.booted ∧ (s.write a n v).recovery = s.recovery ∧
    (s.write a n v).partsUp = s.partsUp ∧ (s.write a n v).parts = s.parts ∧ (s.write a n v).images = s.images ∧
    (s.write a n v).attests = s.attests ∧ (s.write a n v).hostWindows = s.hostWindows ∧
    (s.write a n v).nextId = s.nextId ∧ (s.write a n v).cur = s.cur ∧ (s.write a n v).agenda = s.agenda ∧
    (s.write a n v).freeCtr = s.freeCtr :=
  by simp only [State.write, and_self]

@[simp] theorem State.setCore_fields (s : State) (c : Nat) (v : Core) :
    (s.setCore c v).time = s.time ∧ (s.setCore c v).module_ = s.module_ ∧ (s.setCore c v).feature2 = s.feature2 ∧
    (s.setCore c v).mem = s.mem ∧ (s.setCore c v).mmio = s.mmio ∧ (s.setCore c v).badUnits = s.badUnits ∧
    (s.setCore c v).poisoned = s.poisoned ∧ (s.setCore c v).clusterTlb = s.clusterTlb ∧
    (s.setCore c v).dieTlb = s.dieTlb ∧ (s.setCore c v).caches = s.caches ∧ (s.setCore c v).owners = s.owners ∧
    (s.setCore c v).heads = s.heads ∧ (s.setCore c v).spills = s.spills ∧ (s.setCore c v).predict = s.predict ∧
    (s.setCore c v).contexts = s.contexts ∧ (s.setCore c v).saved = s.saved ∧ (s.setCore c v).queues = s.queues ∧
    (s.setCore c v).kernels = s.kernels ∧ (s.setCore c v).domains = s.domains ∧
    (s.setCore c v).patience = s.patience ∧ (s.setCore c v).heavy = s.heavy ∧ (s.setCore c v).firstQ = s.firstQ ∧
    (s.setCore c v).tslice = s.tslice ∧ (s.setCore c v).plans = s.plans ∧ (s.setCore c v).net = s.net ∧
    (s.setCore c v).reports = s.reports ∧ (s.setCore c v).released = s.released ∧ (s.setCore c v).links = s.links ∧
    (s.setCore c v).modules = s.modules ∧ (s.setCore c v).lock = s.lock ∧ (s.setCore c v).badEst = s.badEst ∧
    (s.setCore c v).lastFlit = s.lastFlit ∧ (s.setCore c v).power = s.power ∧ (s.setCore c v).scans = s.scans ∧
    (s.setCore c v).booted = s.booted ∧ (s.setCore c v).recovery = s.recovery ∧
    (s.setCore c v).partsUp = s.partsUp ∧ (s.setCore c v).parts = s.parts ∧ (s.setCore c v).images = s.images ∧
    (s.setCore c v).attests = s.attests ∧ (s.setCore c v).hostWindows = s.hostWindows ∧
    (s.setCore c v).nextId = s.nextId ∧ (s.setCore c v).cur = s.cur ∧ (s.setCore c v).agenda = s.agenda ∧
    (s.setCore c v).freeCtr = s.freeCtr :=
  by simp only [State.setCore, and_self]

@[simp] theorem State.setLive_fields (s : State) (c : Nat) (v : CoreCtx) :
    (s.setLive c v).time = s.time ∧ (s.setLive c v).module_ = s.module_ ∧ (s.setLive c v).feature2 = s.feature2 ∧
    (s.setLive c v).mem = s.mem ∧ (s.setLive c v).mmio = s.mmio ∧ (s.setLive c v).badUnits = s.badUnits ∧
    (s.setLive c v).poisoned = s.poisoned ∧ (s.setLive c v).clusterTlb = s.clusterTlb ∧
    (s.setLive c v).dieTlb = s.dieTlb ∧ (s.setLive c v).caches = s.caches ∧ (s.setLive c v).owners = s.owners ∧
    (s.setLive c v).heads = s.heads ∧ (s.setLive c v).spills = s.spills ∧ (s.setLive c v).predict = s.predict ∧
    (s.setLive c v).contexts = s.contexts ∧ (s.setLive c v).saved = s.saved ∧ (s.setLive c v).queues = s.queues ∧
    (s.setLive c v).kernels = s.kernels ∧ (s.setLive c v).domains = s.domains ∧
    (s.setLive c v).patience = s.patience ∧ (s.setLive c v).heavy = s.heavy ∧ (s.setLive c v).firstQ = s.firstQ ∧
    (s.setLive c v).tslice = s.tslice ∧ (s.setLive c v).plans = s.plans ∧ (s.setLive c v).net = s.net ∧
    (s.setLive c v).reports = s.reports ∧ (s.setLive c v).released = s.released ∧ (s.setLive c v).links = s.links ∧
    (s.setLive c v).modules = s.modules ∧ (s.setLive c v).lock = s.lock ∧ (s.setLive c v).badEst = s.badEst ∧
    (s.setLive c v).lastFlit = s.lastFlit ∧ (s.setLive c v).power = s.power ∧ (s.setLive c v).scans = s.scans ∧
    (s.setLive c v).booted = s.booted ∧ (s.setLive c v).recovery = s.recovery ∧
    (s.setLive c v).partsUp = s.partsUp ∧ (s.setLive c v).parts = s.parts ∧ (s.setLive c v).images = s.images ∧
    (s.setLive c v).attests = s.attests ∧ (s.setLive c v).hostWindows = s.hostWindows ∧
    (s.setLive c v).nextId = s.nextId ∧ (s.setLive c v).cur = s.cur ∧ (s.setLive c v).agenda = s.agenda ∧
    (s.setLive c v).freeCtr = s.freeCtr :=
  by simp only [State.setLive, State.setCore, and_self]

@[simp] theorem State.setStrand_fields (s : State) (w : Who) (v : Strand) :
    (s.setStrand w v).time = s.time ∧ (s.setStrand w v).module_ = s.module_ ∧
    (s.setStrand w v).feature2 = s.feature2 ∧ (s.setStrand w v).mem = s.mem ∧ (s.setStrand w v).mmio = s.mmio ∧
    (s.setStrand w v).badUnits = s.badUnits ∧ (s.setStrand w v).poisoned = s.poisoned ∧
    (s.setStrand w v).clusterTlb = s.clusterTlb ∧ (s.setStrand w v).dieTlb = s.dieTlb ∧
    (s.setStrand w v).caches = s.caches ∧ (s.setStrand w v).owners = s.owners ∧ (s.setStrand w v).heads = s.heads ∧
    (s.setStrand w v).spills = s.spills ∧ (s.setStrand w v).predict = s.predict ∧
    (s.setStrand w v).contexts = s.contexts ∧ (s.setStrand w v).saved = s.saved ∧
    (s.setStrand w v).queues = s.queues ∧ (s.setStrand w v).kernels = s.kernels ∧
    (s.setStrand w v).domains = s.domains ∧ (s.setStrand w v).patience = s.patience ∧
    (s.setStrand w v).heavy = s.heavy ∧ (s.setStrand w v).firstQ = s.firstQ ∧ (s.setStrand w v).tslice = s.tslice ∧
    (s.setStrand w v).plans = s.plans ∧ (s.setStrand w v).net = s.net ∧ (s.setStrand w v).reports = s.reports ∧
    (s.setStrand w v).released = s.released ∧ (s.setStrand w v).links = s.links ∧
    (s.setStrand w v).modules = s.modules ∧ (s.setStrand w v).lock = s.lock ∧ (s.setStrand w v).badEst = s.badEst ∧
    (s.setStrand w v).lastFlit = s.lastFlit ∧ (s.setStrand w v).power = s.power ∧
    (s.setStrand w v).scans = s.scans ∧ (s.setStrand w v).booted = s.booted ∧
    (s.setStrand w v).recovery = s.recovery ∧ (s.setStrand w v).partsUp = s.partsUp ∧
    (s.setStrand w v).parts = s.parts ∧ (s.setStrand w v).images = s.images ∧
    (s.setStrand w v).attests = s.attests ∧ (s.setStrand w v).hostWindows = s.hostWindows ∧
    (s.setStrand w v).nextId = s.nextId ∧ (s.setStrand w v).cur = s.cur ∧ (s.setStrand w v).agenda = s.agenda ∧
    (s.setStrand w v).freeCtr = s.freeCtr :=
  by simp only [State.setStrand, State.setLive, State.setCore, and_self]

@[simp] theorem State.setCtl_fields (s : State) (pa : Nat) (v : Word) :
    (s.setCtl pa v).time = s.time ∧ (s.setCtl pa v).module_ = s.module_ ∧ (s.setCtl pa v).feature2 = s.feature2 ∧
    (s.setCtl pa v).mem = s.mem ∧ (s.setCtl pa v).badUnits = s.badUnits ∧ (s.setCtl pa v).poisoned = s.poisoned ∧
    (s.setCtl pa v).cores = s.cores ∧ (s.setCtl pa v).clusterTlb = s.clusterTlb ∧
    (s.setCtl pa v).dieTlb = s.dieTlb ∧ (s.setCtl pa v).caches = s.caches ∧ (s.setCtl pa v).owners = s.owners ∧
    (s.setCtl pa v).heads = s.heads ∧ (s.setCtl pa v).spills = s.spills ∧ (s.setCtl pa v).predict = s.predict ∧
    (s.setCtl pa v).contexts = s.contexts ∧ (s.setCtl pa v).saved = s.saved ∧ (s.setCtl pa v).queues = s.queues ∧
    (s.setCtl pa v).kernels = s.kernels ∧ (s.setCtl pa v).domains = s.domains ∧
    (s.setCtl pa v).patience = s.patience ∧ (s.setCtl pa v).heavy = s.heavy ∧ (s.setCtl pa v).firstQ = s.firstQ ∧
    (s.setCtl pa v).tslice = s.tslice ∧ (s.setCtl pa v).plans = s.plans ∧ (s.setCtl pa v).net = s.net ∧
    (s.setCtl pa v).reports = s.reports ∧ (s.setCtl pa v).released = s.released ∧ (s.setCtl pa v).links = s.links ∧
    (s.setCtl pa v).modules = s.modules ∧ (s.setCtl pa v).lock = s.lock ∧ (s.setCtl pa v).badEst = s.badEst ∧
    (s.setCtl pa v).lastFlit = s.lastFlit ∧ (s.setCtl pa v).power = s.power ∧ (s.setCtl pa v).scans = s.scans ∧
    (s.setCtl pa v).booted = s.booted ∧ (s.setCtl pa v).recovery = s.recovery ∧
    (s.setCtl pa v).partsUp = s.partsUp ∧ (s.setCtl pa v).parts = s.parts ∧ (s.setCtl pa v).images = s.images ∧
    (s.setCtl pa v).attests = s.attests ∧ (s.setCtl pa v).hostWindows = s.hostWindows ∧
    (s.setCtl pa v).nextId = s.nextId ∧ (s.setCtl pa v).cur = s.cur ∧ (s.setCtl pa v).agenda = s.agenda ∧
    (s.setCtl pa v).freeCtr = s.freeCtr :=
  by simp only [State.setCtl, and_self]

@[simp] theorem State.setLine_fields (s : State) (cl ln : Nat) (v : Line) :
    (s.setLine cl ln v).time = s.time ∧ (s.setLine cl ln v).module_ = s.module_ ∧
    (s.setLine cl ln v).feature2 = s.feature2 ∧ (s.setLine cl ln v).mem = s.mem ∧
    (s.setLine cl ln v).mmio = s.mmio ∧ (s.setLine cl ln v).badUnits = s.badUnits ∧
    (s.setLine cl ln v).poisoned = s.poisoned ∧ (s.setLine cl ln v).cores = s.cores ∧
    (s.setLine cl ln v).clusterTlb = s.clusterTlb ∧ (s.setLine cl ln v).dieTlb = s.dieTlb ∧
    (s.setLine cl ln v).owners = s.owners ∧ (s.setLine cl ln v).heads = s.heads ∧
    (s.setLine cl ln v).spills = s.spills ∧ (s.setLine cl ln v).predict = s.predict ∧
    (s.setLine cl ln v).contexts = s.contexts ∧ (s.setLine cl ln v).saved = s.saved ∧
    (s.setLine cl ln v).queues = s.queues ∧ (s.setLine cl ln v).kernels = s.kernels ∧
    (s.setLine cl ln v).domains = s.domains ∧ (s.setLine cl ln v).patience = s.patience ∧
    (s.setLine cl ln v).heavy = s.heavy ∧ (s.setLine cl ln v).firstQ = s.firstQ ∧
    (s.setLine cl ln v).tslice = s.tslice ∧ (s.setLine cl ln v).plans = s.plans ∧ (s.setLine cl ln v).net = s.net ∧
    (s.setLine cl ln v).reports = s.reports ∧ (s.setLine cl ln v).released = s.released ∧
    (s.setLine cl ln v).links = s.links ∧ (s.setLine cl ln v).modules = s.modules ∧
    (s.setLine cl ln v).lock = s.lock ∧ (s.setLine cl ln v).badEst = s.badEst ∧
    (s.setLine cl ln v).lastFlit = s.lastFlit ∧ (s.setLine cl ln v).power = s.power ∧
    (s.setLine cl ln v).scans = s.scans ∧ (s.setLine cl ln v).booted = s.booted ∧
    (s.setLine cl ln v).recovery = s.recovery ∧ (s.setLine cl ln v).partsUp = s.partsUp ∧
    (s.setLine cl ln v).parts = s.parts ∧ (s.setLine cl ln v).images = s.images ∧
    (s.setLine cl ln v).attests = s.attests ∧ (s.setLine cl ln v).hostWindows = s.hostWindows ∧
    (s.setLine cl ln v).nextId = s.nextId ∧ (s.setLine cl ln v).cur = s.cur ∧
    (s.setLine cl ln v).agenda = s.agenda ∧ (s.setLine cl ln v).freeCtr = s.freeCtr :=
  by simp only [State.setLine, and_self]

@[simp] theorem State.delLine_fields (s : State) (cl ln : Nat) :
    (s.delLine cl ln).time = s.time ∧ (s.delLine cl ln).module_ = s.module_ ∧
    (s.delLine cl ln).feature2 = s.feature2 ∧ (s.delLine cl ln).mem = s.mem ∧ (s.delLine cl ln).mmio = s.mmio ∧
    (s.delLine cl ln).badUnits = s.badUnits ∧ (s.delLine cl ln).poisoned = s.poisoned ∧
    (s.delLine cl ln).cores = s.cores ∧ (s.delLine cl ln).clusterTlb = s.clusterTlb ∧
    (s.delLine cl ln).dieTlb = s.dieTlb ∧ (s.delLine cl ln).owners = s.owners ∧ (s.delLine cl ln).heads = s.heads ∧
    (s.delLine cl ln).spills = s.spills ∧ (s.delLine cl ln).predict = s.predict ∧
    (s.delLine cl ln).contexts = s.contexts ∧ (s.delLine cl ln).saved = s.saved ∧
    (s.delLine cl ln).queues = s.queues ∧ (s.delLine cl ln).kernels = s.kernels ∧
    (s.delLine cl ln).domains = s.domains ∧ (s.delLine cl ln).patience = s.patience ∧
    (s.delLine cl ln).heavy = s.heavy ∧ (s.delLine cl ln).firstQ = s.firstQ ∧ (s.delLine cl ln).tslice = s.tslice ∧
    (s.delLine cl ln).plans = s.plans ∧ (s.delLine cl ln).net = s.net ∧ (s.delLine cl ln).reports = s.reports ∧
    (s.delLine cl ln).released = s.released ∧ (s.delLine cl ln).links = s.links ∧
    (s.delLine cl ln).modules = s.modules ∧ (s.delLine cl ln).lock = s.lock ∧ (s.delLine cl ln).badEst = s.badEst ∧
    (s.delLine cl ln).lastFlit = s.lastFlit ∧ (s.delLine cl ln).power = s.power ∧
    (s.delLine cl ln).scans = s.scans ∧ (s.delLine cl ln).booted = s.booted ∧
    (s.delLine cl ln).recovery = s.recovery ∧ (s.delLine cl ln).partsUp = s.partsUp ∧
    (s.delLine cl ln).parts = s.parts ∧ (s.delLine cl ln).images = s.images ∧
    (s.delLine cl ln).attests = s.attests ∧ (s.delLine cl ln).hostWindows = s.hostWindows ∧
    (s.delLine cl ln).nextId = s.nextId ∧ (s.delLine cl ln).cur = s.cur ∧ (s.delLine cl ln).agenda = s.agenda ∧
    (s.delLine cl ln).freeCtr = s.freeCtr :=
  by simp only [State.delLine, and_self]

@[simp] theorem State.setKernel_fields (s : State) (k : Nat) (v : Kernel) :
    (s.setKernel k v).time = s.time ∧ (s.setKernel k v).module_ = s.module_ ∧
    (s.setKernel k v).feature2 = s.feature2 ∧ (s.setKernel k v).mem = s.mem ∧ (s.setKernel k v).mmio = s.mmio ∧
    (s.setKernel k v).badUnits = s.badUnits ∧ (s.setKernel k v).poisoned = s.poisoned ∧
    (s.setKernel k v).cores = s.cores ∧ (s.setKernel k v).clusterTlb = s.clusterTlb ∧
    (s.setKernel k v).dieTlb = s.dieTlb ∧ (s.setKernel k v).caches = s.caches ∧
    (s.setKernel k v).owners = s.owners ∧ (s.setKernel k v).heads = s.heads ∧ (s.setKernel k v).spills = s.spills ∧
    (s.setKernel k v).predict = s.predict ∧ (s.setKernel k v).contexts = s.contexts ∧
    (s.setKernel k v).saved = s.saved ∧ (s.setKernel k v).queues = s.queues ∧
    (s.setKernel k v).domains = s.domains ∧ (s.setKernel k v).patience = s.patience ∧
    (s.setKernel k v).heavy = s.heavy ∧ (s.setKernel k v).firstQ = s.firstQ ∧ (s.setKernel k v).tslice = s.tslice ∧
    (s.setKernel k v).plans = s.plans ∧ (s.setKernel k v).net = s.net ∧ (s.setKernel k v).reports = s.reports ∧
    (s.setKernel k v).released = s.released ∧ (s.setKernel k v).links = s.links ∧
    (s.setKernel k v).modules = s.modules ∧ (s.setKernel k v).lock = s.lock ∧ (s.setKernel k v).badEst = s.badEst ∧
    (s.setKernel k v).lastFlit = s.lastFlit ∧ (s.setKernel k v).power = s.power ∧
    (s.setKernel k v).scans = s.scans ∧ (s.setKernel k v).booted = s.booted ∧
    (s.setKernel k v).recovery = s.recovery ∧ (s.setKernel k v).partsUp = s.partsUp ∧
    (s.setKernel k v).parts = s.parts ∧ (s.setKernel k v).images = s.images ∧
    (s.setKernel k v).attests = s.attests ∧ (s.setKernel k v).hostWindows = s.hostWindows ∧
    (s.setKernel k v).nextId = s.nextId ∧ (s.setKernel k v).cur = s.cur ∧ (s.setKernel k v).agenda = s.agenda ∧
    (s.setKernel k v).freeCtr = s.freeCtr :=
  by simp only [State.setKernel, and_self]

@[simp] theorem State.retire_fields (s : State) (w : Who) (len eu : Nat) :
    (s.retire w len eu).time = s.time ∧ (s.retire w len eu).module_ = s.module_ ∧
    (s.retire w len eu).feature2 = s.feature2 ∧ (s.retire w len eu).mem = s.mem ∧
    (s.retire w len eu).mmio = s.mmio ∧ (s.retire w len eu).badUnits = s.badUnits ∧
    (s.retire w len eu).poisoned = s.poisoned ∧ (s.retire w len eu).clusterTlb = s.clusterTlb ∧
    (s.retire w len eu).dieTlb = s.dieTlb ∧ (s.retire w len eu).caches = s.caches ∧
    (s.retire w len eu).owners = s.owners ∧ (s.retire w len eu).heads = s.heads ∧
    (s.retire w len eu).spills = s.spills ∧ (s.retire w len eu).predict = s.predict ∧
    (s.retire w len eu).contexts = s.contexts ∧ (s.retire w len eu).saved = s.saved ∧
    (s.retire w len eu).queues = s.queues ∧ (s.retire w len eu).kernels = s.kernels ∧
    (s.retire w len eu).domains = s.domains ∧ (s.retire w len eu).patience = s.patience ∧
    (s.retire w len eu).heavy = s.heavy ∧ (s.retire w len eu).firstQ = s.firstQ ∧
    (s.retire w len eu).tslice = s.tslice ∧ (s.retire w len eu).plans = s.plans ∧ (s.retire w len eu).net = s.net ∧
    (s.retire w len eu).reports = s.reports ∧ (s.retire w len eu).released = s.released ∧
    (s.retire w len eu).links = s.links ∧ (s.retire w len eu).modules = s.modules ∧
    (s.retire w len eu).lock = s.lock ∧ (s.retire w len eu).badEst = s.badEst ∧
    (s.retire w len eu).lastFlit = s.lastFlit ∧ (s.retire w len eu).power = s.power ∧
    (s.retire w len eu).scans = s.scans ∧ (s.retire w len eu).booted = s.booted ∧
    (s.retire w len eu).recovery = s.recovery ∧ (s.retire w len eu).partsUp = s.partsUp ∧
    (s.retire w len eu).parts = s.parts ∧ (s.retire w len eu).images = s.images ∧
    (s.retire w len eu).attests = s.attests ∧ (s.retire w len eu).hostWindows = s.hostWindows ∧
    (s.retire w len eu).nextId = s.nextId ∧ (s.retire w len eu).cur = s.cur ∧
    (s.retire w len eu).agenda = s.agenda ∧ (s.retire w len eu).freeCtr = s.freeCtr :=
  by simp only [State.retire, State.setCore, and_self]

@[simp] theorem State.jumpTo_fields (s : State) (w : Who) (pc : Word) (eu : Nat) :
    (s.jumpTo w pc eu).time = s.time ∧ (s.jumpTo w pc eu).module_ = s.module_ ∧
    (s.jumpTo w pc eu).feature2 = s.feature2 ∧ (s.jumpTo w pc eu).mem = s.mem ∧ (s.jumpTo w pc eu).mmio = s.mmio ∧
    (s.jumpTo w pc eu).badUnits = s.badUnits ∧ (s.jumpTo w pc eu).poisoned = s.poisoned ∧
    (s.jumpTo w pc eu).clusterTlb = s.clusterTlb ∧ (s.jumpTo w pc eu).dieTlb = s.dieTlb ∧
    (s.jumpTo w pc eu).caches = s.caches ∧ (s.jumpTo w pc eu).owners = s.owners ∧
    (s.jumpTo w pc eu).heads = s.heads ∧ (s.jumpTo w pc eu).spills = s.spills ∧
    (s.jumpTo w pc eu).predict = s.predict ∧ (s.jumpTo w pc eu).contexts = s.contexts ∧
    (s.jumpTo w pc eu).saved = s.saved ∧ (s.jumpTo w pc eu).queues = s.queues ∧
    (s.jumpTo w pc eu).kernels = s.kernels ∧ (s.jumpTo w pc eu).domains = s.domains ∧
    (s.jumpTo w pc eu).patience = s.patience ∧ (s.jumpTo w pc eu).heavy = s.heavy ∧
    (s.jumpTo w pc eu).firstQ = s.firstQ ∧ (s.jumpTo w pc eu).tslice = s.tslice ∧
    (s.jumpTo w pc eu).plans = s.plans ∧ (s.jumpTo w pc eu).net = s.net ∧ (s.jumpTo w pc eu).reports = s.reports ∧
    (s.jumpTo w pc eu).released = s.released ∧ (s.jumpTo w pc eu).links = s.links ∧
    (s.jumpTo w pc eu).modules = s.modules ∧ (s.jumpTo w pc eu).lock = s.lock ∧
    (s.jumpTo w pc eu).badEst = s.badEst ∧ (s.jumpTo w pc eu).lastFlit = s.lastFlit ∧
    (s.jumpTo w pc eu).power = s.power ∧ (s.jumpTo w pc eu).scans = s.scans ∧ (s.jumpTo w pc eu).booted = s.booted ∧
    (s.jumpTo w pc eu).recovery = s.recovery ∧ (s.jumpTo w pc eu).partsUp = s.partsUp ∧
    (s.jumpTo w pc eu).parts = s.parts ∧ (s.jumpTo w pc eu).images = s.images ∧
    (s.jumpTo w pc eu).attests = s.attests ∧ (s.jumpTo w pc eu).hostWindows = s.hostWindows ∧
    (s.jumpTo w pc eu).nextId = s.nextId ∧ (s.jumpTo w pc eu).cur = s.cur ∧ (s.jumpTo w pc eu).agenda = s.agenda ∧
    (s.jumpTo w pc eu).freeCtr = s.freeCtr :=
  by simp only [State.jumpTo, State.setCore, and_self]

@[simp] theorem State.keepLast_fields (s : State) (w : Who) (k : Nat) :
    (s.keepLast w k).time = s.time ∧ (s.keepLast w k).module_ = s.module_ ∧ (s.keepLast w k).feature2 = s.feature2 ∧
    (s.keepLast w k).mem = s.mem ∧ (s.keepLast w k).mmio = s.mmio ∧ (s.keepLast w k).badUnits = s.badUnits ∧
    (s.keepLast w k).poisoned = s.poisoned ∧ (s.keepLast w k).clusterTlb = s.clusterTlb ∧
    (s.keepLast w k).dieTlb = s.dieTlb ∧ (s.keepLast w k).caches = s.caches ∧ (s.keepLast w k).owners = s.owners ∧
    (s.keepLast w k).heads = s.heads ∧ (s.keepLast w k).spills = s.spills ∧ (s.keepLast w k).predict = s.predict ∧
    (s.keepLast w k).contexts = s.contexts ∧ (s.keepLast w k).saved = s.saved ∧ (s.keepLast w k).queues = s.queues ∧
    (s.keepLast w k).kernels = s.kernels ∧ (s.keepLast w k).domains = s.domains ∧
    (s.keepLast w k).patience = s.patience ∧ (s.keepLast w k).heavy = s.heavy ∧ (s.keepLast w k).firstQ = s.firstQ ∧
    (s.keepLast w k).tslice = s.tslice ∧ (s.keepLast w k).plans = s.plans ∧ (s.keepLast w k).net = s.net ∧
    (s.keepLast w k).reports = s.reports ∧ (s.keepLast w k).released = s.released ∧
    (s.keepLast w k).links = s.links ∧ (s.keepLast w k).modules = s.modules ∧ (s.keepLast w k).lock = s.lock ∧
    (s.keepLast w k).badEst = s.badEst ∧ (s.keepLast w k).lastFlit = s.lastFlit ∧ (s.keepLast w k).power = s.power ∧
    (s.keepLast w k).scans = s.scans ∧ (s.keepLast w k).booted = s.booted ∧ (s.keepLast w k).recovery = s.recovery ∧
    (s.keepLast w k).partsUp = s.partsUp ∧ (s.keepLast w k).parts = s.parts ∧ (s.keepLast w k).images = s.images ∧
    (s.keepLast w k).attests = s.attests ∧ (s.keepLast w k).hostWindows = s.hostWindows ∧
    (s.keepLast w k).nextId = s.nextId ∧ (s.keepLast w k).cur = s.cur ∧ (s.keepLast w k).agenda = s.agenda ∧
    (s.keepLast w k).freeCtr = s.freeCtr :=
  by simp only [State.keepLast, State.setCore, and_self]

@[simp] theorem State.waiting_fields (s : State) (w : Who) (v : Wait) :
    (s.waiting w v).time = s.time ∧ (s.waiting w v).module_ = s.module_ ∧ (s.waiting w v).feature2 = s.feature2 ∧
    (s.waiting w v).mem = s.mem ∧ (s.waiting w v).mmio = s.mmio ∧ (s.waiting w v).badUnits = s.badUnits ∧
    (s.waiting w v).poisoned = s.poisoned ∧ (s.waiting w v).clusterTlb = s.clusterTlb ∧
    (s.waiting w v).dieTlb = s.dieTlb ∧ (s.waiting w v).caches = s.caches ∧ (s.waiting w v).owners = s.owners ∧
    (s.waiting w v).heads = s.heads ∧ (s.waiting w v).spills = s.spills ∧ (s.waiting w v).predict = s.predict ∧
    (s.waiting w v).contexts = s.contexts ∧ (s.waiting w v).saved = s.saved ∧ (s.waiting w v).queues = s.queues ∧
    (s.waiting w v).kernels = s.kernels ∧ (s.waiting w v).domains = s.domains ∧
    (s.waiting w v).patience = s.patience ∧ (s.waiting w v).heavy = s.heavy ∧ (s.waiting w v).firstQ = s.firstQ ∧
    (s.waiting w v).tslice = s.tslice ∧ (s.waiting w v).plans = s.plans ∧ (s.waiting w v).net = s.net ∧
    (s.waiting w v).reports = s.reports ∧ (s.waiting w v).released = s.released ∧ (s.waiting w v).links = s.links ∧
    (s.waiting w v).modules = s.modules ∧ (s.waiting w v).lock = s.lock ∧ (s.waiting w v).badEst = s.badEst ∧
    (s.waiting w v).lastFlit = s.lastFlit ∧ (s.waiting w v).power = s.power ∧ (s.waiting w v).scans = s.scans ∧
    (s.waiting w v).booted = s.booted ∧ (s.waiting w v).recovery = s.recovery ∧
    (s.waiting w v).partsUp = s.partsUp ∧ (s.waiting w v).parts = s.parts ∧ (s.waiting w v).images = s.images ∧
    (s.waiting w v).attests = s.attests ∧ (s.waiting w v).hostWindows = s.hostWindows ∧
    (s.waiting w v).nextId = s.nextId ∧ (s.waiting w v).cur = s.cur ∧ (s.waiting w v).agenda = s.agenda ∧
    (s.waiting w v).freeCtr = s.freeCtr :=
  by simp only [State.waiting, State.setStrand, State.setLive, State.setCore, and_self]

/-- A register write is nothing, or an update of the executing core. -/
theorem State.setReg_cases (s : State) (w : Who) (r : Reg) (v : Word) :
    s.setReg w r v = s ∨ ∃ p, r ≠ 0 ∧ (s.strand w).regPlace w.strand r = some p ∧
      s.setReg w r v = s.setLive w.core { s.live w.core with
        regs := AMap.put (s.live w.core).regs p v, perr := (s.live w.core).perr.filter (fun e => e != .reg p) } := by
  unfold State.setReg
  split
  · exact Or.inl rfl
  · rename_i h
    cases hp : (s.strand w).regPlace w.strand r with
    | none => exact Or.inl rfl
    | some p => exact Or.inr ⟨p, h, rfl, rfl⟩

@[simp] theorem State.setReg_fields (s : State) (w : Who) (r : Reg) (v : Word) :
    (s.setReg w r v).time = s.time ∧ (s.setReg w r v).module_ = s.module_ ∧ (s.setReg w r v).feature2 = s.feature2 ∧
    (s.setReg w r v).mem = s.mem ∧ (s.setReg w r v).mmio = s.mmio ∧ (s.setReg w r v).badUnits = s.badUnits ∧
    (s.setReg w r v).poisoned = s.poisoned ∧ (s.setReg w r v).clusterTlb = s.clusterTlb ∧
    (s.setReg w r v).dieTlb = s.dieTlb ∧ (s.setReg w r v).caches = s.caches ∧ (s.setReg w r v).owners = s.owners ∧
    (s.setReg w r v).heads = s.heads ∧ (s.setReg w r v).spills = s.spills ∧ (s.setReg w r v).predict = s.predict ∧
    (s.setReg w r v).contexts = s.contexts ∧ (s.setReg w r v).saved = s.saved ∧ (s.setReg w r v).queues = s.queues ∧
    (s.setReg w r v).kernels = s.kernels ∧ (s.setReg w r v).domains = s.domains ∧
    (s.setReg w r v).patience = s.patience ∧ (s.setReg w r v).heavy = s.heavy ∧ (s.setReg w r v).firstQ = s.firstQ ∧
    (s.setReg w r v).tslice = s.tslice ∧ (s.setReg w r v).plans = s.plans ∧ (s.setReg w r v).net = s.net ∧
    (s.setReg w r v).reports = s.reports ∧ (s.setReg w r v).released = s.released ∧
    (s.setReg w r v).links = s.links ∧ (s.setReg w r v).modules = s.modules ∧ (s.setReg w r v).lock = s.lock ∧
    (s.setReg w r v).badEst = s.badEst ∧ (s.setReg w r v).lastFlit = s.lastFlit ∧ (s.setReg w r v).power = s.power ∧
    (s.setReg w r v).scans = s.scans ∧ (s.setReg w r v).booted = s.booted ∧ (s.setReg w r v).recovery = s.recovery ∧
    (s.setReg w r v).partsUp = s.partsUp ∧ (s.setReg w r v).parts = s.parts ∧ (s.setReg w r v).images = s.images ∧
    (s.setReg w r v).attests = s.attests ∧ (s.setReg w r v).hostWindows = s.hostWindows ∧
    (s.setReg w r v).nextId = s.nextId ∧ (s.setReg w r v).cur = s.cur ∧ (s.setReg w r v).agenda = s.agenda ∧
    (s.setReg w r v).freeCtr = s.freeCtr :=
  by
  rcases s.setReg_cases w r v with h | ⟨p, -, -, h⟩ <;> rw [h]
  · simp
  · exact State.setLive_fields s _ _

@[simp] theorem State.setPred_fields (s : State) (w : Who) (p : Pred) (v : Bool) :
    (s.setPred w p v).time = s.time ∧ (s.setPred w p v).module_ = s.module_ ∧
    (s.setPred w p v).feature2 = s.feature2 ∧ (s.setPred w p v).mem = s.mem ∧ (s.setPred w p v).mmio = s.mmio ∧
    (s.setPred w p v).badUnits = s.badUnits ∧ (s.setPred w p v).poisoned = s.poisoned ∧
    (s.setPred w p v).clusterTlb = s.clusterTlb ∧ (s.setPred w p v).dieTlb = s.dieTlb ∧
    (s.setPred w p v).caches = s.caches ∧ (s.setPred w p v).owners = s.owners ∧ (s.setPred w p v).heads = s.heads ∧
    (s.setPred w p v).spills = s.spills ∧ (s.setPred w p v).predict = s.predict ∧
    (s.setPred w p v).contexts = s.contexts ∧ (s.setPred w p v).saved = s.saved ∧
    (s.setPred w p v).queues = s.queues ∧ (s.setPred w p v).kernels = s.kernels ∧
    (s.setPred w p v).domains = s.domains ∧ (s.setPred w p v).patience = s.patience ∧
    (s.setPred w p v).heavy = s.heavy ∧ (s.setPred w p v).firstQ = s.firstQ ∧ (s.setPred w p v).tslice = s.tslice ∧
    (s.setPred w p v).plans = s.plans ∧ (s.setPred w p v).net = s.net ∧ (s.setPred w p v).reports = s.reports ∧
    (s.setPred w p v).released = s.released ∧ (s.setPred w p v).links = s.links ∧
    (s.setPred w p v).modules = s.modules ∧ (s.setPred w p v).lock = s.lock ∧ (s.setPred w p v).badEst = s.badEst ∧
    (s.setPred w p v).lastFlit = s.lastFlit ∧ (s.setPred w p v).power = s.power ∧
    (s.setPred w p v).scans = s.scans ∧ (s.setPred w p v).booted = s.booted ∧
    (s.setPred w p v).recovery = s.recovery ∧ (s.setPred w p v).partsUp = s.partsUp ∧
    (s.setPred w p v).parts = s.parts ∧ (s.setPred w p v).images = s.images ∧
    (s.setPred w p v).attests = s.attests ∧ (s.setPred w p v).hostWindows = s.hostWindows ∧
    (s.setPred w p v).nextId = s.nextId ∧ (s.setPred w p v).cur = s.cur ∧ (s.setPred w p v).agenda = s.agenda ∧
    (s.setPred w p v).freeCtr = s.freeCtr :=
  by
  unfold State.setPred; split
  · simp
  · exact State.setStrand_fields s _ _

@[simp] theorem State.setTile_fields (s : State) (w : Who) (t : Tile) (r : Rows) (g : BitVec 32) :
    (s.setTile w t r g).time = s.time ∧ (s.setTile w t r g).module_ = s.module_ ∧
    (s.setTile w t r g).feature2 = s.feature2 ∧ (s.setTile w t r g).mem = s.mem ∧
    (s.setTile w t r g).mmio = s.mmio ∧ (s.setTile w t r g).badUnits = s.badUnits ∧
    (s.setTile w t r g).poisoned = s.poisoned ∧ (s.setTile w t r g).clusterTlb = s.clusterTlb ∧
    (s.setTile w t r g).dieTlb = s.dieTlb ∧ (s.setTile w t r g).caches = s.caches ∧
    (s.setTile w t r g).owners = s.owners ∧ (s.setTile w t r g).heads = s.heads ∧
    (s.setTile w t r g).spills = s.spills ∧ (s.setTile w t r g).predict = s.predict ∧
    (s.setTile w t r g).contexts = s.contexts ∧ (s.setTile w t r g).saved = s.saved ∧
    (s.setTile w t r g).queues = s.queues ∧ (s.setTile w t r g).kernels = s.kernels ∧
    (s.setTile w t r g).domains = s.domains ∧ (s.setTile w t r g).patience = s.patience ∧
    (s.setTile w t r g).heavy = s.heavy ∧ (s.setTile w t r g).firstQ = s.firstQ ∧
    (s.setTile w t r g).tslice = s.tslice ∧ (s.setTile w t r g).plans = s.plans ∧ (s.setTile w t r g).net = s.net ∧
    (s.setTile w t r g).reports = s.reports ∧ (s.setTile w t r g).released = s.released ∧
    (s.setTile w t r g).links = s.links ∧ (s.setTile w t r g).modules = s.modules ∧
    (s.setTile w t r g).lock = s.lock ∧ (s.setTile w t r g).badEst = s.badEst ∧
    (s.setTile w t r g).lastFlit = s.lastFlit ∧ (s.setTile w t r g).power = s.power ∧
    (s.setTile w t r g).scans = s.scans ∧ (s.setTile w t r g).booted = s.booted ∧
    (s.setTile w t r g).recovery = s.recovery ∧ (s.setTile w t r g).partsUp = s.partsUp ∧
    (s.setTile w t r g).parts = s.parts ∧ (s.setTile w t r g).images = s.images ∧
    (s.setTile w t r g).attests = s.attests ∧ (s.setTile w t r g).hostWindows = s.hostWindows ∧
    (s.setTile w t r g).nextId = s.nextId ∧ (s.setTile w t r g).cur = s.cur ∧
    (s.setTile w t r g).agenda = s.agenda ∧ (s.setTile w t r g).freeCtr = s.freeCtr :=
  by
  unfold State.setTile; split
  · exact State.setLive_fields s _ _
  · simp

/-! ## Cores and strands -/

theorem State.core_setCore (s : State) (c : Nat) (v : Core) (j : Nat) :
    (s.setCore c v).core j = if j = c then v else s.core j := AMap.get_put ..
@[simp] theorem State.core_setCore_same (s : State) (c : Nat) (v : Core) : (s.setCore c v).core c = v := AMap.get_put_same ..
theorem State.core_setCore_other (s : State) {c j : Nat} (v : Core) (h : j ≠ c) : (s.setCore c v).core j = s.core j :=
  AMap.get_put_other _ _ _ _ h
@[simp] theorem State.core_setLive_same (s : State) (c : Nat) (v : CoreCtx) :
    (s.setLive c v).core c = { s.core c with live := v } := State.core_setCore_same ..
theorem State.core_setLive_other (s : State) {c j : Nat} (v : CoreCtx) (h : j ≠ c) : (s.setLive c v).core j = s.core j :=
  State.core_setCore_other _ _ h
@[simp] theorem State.live_setLive_same (s : State) (c : Nat) (v : CoreCtx) : (s.setLive c v).live c = v := by
  simp [State.live]
theorem State.live_setLive_other (s : State) {c j : Nat} (v : CoreCtx) (h : j ≠ c) : (s.setLive c v).live j = s.live j := by
  unfold State.live; rw [State.core_setLive_other s v h]
@[simp] theorem State.live_setCore_same (s : State) (c : Nat) (v : Core) : (s.setCore c v).live c = v.live := by
  simp [State.live]
theorem CoreCtx.strand_setStrand (l : CoreCtx) (n : Nat) (v : Strand) (j : Nat) :
    (l.setStrand n v).strand j = if j = n then v else l.strand j := AMap.get_put ..
@[simp] theorem CoreCtx.strand_setStrand_same (l : CoreCtx) (n : Nat) (v : Strand) : (l.setStrand n v).strand n = v :=
  AMap.get_put_same ..
@[simp] theorem State.strand_setStrand_same (s : State) (w : Who) (v : Strand) : (s.setStrand w v).strand w = v := by
  simp [State.strand, State.setStrand]
theorem State.strand_setStrand_other (s : State) {w x : Who} (v : Strand) (h : x ≠ w) :
    (s.setStrand w v).strand x = s.strand x := by
  obtain ⟨c, n⟩ := w; obtain ⟨d, m⟩ := x
  by_cases hc : d = c
  · subst hc
    have hm : m ≠ n := fun e => h (by rw [e])
    simp [State.strand, State.setStrand, CoreCtx.strand_setStrand, hm]
  · simp [State.strand, State.setStrand, State.live_setLive_other s _ hc]

/-! ## Control registers, kernels -/

theorem State.ctl_setCtl (s : State) (pa : Nat) (v : Word) (q : Nat) :
    (s.setCtl pa v).ctl q = if q = pa then v else s.ctl q := AMap.get_put ..

end Sys2Proof.Machine
end

