-- ==== Sys2Proof/Laws/Ops.lean ====
section
/-!
SUPPORT. What each shared operation can do, said once: the frame of every instruction, retirement, registers, the trap entry.
-/
namespace Sys2Proof.Machine

/-! ## The frame of every instruction -/

theorem opReady_of_able {s : State} {w : Who} {o : Opnd} (h : able s w o = true) : opReady s w o = true := by
  cases o with
  | src r => simp only [able, Bool.and_eq_true] at h; exact h.2
  | dst r => simp only [able, Bool.and_eq_true] at h; exact h.2
  | tsrc t =>
    simp only [able] at h; simp only [opReady]
    cases hp : (s.strand w).poolTile t with
    | none => rfl
    | some p => simpa [hp] using h
  | tpart t _ =>
    simp only [able] at h; simp only [opReady]
    cases hp : (s.strand w).poolTile t with
    | none => rfl
    | some p => simpa [hp] using h
  | tdst t =>
    simp only [able] at h; simp only [opReady]
    cases hp : (s.strand w).poolTile t with
    | none => rfl
    | some p => simpa [hp] using h
  | scope e =>
    simp only [able, Bool.or_eq_true, Bool.and_eq_true] at h; simp only [opReady]
    rcases h with h | h
    · have : e = 0 := by simpa using h
      subst this; simp [Strand.pendingReg]
    · exact h.1.2
  | mem => exact h
  | mxq => exact h
  | xfq => exact h
  | twhole _ => rfl
  | tname _ => rfl
  | slot _ => rfl
  | preds => rfl
  | status _ => rfl
  | sys => rfl
  | feat _ => rfl

theorem tile_held {st : Strand} {t : Tile} (h : (st.poolTile t).isSome = true) : t.toNat < st.hold.tile.length := by
  unfold Strand.poolTile at h
  by_cases hl : t.toNat < st.hold.tile.length
  · exact hl
  · rw [List.getElem?_eq_none (by omega)] at h; cases h

theorem privTrap_of_able {s : State} {w : Who} {o : Opnd} (h : able s w o = true) : privTrap s w o = none := by
  cases o <;> first | rfl | skip
  simp only [able] at h
  simp only [privTrap]
  rw [if_neg (by simpa using h)]

theorem heldTrap_of_able {s : State} {w : Who} {o : Opnd} (h : able s w o = true) : heldTrap s w o = none := by
  cases o with
  | src r => simp only [able, Bool.and_eq_true] at h; simp only [heldTrap]; rw [if_pos h.1]
  | dst r => simp only [able, Bool.and_eq_true] at h; simp only [heldTrap]; rw [if_pos h.1]
  | tsrc t =>
    simp only [able] at h; simp only [heldTrap]
    rw [if_pos]; apply tile_held
    cases hp : (s.strand w).poolTile t with
    | none => rw [hp] at h; cases h
    | some p => rfl
  | tpart t _ =>
    simp only [able] at h; simp only [heldTrap]
    rw [if_pos]; apply tile_held
    cases hp : (s.strand w).poolTile t with
    | none => rw [hp] at h; cases h
    | some p => rfl
  | tdst t =>
    simp only [able] at h; simp only [heldTrap]
    rw [if_pos]; apply tile_held
    cases hp : (s.strand w).poolTile t with
    | none => rw [hp] at h; cases h
    | some p => rfl
  | tname t => simp only [heldTrap]; rw [if_pos (tile_held h)]
  | slot n => simp only [heldTrap]; rw [if_pos (by simpa [able] using h)]
  | scope e =>
    simp only [able, Bool.or_eq_true, Bool.and_eq_true] at h; simp only [heldTrap]
    rcases h with h | h
    · rw [if_pos (by simpa using h)]
    · split
      · rfl
      · rw [if_pos h.1.1, if_pos h.2]
  | mem => rfl
  | mxq => rfl
  | xfq => rfl
  | twhole _ => rfl
  | preds => rfl
  | status _ => rfl
  | sys => rfl
  | feat _ => rfl

theorem featTrap_of_able {s : State} {w : Who} {o : Opnd} (h : able s w o = true) : featTrap s o = none := by
  cases o <;> first | rfl | skip
  simp only [able] at h
  simp only [featTrap]
  rw [if_pos h]

theorem opTrap_of_able {s : State} {w : Who} {ops : List Opnd} (hp : (s.live w.core).perr = [])
    (h : ∀ o ∈ ops, able s w o = true) : s.opTrap w ops = none := by
  have h4 := List.findSome?_eq_none_iff.mpr (fun o ho => privTrap_of_able (h o ho))
  have h5 := List.findSome?_eq_none_iff.mpr (fun o ho => heldTrap_of_able (h o ho))
  have h6 := List.findSome?_eq_none_iff.mpr (fun o ho => featTrap_of_able (h o ho))
  simp only [State.opTrap, h4, h5, h6, hp, if_true]

/-- An able instruction runs its body, and ends as the body says. -/
theorem runInstr_able {s : State} {f : Form} {ops : List Opnd} (body : State → Who → Except Trap Ans) (h : Able s f ops) :
    runInstr f ops body s =
      match body s s.cur with
      | .error t => traps s f t
      | .ok (.retire s' eu) => retires s f ops eu s'
      | .ok (.jump s' pc eu) => jumps s ops eu pc s'
      | .ok (.sysEntry s' code eu) =>
        .next ((s'.jumpTo s.cur (s.strand s.cur).pc eu).enter s.cur { code := .illop, info := code } 0 (s.strand s.cur).pc
          ((s.strand s.cur).pc + BitVec.ofNat 64 (lenBytes f.len)) true)
      | .ok (.hold s') => .next s' := by
  obtain ⟨hg, hp, ho⟩ := h
  unfold runInstr
  have h1 : ¬(f.pg ≠ 0 ∧ (s.live s.cur.core).perr.contains (.pred s.cur.strand) = true) := by rw [hp]; simp
  have h2 : s.opsReady s.cur ops = true := by
    unfold State.opsReady; rw [List.all_eq_true]; exact fun o hm => opReady_of_able (ho o hm)
  simp only [h1, if_false, hg, h2, Bool.not_true, opTrap_of_able hp ho]
  simp only [Bool.false_eq_true, if_false]
  cases body s s.cur with
  | error t => rfl
  | ok a => cases a <;> rfl

theorem runInstr_retires {s s' : State} {f : Form} {ops : List Opnd} {eu : Nat} {body : State → Who → Except Trap Ans}
    (h : Able s f ops) (hb : body s s.cur = .ok (.retire s' eu)) : runInstr f ops body s = retires s f ops eu s' := by
  rw [runInstr_able body h, hb]
theorem runInstr_jumps {s s' : State} {f : Form} {ops : List Opnd} {eu : Nat} {pc : Word} {body : State → Who → Except Trap Ans}
    (h : Able s f ops) (hb : body s s.cur = .ok (.jump s' pc eu)) : runInstr f ops body s = jumps s ops eu pc s' := by
  rw [runInstr_able body h, hb]
theorem runInstr_holds {s s' : State} {f : Form} {ops : List Opnd} {body : State → Who → Except Trap Ans}
    (h : Able s f ops) (hb : body s s.cur = .ok (.hold s')) : runInstr f ops body s = .next s' := by
  rw [runInstr_able body h, hb]
theorem runInstr_traps {s : State} {f : Form} {ops : List Opnd} {t : Trap} {body : State → Who → Except Trap Ans}
    (h : Able s f ops) (hb : body s s.cur = .error t) : runInstr f ops body s = traps s f t := by
  rw [runInstr_able body h, hb]

/-- A guard that reads false: the instruction only moves past, for 1 eu (R7). -/
theorem runInstr_unguarded {s : State} {f : Form} {ops : List Opnd} (body : State → Who → Except Trap Ans)
    (hp : (s.live s.cur.core).perr = []) (hg : (s.strand s.cur).guard f = false) :
    runInstr f ops body s = .next (s.retire s.cur (lenBytes f.len) 1) := by
  unfold runInstr
  have h1 : ¬(f.pg ≠ 0 ∧ (s.live s.cur.core).perr.contains (.pred s.cur.strand) = true) := by rw [hp]; simp
  simp only [h1, if_false, hg, Bool.not_false, if_true]

/-! ## Retirement -/

/-- A level keeps its bounds. -/
theorem loopLevel_keeps {r : LoopRegs} {a : Word} {q : LoopRegs × Option Word} (h : loopLevel r a = some q) :
    ({ q.1 with count := 0 } : LoopRegs) = { r with count := 0 } := by
  unfold loopLevel at h
  repeat' split at h
  all_goals cases h <;> rfl
/-- LoopStep moves the PC and the counts of the loops alone (R102). -/
theorem loopStep_keeps (st : Strand) (a : Word) : (st.loopStep a).still = st.still := by
  have k := fun r q (h : loopLevel r a = some q) => loopLevel_keeps h
  have k3 := k st.loop3
  have k2 := k st.loop2
  have k1 := k st.loop1
  have k0 := k st.loop0
  clear k
  unfold Strand.loopStep
  rcases h3 : loopLevel st.loop3 a with _ | ⟨r3, _ | _⟩ <;> rcases h2 : loopLevel st.loop2 a with _ | ⟨r2, _ | _⟩ <;>
    rcases h1 : loopLevel st.loop1 a with _ | ⟨r1, _ | _⟩ <;> rcases h0 : loopLevel st.loop0 a with _ | ⟨r0, _ | _⟩ <;>
    simp_all [Strand.still]

theorem charge_others (l : CoreCtx) (eu : Nat) : (l.charge eu).others = l.others := by
  unfold CoreCtx.charge; split <;> rfl
theorem charge_regs (l : CoreCtx) (eu : Nat) : (l.charge eu).regs = l.regs ∧ (l.charge eu).tiles = l.tiles ∧
    (l.charge eu).tags = l.tags ∧ (l.charge eu).strands = l.strands ∧ (l.charge eu).perr = l.perr := by
  unfold CoreCtx.charge; split <;> exact ⟨rfl, rfl, rfl, rfl, rfl⟩
theorem charge_strand (l : CoreCtx) (eu n : Nat) : (l.charge eu).strand n = l.strand n := by
  unfold CoreCtx.strand; rw [(charge_regs l eu).2.2.2.1]

theorem still_pc_wait (st : Strand) (pc : Word) (wt : Option Wait) : ({ st with pc := pc, wait := wt } : Strand).still = st.still := rfl

theorem CoreFrame.refl (s : State) (b : Strand → Strand) (ds : List Reg) (tds : List Tile) : CoreFrame s s b ds tds :=
  ⟨fun _ _ => rfl, rfl, rfl, fun _ _ => rfl, rfl, fun _ _ => rfl, fun _ _ => rfl, fun _ _ => rfl⟩
theorem NothingElse.refl (s : State) : NothingElse s s := ⟨rfl, fun _ => rfl, fun _ => rfl⟩

/-- An update of the executing core's context state, its strands kept. -/
theorem CoreFrame.setLive {s t : State} {b : Strand → Strand} {ds : List Reg} {tds : List Tile} {l : CoreCtx}
    (h : CoreFrame s t b ds tds) (ho : l.others = (t.live s.cur.core).others) (hs : l.strands = (t.live s.cur.core).strands)
    (hr : ∀ p, (∀ d ∈ ds, d = 0 ∨ (s.strand s.cur).regPlace s.cur.strand d ≠ some p) →
      AMap.get 0 l.regs p = AMap.get 0 (t.live s.cur.core).regs p)
    (ht : ∀ p, (∀ d ∈ tds, (s.strand s.cur).poolTile d ≠ some (p / 16)) → AMap.get 0 l.tiles p = AMap.get 0 (t.live s.cur.core).tiles p)
    (hg : ∀ p, (∀ d ∈ tds, (s.strand s.cur).poolTile d ≠ some p) → l.tag p = (t.live s.cur.core).tag p) :
    CoreFrame s (t.setLive s.cur.core l) b ds tds where
  cores c hc := by rw [State.core_setLive_other t l hc]; exact h.cores c hc
  core := by rw [State.core_setLive_same]; exact h.core
  live := by rw [State.live_setLive_same, ho]; exact h.live
  strands n hn := by
    rw [State.live_setLive_same]; unfold CoreCtx.strand; rw [hs]; exact h.strands n hn
  strand := by
    have : (t.setLive s.cur.core l).strand s.cur = t.strand s.cur := by
      unfold State.strand; rw [State.live_setLive_same]; unfold CoreCtx.strand; rw [hs]
    rw [this]; exact h.strand
  regs p hp := by rw [State.live_setLive_same, hr p hp]; exact h.regs p hp
  tiles p hp := by rw [State.live_setLive_same, ht p hp]; exact h.tiles p hp
  tags p hp := by rw [State.live_setLive_same, hg p hp]; exact h.tags p hp

/-- A register of the executing strand written: the strand of t holds the blocks that the strand of s holds. -/
theorem CoreFrame.setReg {s t : State} {b : Strand → Strand} {ds : List Reg} {tds : List Tile} {d : Reg} {v : Word}
    (h : CoreFrame s t b ds tds) (hd : d ∈ ds) (hh : (t.strand s.cur).hold = (s.strand s.cur).hold) :
    CoreFrame s (t.setReg s.cur d v) b ds tds := by
  rcases t.setReg_cases s.cur d v with e | ⟨q, hz, hq, e⟩
  · rw [e]; exact h
  · rw [e]
    have hq' : (s.strand s.cur).regPlace s.cur.strand d = some q := by
      unfold Strand.regPlace at hq ⊢; rw [← hh]; exact hq
    refine h.setLive rfl rfl (fun p hp => ?_) (fun _ _ => rfl) (fun _ _ => rfl)
    have : p ≠ q := by
      intro e; subst e
      rcases hp d hd with h0 | h0
      · exact hz h0
      · exact h0 hq'
    exact AMap.get_put_other _ _ _ _ this

/-- The executing strand replaced by one that blanks to the same. -/
theorem CoreFrame.setStrand {s t : State} {b : Strand → Strand} {ds : List Reg} {tds : List Tile} {st : Strand}
    (h : CoreFrame s t b ds tds) (hs : b st.still = b (t.strand s.cur).still) : CoreFrame s (t.setStrand s.cur st) b ds tds where
  cores c hc := by unfold State.setStrand; rw [State.core_setLive_other t _ hc]; exact h.cores c hc
  core := by unfold State.setStrand; rw [State.core_setLive_same]; exact h.core
  live := by unfold State.setStrand; rw [State.live_setLive_same]; exact h.live
  strands n hn := by
    unfold State.setStrand; rw [State.live_setLive_same, CoreCtx.strand_setStrand, if_neg hn]; exact h.strands n hn
  strand := by rw [State.strand_setStrand_same, hs]; exact h.strand
  regs p hp := by unfold State.setStrand; rw [State.live_setLive_same]; exact h.regs p hp
  tiles p hp := by unfold State.setStrand; rw [State.live_setLive_same]; exact h.tiles p hp
  tags p hp := by unfold State.setStrand; rw [State.live_setLive_same]; exact h.tags p hp

theorem CoreFrame.clearErrs {s t : State} {b : Strand → Strand} {ds : List Reg} {tds : List Tile} (ops : List Opnd)
    (h : CoreFrame s t b ds tds) : CoreFrame s (t.clearErrs s.cur ops) b ds tds := by
  unfold State.clearErrs
  split
  · exact h
  · exact h.setLive rfl rfl (fun _ _ => rfl) (fun _ _ => rfl) (fun _ _ => rfl)

theorem CoreFrame.retire {s t : State} {b : Strand → Strand} {ds : List Reg} {tds : List Tile} (len eu : Nat)
    (h : CoreFrame s t b ds tds) : CoreFrame s (t.retire s.cur len eu) b ds tds where
  cores c hc := by unfold State.retire; rw [State.core_setCore_other t _ hc]; exact h.cores c hc
  core := by unfold State.retire; rw [State.core_setCore_same]; exact h.core
  live := by
    unfold State.retire; rw [State.live_setCore_same, charge_others]; exact h.live
  strands n hn := by
    unfold State.retire
    rw [State.live_setCore_same, charge_strand, CoreCtx.strand_setStrand, if_neg hn]; exact h.strands n hn
  strand := by
    unfold State.retire State.strand
    rw [State.live_setCore_same, charge_strand, CoreCtx.strand_setStrand_same, loopStep_keeps, still_pc_wait]; exact h.strand
  regs p hp := by
    unfold State.retire; rw [State.live_setCore_same, (charge_regs _ _).1]; exact h.regs p hp
  tiles p hp := by
    unfold State.retire; rw [State.live_setCore_same, (charge_regs _ _).2.1]; exact h.tiles p hp
  tags p hp := by
    unfold State.retire CoreCtx.tag; rw [State.live_setCore_same, (charge_regs _ _).2.2.1]; exact h.tags p hp

theorem CoreFrame.jumpTo {s t : State} {b : Strand → Strand} {ds : List Reg} {tds : List Tile} (pc : Word) (eu : Nat)
    (h : CoreFrame s t b ds tds) : CoreFrame s (t.jumpTo s.cur pc eu) b ds tds where
  cores c hc := by unfold State.jumpTo; rw [State.core_setCore_other t _ hc]; exact h.cores c hc
  core := by unfold State.jumpTo; rw [State.core_setCore_same]; exact h.core
  live := by unfold State.jumpTo; rw [State.live_setCore_same, charge_others]; exact h.live
  strands n hn := by
    unfold State.jumpTo
    rw [State.live_setCore_same, charge_strand, CoreCtx.strand_setStrand, if_neg hn]; exact h.strands n hn
  strand := by
    unfold State.jumpTo State.strand
    rw [State.live_setCore_same, charge_strand, CoreCtx.strand_setStrand_same, still_pc_wait]; exact h.strand
  regs p hp := by unfold State.jumpTo; rw [State.live_setCore_same, (charge_regs _ _).1]; exact h.regs p hp
  tiles p hp := by unfold State.jumpTo; rw [State.live_setCore_same, (charge_regs _ _).2.1]; exact h.tiles p hp
  tags p hp := by
    unfold State.jumpTo CoreCtx.tag; rw [State.live_setCore_same, (charge_regs _ _).2.2.1]; exact h.tags p hp

/-- A core changed, its translations kept. -/
theorem NothingElse.setCore {s t : State} {c : Nat} {v : Core} (h : NothingElse s t) (ht : v.tlb = (t.core c).tlb) :
    NothingElse s (t.setCore c v) := by
  refine ⟨h.rest, h.bytes, fun j => ?_⟩
  rw [State.core_setCore]
  split
  · rename_i e; rw [ht, e]; exact h.tlbs c
  · exact h.tlbs j
theorem NothingElse.setLive {s t : State} {c : Nat} {v : CoreCtx} (h : NothingElse s t) : NothingElse s (t.setLive c v) :=
  h.setCore rfl
theorem NothingElse.setStrand {s t : State} {w : Who} {v : Strand} (h : NothingElse s t) : NothingElse s (t.setStrand w v) :=
  h.setLive
theorem NothingElse.setReg {s t : State} {w : Who} {d : Reg} {v : Word} (h : NothingElse s t) : NothingElse s (t.setReg w d v) := by
  rcases t.setReg_cases w d v with e | ⟨q, -, -, e⟩ <;> rw [e]
  · exact h
  · exact h.setLive
theorem NothingElse.clearErrs {s t : State} {w : Who} (ops : List Opnd) (h : NothingElse s t) : NothingElse s (t.clearErrs w ops) := by
  unfold State.clearErrs; split
  · exact h
  · exact h.setLive
theorem NothingElse.retire {s t : State} {w : Who} (len eu : Nat) (h : NothingElse s t) : NothingElse s (t.retire w len eu) :=
  h.setCore rfl
theorem NothingElse.jumpTo {s t : State} {w : Who} (pc : Word) (eu : Nat) (h : NothingElse s t) : NothingElse s (t.jumpTo w pc eu) :=
  h.setCore rfl

/-! ## Registers -/

/-- What a register holds once it has been written. -/
theorem reg_setReg_same {s : State} {w : Who} {d : Reg} (v : Word) (h : (s.strand w).holds d = true) :
    (s.setReg w d v).reg w d = if d = 0 then 0 else v := by
  by_cases hz : d = 0
  · simp [State.reg, hz]
  · rw [if_neg hz]
    have hp : ∃ p, (s.strand w).regPlace w.strand d = some p := by
      unfold Strand.holds at h; unfold Strand.regPlace
      by_cases h0 : d.toNat / 16 = 0
      · exact ⟨_, by rw [if_pos h0]⟩
      · have hl : d.toNat / 16 - 1 < (s.strand w).hold.reg.length := by
          have := of_decide_eq_true h; omega
        exact ⟨_, by rw [if_neg h0, List.getElem?_eq_getElem hl]; rfl⟩
    obtain ⟨p, hp⟩ := hp
    have e : s.setReg w d v = s.setLive w.core { s.live w.core with
        regs := AMap.put (s.live w.core).regs p v, perr := (s.live w.core).perr.filter (fun e => e != .reg p) } := by
      unfold State.setReg; rw [if_neg hz, hp]
    have hs : (s.setReg w d v).strand w = s.strand w := by
      rw [e]; unfold State.strand; rw [State.live_setLive_same]; rfl
    unfold State.reg
    rw [if_neg hz, hs, hp, e, State.live_setLive_same]
    simp

/-! ## The trap entry (R404, R405) -/

/-- Entry into the level above: the strand takes that level's privilege, waits on nothing, and is TRAPPED but after a sys. -/
theorem enter_strand (s : State) (w : Who) (t : Trap) (tc : Nat) (pc npc : Word) (y : Bool) :
    ((s.enter w t tc pc npc y).strand w).priv = privUp (s.strand w).priv ∧ ((s.enter w t tc pc npc y).strand w).wait = none ∧
      ((s.enter w t tc pc npc y).strand w).trapped = (if y then (s.strand w).trapped else true) := by
  simp only [State.enter, State.strand_setStrand_same, and_self]

/-- Taking a trap answers a next state, in which the strand is TRAPPED (R132, R404). -/
theorem takeTrap_next (s : State) (w : Who) (t : Trap) (pc npc : Word) :
    ∃ u, s.takeTrap w t pc npc = .next u ∧ (u.strand w).trapped = true := by
  refine ⟨_, rfl, ?_⟩
  rw [(enter_strand ..).2.2]; rfl

end Sys2Proof.Machine
end

