-- ==== Sys2Proof/Laws/PerInstr.lean ====
section
/-!
SUPPORT. Family RoundTrip: the fields of a well-formed instruction fit its length and read as the instruction, one lemma
per constructor of Instr.
-/
set_option Elab.async false
namespace Sys2Proof.Laws.RoundTrip

/-- A 32-bit form has no second word and no literal; a literal stands only in the 96-bit and 128-bit forms. -/
def fits (r : Raw) : Prop :=
  (r.len = 0 → r.x16 = 0 ∧ r.md = 0 ∧ r.ty = 0 ∧ r.pg = 0 ∧ r.pn = false) ∧
  (r.len = 0 ∨ r.len = 1 → r.lit = 0) ∧ (r.len = 2 → r.lit = (r.lit.setWidth 32).setWidth 64)

/-- The fields of a well-formed instruction fit its length, and read as the instruction. -/
def Statement (i : Instr) : Prop := i.wf = true → ∀ r, i.toRaw = some r → fits r ∧ Instr.read r = some i

theorem step_law {i : Instr} (h : i.toRaw = none) : Statement i := by
  intro _ r hr; rw [h] at hr; cases hr

theorem len_cases (l : BitVec 2) : l = 0 ∨ l = 1 ∨ l = 2 ∨ l = 3 := by revert l; decide
theorem ty_code (t : Ty) : Ty.ofCode t.code = t := by cases t <;> rfl
theorem tile_field (t : BitVec 4) : BitVec.extractLsb' 0 4 (0#2 ++ t) = t := by revert t; decide
theorem e_field (e : BitVec 6) : BitVec.extractLsb' 10 6 (e ++ 0#10) = e := by revert e; decide
theorem tc_field (t : BitVec 4) : BitVec.extractLsb' 12 4 (t ++ 0#12) = t := by revert t; decide
theorem te_field (t : BitVec 4) : BitVec.extractLsb' 8 4 (0#4 ++ t ++ 0#8) = t := by revert t; decide
theorem id_field (t : BitVec 4) : BitVec.extractLsb' 0 4 (0#12 ++ t) = t := by revert t; decide
theorem off24 (o : BitVec 24) :
    BitVec.extractLsb' 18 6 o ++ BitVec.extractLsb' 12 6 o ++ BitVec.extractLsb' 6 6 o ++ BitVec.extractLsb' 0 6 o = o := by
  rw [BitVec.extractLsb'_append_extractLsb'_eq_extractLsb' (by omega), BitVec.extractLsb'_append_extractLsb'_eq_extractLsb' (by omega),
    BitVec.extractLsb'_append_extractLsb'_eq_extractLsb' (by omega)]
  exact BitVec.extractLsb'_eq_self
theorem off18 (o : BitVec 18) :
    BitVec.extractLsb' 12 6 o ++ BitVec.extractLsb' 6 6 o ++ BitVec.extractLsb' 0 6 o = o := by
  rw [BitVec.extractLsb'_append_extractLsb'_eq_extractLsb' (by omega), BitVec.extractLsb'_append_extractLsb'_eq_extractLsb' (by omega)]
  exact BitVec.extractLsb'_eq_self
theorem off12 (o : BitVec 12) : BitVec.extractLsb' 6 6 o ++ BitVec.extractLsb' 0 6 o = o := by
  apply BitVec.eq_of_getLsbD_eq; intro i hi
  simp only [BitVec.getLsbD_append, BitVec.getLsbD_extractLsb']
  split <;> simp_all; omega


theorem form_len {f : Form} {lens : List (BitVec 2)} (h : f.wf lens = true) : f.len ∈ lens := by
  simp only [Form.wf, Bool.and_eq_true, List.contains_eq_mem, decide_eq_true_eq] at h; exact h.1.1
theorem form_none {f : Form} {lens : List (BitVec 2)} (h : f.wf lens = true) (h0 : f.len = 0) : f.pg = 0 ∧ f.pn = false := by
  simp only [Form.wf, Bool.and_eq_true, h0] at h; simpa using h.1.2
theorem ty_none {f : Form} {t : Ty} {p : Ty → Bool} (h : f.tyOk t p = true) (h0 : f.len = 0) : t.code = 0 := by
  simp only [Form.tyOk, Bool.and_eq_true, h0] at h
  have : t = .i64 := by simpa using h.2
  rw [this]; rfl
theorem z_none {f : Form} {n : Nat} {v : BitVec n} (h : f.z v = true) (h0 : f.len = 0) : v = 0 := by
  simpa [Form.z, h0] using h

/-- A form whose fields of the second word are zero where it has none, without a literal. -/
theorem fits_plain {r : Raw} {f : Form} {lens : List (BitVec 2)} (h : f.wf lens = true) (hl : r.len = f.len) (hg : r.pg = f.pg)
    (hn : r.pn = f.pn) (h0 : f.len = 0 → r.x16 = 0 ∧ r.md = 0 ∧ r.ty = 0) (hlit : r.lit = 0) : fits r := by
  refine ⟨fun e => ?_, fun _ => hlit, fun _ => by rw [hlit]; rfl⟩
  rw [hl] at e
  obtain ⟨hx, hm, ht⟩ := h0 e
  obtain ⟨p1, p2⟩ := form_none h e
  exact ⟨hx, hm, ht, by rw [hg, p1], by rw [hn, p2]⟩

/-- A form whose literal is that of a source. -/
theorem fits_src {r : Raw} {f : Form} {lens : List (BitVec 2)} {b : Src} (h : f.wf lens = true) (hb : b.wf f = true)
    (hl : r.len = f.len) (hg : r.pg = f.pg) (hn : r.pn = f.pn) (h0 : f.len = 0 → r.x16 = 0 ∧ r.md = 0 ∧ r.ty = 0)
    (hlit : r.lit = b.lit) : fits r := by
  refine ⟨fun e => ?_, fun e => ?_, fun e => ?_⟩
  · rw [hl] at e
    obtain ⟨hx, hm, ht⟩ := h0 e
    obtain ⟨p1, p2⟩ := form_none h e
    exact ⟨hx, hm, ht, by rw [hg, p1], by rw [hn, p2]⟩
  · rw [hl] at e
    rw [hlit]
    cases b with
    | reg _ => rfl
    | lit32 v => rcases e with e | e <;> simp [Src.wf, e] at hb
    | lit64 v => rcases e with e | e <;> simp [Src.wf, e] at hb
  · rw [hl] at e
    rw [hlit]
    cases b with
    | reg _ => rfl
    | lit32 v => simp [Src.lit]
    | lit64 v => simp [Src.wf, e] at hb

/-- A source read back. -/
theorem src_read {r : Raw} {f : Form} {b : Src} {x : Reg} (hb : b.wf f = true) (hl : r.len = f.len) (hf : x = b.field)
    (hlit : r.lit = b.lit) :
    (if r.len = 2 then Src.lit32 (r.lit.setWidth 32) else if r.len = 3 then .lit64 r.lit else .reg x) = b := by
  cases b with
  | reg y =>
    have : f.len = 0 ∨ f.len = 1 := by simpa [Src.wf] using hb
    rw [hl, hf]
    rcases this with e | e <;> rw [e] <;> rfl
  | lit32 v =>
    have e : f.len = 2 := by simpa [Src.wf] using hb
    rw [hl, e, if_pos rfl, hlit]; simp [Src.lit]
  | lit64 v =>
    have e : f.len = 3 := by simpa [Src.wf] using hb
    rw [hl, e, hlit]; rfl
theorem src_back {r : Raw} {f : Form} {b : Src} (hb : b.wf f = true) (hl : r.len = f.len) (hf : r.b = b.field)
    (hlit : r.lit = b.lit) : r.src = b := src_read hb hl hf hlit
theorem srcA_back {r : Raw} {f : Form} {b : Src} (hb : b.wf f = true) (hl : r.len = f.len) (hf : r.a = b.field)
    (hlit : r.lit = b.lit) : r.srcA = b := src_read hb hl hf hlit

theorem sty_back (t : Ty) : Ty.ofCode (BitVec.extractLsb' 0 4 (0#4 ++ t.code)) = t := by cases t <;> rfl
theorem imm8_field (n : BitVec 8) : BitVec.extractLsb' 0 8 (0#8 ++ n) = n := by revert n; decide
theorem low32 (v : BitVec 32) : (v.setWidth 64).setWidth 32 = v := by simp
theorem x16_e {e : BitVec 6} (h : e = 0) : e ++ 0#10 = 0 := by rw [h]; rfl

theorem read_op (r : Raw) (n : Nat) (h : r.op6.toNat = n) : Instr.read r = Instr.read { r with op6 := BitVec.ofNat 6 n } := by
  have : r.op6 = BitVec.ofNat 6 n := by rw [← h]; simp
  rw [← this]

theorem withImm_len (r : Raw) (v : Imm) : (r.withImm v).len = r.len := by unfold Raw.withImm; split <;> rfl
theorem withImm_op6 (r : Raw) (v : Imm) : (r.withImm v).op6 = r.op6 := by unfold Raw.withImm; split <;> rfl
theorem withImm_d (r : Raw) (v : Imm) : (r.withImm v).d = r.d := by unfold Raw.withImm; split <;> rfl
theorem withImm_a (r : Raw) (v : Imm) : (r.withImm v).a = r.a := by unfold Raw.withImm; split <;> rfl
theorem withImm_ty (r : Raw) (v : Imm) : (r.withImm v).ty = r.ty := by unfold Raw.withImm; split <;> rfl
theorem withImm_md (r : Raw) (v : Imm) : (r.withImm v).md = r.md := by unfold Raw.withImm; split <;> rfl
theorem withImm_pg (r : Raw) (v : Imm) : (r.withImm v).pg = r.pg := by unfold Raw.withImm; split <;> rfl
theorem withImm_pn (r : Raw) (v : Imm) : (r.withImm v).pn = r.pn := by unfold Raw.withImm; split <;> rfl

theorem imm_back {r : Raw} {v : Imm} (h : immOk r.len v = true) : (r.withImm v).immI = v := by
  unfold Raw.immI; rw [withImm_len]; unfold Raw.withImm
  rcases len_cases r.len with e | e | e | e <;> simp only [e] at h ⊢
  · have h' := h; simp only [immOk] at h'
    have e12 : BitVec.extractLsb' 6 6 v ++ BitVec.extractLsb' 0 6 v = v.setWidth 12 := by
      rw [BitVec.extractLsb'_append_extractLsb'_eq_extractLsb' (by omega)]
      apply BitVec.eq_of_getLsbD_eq; intro i hi
      simp [BitVec.getLsbD_setWidth]
    have : v = (v.setWidth 12).signExtend 64 := by simpa using h'
    show (BitVec.extractLsb' 6 6 v ++ BitVec.extractLsb' 0 6 v).signExtend 64 = v
    rw [e12]; exact this.symm
  · have : v = (v.setWidth 16).signExtend 64 := by simpa [immOk] using h
    exact this.symm
  · have : v = (v.setWidth 32).signExtend 64 := by simpa [immOk] using h
    show ((((v.setWidth 32).setWidth 64).setWidth 32).signExtend 64) = v
    rw [low32]; exact this.symm
  · rfl

theorem fits_imm {r : Raw} {f : Form} {lens : List (BitVec 2)} {v : Imm} (h : f.wf lens = true) (hl : r.len = f.len) (hg : r.pg = f.pg)
    (hn : r.pn = f.pn) (h0 : f.len = 0 → r.x16 = 0 ∧ r.md = 0 ∧ r.ty = 0) (hlit : f.len = 0 ∨ f.len = 1 → r.lit = 0) :
    fits (r.withImm v) := by
  unfold fits; rw [withImm_len, withImm_md, withImm_ty, withImm_pg, withImm_pn, hl]
  refine ⟨fun e => ?_, fun e => ?_, fun e => ?_⟩
  · obtain ⟨hx, hm, ht⟩ := h0 e
    obtain ⟨p1, p2⟩ := form_none h e
    have hl' : r.len = 0 := by rw [hl, e]
    exact ⟨by simp [Raw.withImm, hl', hx], hm, ht, by rw [hg, p1], by rw [hn, p2]⟩
  · rcases e with e | e
    · have hl' : r.len = 0 := by rw [hl, e]
      simp [Raw.withImm, hl', hlit (Or.inl e)]
    · have hl' : r.len = 1 := by rw [hl, e]
      simp [Raw.withImm, hl', hlit (Or.inr e)]
  · have hl' : r.len = 2 := by rw [hl, e]
    simp [Raw.withImm, hl']

theorem fits_lit {r : Raw} {f : Form} {lens : List (BitVec 2)} {v : BitVec 32} (h : f.wf lens = true) (hl : r.len = f.len)
    (hg : r.pg = f.pg) (hn : r.pn = f.pn) (h0 : f.len = 0 → r.x16 = 0 ∧ r.md = 0 ∧ r.ty = 0)
    (hv : (f.len == 2 || v == 0) = true) (hlit : r.lit = v.setWidth 64) : fits r := by
  refine ⟨fun e => ?_, fun e => ?_, fun e => ?_⟩
  · rw [hl] at e
    obtain ⟨hx, hm, ht⟩ := h0 e
    obtain ⟨p1, p2⟩ := form_none h e
    exact ⟨hx, hm, ht, by rw [hg, p1], by rw [hn, p2]⟩
  · rw [hl] at e
    have : v = 0 := by rcases e with e | e <;> simpa [e] using hv
    rw [hlit, this]; rfl
  · rw [hlit, low32]

theorem wadj_gen (t : Tile) (k : BitVec 3) (r a : BitVec 1) (o : BitVec 3) :
    (t ++ 0#4 ++ k ++ r ++ a ++ o).extractLsb' 12 4 = t := by
  apply BitVec.eq_of_getLsbD_eq; intro i hi
  simp only [BitVec.getLsbD_append, BitVec.getLsbD_extractLsb', hi, decide_true, Bool.true_and]
  rw [if_neg (by omega), if_neg (by omega), if_neg (by omega), if_neg (by omega), if_neg (by omega)]
  congr 1
  omega
theorem wadj_op (t : Tile) (k : BitVec 3) (r a : BitVec 1) (o : BitVec 3) :
    (t ++ 0#4 ++ k ++ r ++ a ++ o).extractLsb' 0 3 = o := by
  apply BitVec.eq_of_getLsbD_eq; intro i hi
  simp only [BitVec.getLsbD_append, BitVec.getLsbD_extractLsb', hi, decide_true, Bool.true_and]
  rw [if_pos (by omega)]
  congr 1
  omega
theorem wadj_all (t : Tile) (k : BitVec 3) (r a : Bool) (o : BitVec 3) :
    (t ++ 0#4 ++ k ++ BitVec.ofBool r ++ BitVec.ofBool a ++ o).getLsbD 3 = a := by
  rw [BitVec.getLsbD_append, if_neg (by omega), BitVec.getLsbD_append, if_pos (by omega)]; cases a <;> rfl
theorem wadj_row (t : Tile) (k : BitVec 3) (r a : Bool) (o : BitVec 3) :
    (t ++ 0#4 ++ k ++ BitVec.ofBool r ++ BitVec.ofBool a ++ o).getLsbD 4 = r := by
  rw [BitVec.getLsbD_append, if_neg (by omega), BitVec.getLsbD_append, if_neg (by omega), BitVec.getLsbD_append,
    if_pos (by omega)]; cases r <;> rfl
theorem wadj_km1 (t : Tile) (k : BitVec 3) (r a : BitVec 1) (o : BitVec 3) :
    (t ++ 0#4 ++ k ++ r ++ a ++ o).extractLsb' 5 3 = k := by
  apply BitVec.eq_of_getLsbD_eq; intro i hi
  simp only [BitVec.getLsbD_append, BitVec.getLsbD_extractLsb', hi, decide_true, Bool.true_and]
  rw [if_neg (by omega), if_neg (by omega), if_neg (by omega), if_pos (by omega)]
  congr 1
  omega
theorem read_hmass {r : Raw} (h : r.op6 = 0x3C) (hf : r.fn6 = 0x05) :
    Instr.read r = if r.md.getLsbD 0 then some (.hmassSet r.form r.hid r.a) else some (.hmass r.form r.hid r.d) := by
  unfold Instr.read; rw [h]; show read3C r = _; unfold read3C; rw [hf]; rfl
theorem set_row (row : BitVec 4) (col : BitVec 8) : BitVec.extractLsb' 12 4 (row ++ 0#4 ++ col) = row := by
  apply BitVec.eq_of_getLsbD_eq; intro i hi
  simp only [BitVec.getLsbD_append, BitVec.getLsbD_extractLsb', hi, decide_true, Bool.true_and]
  rw [if_neg (by omega), if_neg (by omega)]; congr 1; omega
theorem set_col (row : BitVec 4) (col : BitVec 8) : BitVec.extractLsb' 0 8 (row ++ 0#4 ++ col) = col := by
  apply BitVec.eq_of_getLsbD_eq; intro i hi
  simp only [BitVec.getLsbD_append, BitVec.getLsbD_extractLsb', hi, decide_true, Bool.true_and]
  rw [if_pos (by omega)]; congr 1; omega
theorem read_amo {r : Raw} (h : r.op6 = 0x2C) : Instr.read r = read2C r := by
  unfold Instr.read; rw [h]; rfl
theorem ord_of {r : Raw} {o : Ord} (h : r.fn6.extractLsb' 4 2 = o.code) : r.ord = o := by
  unfold Raw.ord; rw [h]; cases o <;> rfl
/-- The atomics of op6 0x2C: fn6 is the ordering and the operation. -/
theorem amo_back {r : Raw} {ord : Ord} {x : BitVec 4} (hr : r.op6 = 0x2C) (hf : r.fn6 = ord.code ++ x) : Instr.read r =
    (match x.toNat with
    | 0x0 => some (.amoAdd r.form ord r.tyv r.d r.a r.b r.e)
    | 0x1 => some (.amoMin r.form ord r.tyv r.d r.a r.b r.e)
    | 0x2 => some (.amoMax r.form ord r.tyv r.d r.a r.b r.e)
    | 0x3 => some (.amoAnd r.form ord r.tyv r.d r.a r.b r.e)
    | 0x4 => some (.amoOr r.form ord r.tyv r.d r.a r.b r.e)
    | 0x5 => some (.amoXor r.form ord r.tyv r.d r.a r.b r.e)
    | 0x6 => some (.amoSwap r.form ord r.tyv r.d r.a r.b r.e)
    | 0x7 => some (.amoCas r.form ord r.tyv r.d r.a r.b r.e)
    | 0x8 => some (.amoFadd r.form ord r.tyv r.d r.a r.b r.e)
    | 0x9 => some (.amoXacc r.form ord r.tyv r.a r.b r.e)
    | _ => none) := by
  rw [read_amo hr]; unfold read2C
  rw [show r.fn6.extractLsb' 0 4 = x by
      rw [hf]; exact (by decide : ∀ (c : BitVec 2) (x : BitVec 4), BitVec.extractLsb' 0 4 (c ++ x) = x) _ _,
    ord_of (o := ord) (by rw [hf]; exact (by decide : ∀ (c : BitVec 2) (x : BitVec 4), BitVec.extractLsb' 4 2 (c ++ x) = c) _ _)]
  all_goals rfl

/-- The offset of a 32-bit ldn or stn: a multiple of 8 below 512. -/
theorem rank_off {off : BitVec 16} (h1 : off.toNat < 512) (h2 : off.toNat % 8 = 0) :
    (0#7 ++ BitVec.extractLsb' 3 6 off ++ 0#3 : BitVec 16) = off := by
  apply BitVec.eq_of_toNat_eq
  rw [BitVec.toNat_append, BitVec.toNat_append, BitVec.extractLsb'_toNat]
  simp only [BitVec.toNat_ofNat, Nat.zero_mod, Nat.zero_mul, Nat.zero_or, Nat.or_zero, Nat.shiftLeft_eq, Nat.shiftRight_eq_div_pow]
  omega
theorem off_back {f : Form} {off : BitVec 16} {x : BitVec 6} (hx : x = if f.len = 0 then off.extractLsb' 3 6 else 0)
    (h : (f.len != 0 || (decide (off.toNat < 512) && off.toNat % 8 == 0)) = true) :
    (if f.len = 0 then (0#7 ++ x ++ 0#3 : BitVec 16) else if f.len = 0 then 0 else off) = off := by
  by_cases e : f.len = 0
  · have h' : off.toNat < 512 ∧ off.toNat % 8 = 0 := by simpa [e] using h
    rw [if_pos e, hx, if_pos e]
    exact rank_off h'.1 h'.2
  · rw [if_neg e, if_neg e]

theorem x16_conf {f : Form} {c : Bool} (h : (f.len != 0 || !c) = true) (e : f.len = 0) : (0#15 ++ BitVec.ofBool c : BitVec 16) = 0 := by
  have : c = false := by simpa [e] using h
  rw [this]; rfl
theorem md_xfer {f : Form} {xf : BitVec 3} {bud : BitVec 2} (h : (xf == 2 || xf == 3 || bud == 0) = true) (hx : f.z xf = true)
    (e : f.len = 0) : (0#3 ++ bud ++ xf : BitVec 8) = 0 := by
  have hx : xf = 0 := z_none hx e
  have hb : bud = 0 := by simpa [hx] using h
  rw [hx, hb]; rfl

theorem path_back (p : Option (BitVec 2)) :
    (if (pathMd p).getLsbD 2 then some ((pathMd p).extractLsb' 0 2) else none) = p := by
  cases p with
  | none => rfl
  | some v => revert v; decide

theorem iAdd (f : Form) (ty : Ty) (d : Reg) (a : Reg) (b : Src) : Statement (.iAdd f ty d a b) := by
  intro h r hr
  cases hr
  simp only [Instr.wf, Bool.and_eq_true] at h
  obtain ⟨⟨h0, h1⟩, h2⟩ := h
  refine ⟨fits_src h0 h2 rfl rfl rfl (fun e => ⟨rfl, rfl, (ty_none h1 e)⟩) rfl, ?_⟩
  show some (Instr.iAdd f (Ty.ofCode (ty.code)) d a (Raw.src ({ Raw.base f 0x00 0x01 with ty := ty.code, d := d, a := a, b := b.field, lit := b.lit }))) = _
  rw [ty_code, src_back h2 rfl rfl rfl]
theorem iSub (f : Form) (ty : Ty) (d : Reg) (a : Reg) (b : Src) : Statement (.iSub f ty d a b) := by
  intro h r hr
  cases hr
  simp only [Instr.wf, Bool.and_eq_true] at h
  obtain ⟨⟨h0, h1⟩, h2⟩ := h
  refine ⟨fits_src h0 h2 rfl rfl rfl (fun e => ⟨rfl, rfl, (ty_none h1 e)⟩) rfl, ?_⟩
  show some (Instr.iSub f (Ty.ofCode (ty.code)) d a (Raw.src ({ Raw.base f 0x00 0x02 with ty := ty.code, d := d, a := a, b := b.field, lit := b.lit }))) = _
  rw [ty_code, src_back h2 rfl rfl rfl]
theorem iMul (f : Form) (ty : Ty) (d : Reg) (a : Reg) (b : Src) : Statement (.iMul f ty d a b) := by
  intro h r hr
  cases hr
  simp only [Instr.wf, Bool.and_eq_true] at h
  obtain ⟨⟨h0, h1⟩, h2⟩ := h
  refine ⟨fits_src h0 h2 rfl rfl rfl (fun e => ⟨rfl, rfl, (ty_none h1 e)⟩) rfl, ?_⟩
  show some (Instr.iMul f (Ty.ofCode (ty.code)) d a (Raw.src ({ Raw.base f 0x00 0x03 with ty := ty.code, d := d, a := a, b := b.field, lit := b.lit }))) = _
  rw [ty_code, src_back h2 rfl rfl rfl]
theorem iMulh (f : Form) (ty : Ty) (d : Reg) (a : Reg) (b : Src) : Statement (.iMulh f ty d a b) := by
  intro h r hr
  cases hr
  simp only [Instr.wf, Bool.and_eq_true] at h
  obtain ⟨⟨h0, h1⟩, h2⟩ := h
  refine ⟨fits_src h0 h2 rfl rfl rfl (fun e => ⟨rfl, rfl, (ty_none h1 e)⟩) rfl, ?_⟩
  show some (Instr.iMulh f (Ty.ofCode (ty.code)) d a (Raw.src ({ Raw.base f 0x00 0x04 with ty := ty.code, d := d, a := a, b := b.field, lit := b.lit }))) = _
  rw [ty_code, src_back h2 rfl rfl rfl]
theorem iDiv (f : Form) (ty : Ty) (d : Reg) (a : Reg) (b : Src) : Statement (.iDiv f ty d a b) := by
  intro h r hr
  cases hr
  simp only [Instr.wf, Bool.and_eq_true] at h
  obtain ⟨⟨h0, h1⟩, h2⟩ := h
  refine ⟨fits_src h0 h2 rfl rfl rfl (fun e => ⟨rfl, rfl, (ty_none h1 e)⟩) rfl, ?_⟩
  show some (Instr.iDiv f (Ty.ofCode (ty.code)) d a (Raw.src ({ Raw.base f 0x00 0x05 with ty := ty.code, d := d, a := a, b := b.field, lit := b.lit }))) = _
  rw [ty_code, src_back h2 rfl rfl rfl]
theorem iRem (f : Form) (ty : Ty) (d : Reg) (a : Reg) (b : Src) : Statement (.iRem f ty d a b) := by
  intro h r hr
  cases hr
  simp only [Instr.wf, Bool.and_eq_true] at h
  obtain ⟨⟨h0, h1⟩, h2⟩ := h
  refine ⟨fits_src h0 h2 rfl rfl rfl (fun e => ⟨rfl, rfl, (ty_none h1 e)⟩) rfl, ?_⟩
  show some (Instr.iRem f (Ty.ofCode (ty.code)) d a (Raw.src ({ Raw.base f 0x00 0x06 with ty := ty.code, d := d, a := a, b := b.field, lit := b.lit }))) = _
  rw [ty_code, src_back h2 rfl rfl rfl]
theorem iAnd (f : Form) (ty : Ty) (d : Reg) (a : Reg) (b : Src) : Statement (.iAnd f ty d a b) := by
  intro h r hr
  cases hr
  simp only [Instr.wf, Bool.and_eq_true] at h
  obtain ⟨⟨h0, h1⟩, h2⟩ := h
  refine ⟨fits_src h0 h2 rfl rfl rfl (fun e => ⟨rfl, rfl, (ty_none h1 e)⟩) rfl, ?_⟩
  show some (Instr.iAnd f (Ty.ofCode (ty.code)) d a (Raw.src ({ Raw.base f 0x00 0x07 with ty := ty.code, d := d, a := a, b := b.field, lit := b.lit }))) = _
  rw [ty_code, src_back h2 rfl rfl rfl]
theorem iOr (f : Form) (ty : Ty) (d : Reg) (a : Reg) (b : Src) : Statement (.iOr f ty d a b) := by
  intro h r hr
  cases hr
  simp only [Instr.wf, Bool.and_eq_true] at h
  obtain ⟨⟨h0, h1⟩, h2⟩ := h
  refine ⟨fits_src h0 h2 rfl rfl rfl (fun e => ⟨rfl, rfl, (ty_none h1 e)⟩) rfl, ?_⟩
  show some (Instr.iOr f (Ty.ofCode (ty.code)) d a (Raw.src ({ Raw.base f 0x00 0x08 with ty := ty.code, d := d, a := a, b := b.field, lit := b.lit }))) = _
  rw [ty_code, src_back h2 rfl rfl rfl]
theorem iXor (f : Form) (ty : Ty) (d : Reg) (a : Reg) (b : Src) : Statement (.iXor f ty d a b) := by
  intro h r hr
  cases hr
  simp only [Instr.wf, Bool.and_eq_true] at h
  obtain ⟨⟨h0, h1⟩, h2⟩ := h
  refine ⟨fits_src h0 h2 rfl rfl rfl (fun e => ⟨rfl, rfl, (ty_none h1 e)⟩) rfl, ?_⟩
  show some (Instr.iXor f (Ty.ofCode (ty.code)) d a (Raw.src ({ Raw.base f 0x00 0x09 with ty := ty.code, d := d, a := a, b := b.field, lit := b.lit }))) = _
  rw [ty_code, src_back h2 rfl rfl rfl]
theorem iAndn (f : Form) (ty : Ty) (d : Reg) (a : Reg) (b : Src) : Statement (.iAndn f ty d a b) := by
  intro h r hr
  cases hr
  simp only [Instr.wf, Bool.and_eq_true] at h
  obtain ⟨⟨h0, h1⟩, h2⟩ := h
  refine ⟨fits_src h0 h2 rfl rfl rfl (fun e => ⟨rfl, rfl, (ty_none h1 e)⟩) rfl, ?_⟩
  show some (Instr.iAndn f (Ty.ofCode (ty.code)) d a (Raw.src ({ Raw.base f 0x00 0x0A with ty := ty.code, d := d, a := a, b := b.field, lit := b.lit }))) = _
  rw [ty_code, src_back h2 rfl rfl rfl]
theorem iShl (f : Form) (ty : Ty) (d : Reg) (a : Reg) (b : Src) : Statement (.iShl f ty d a b) := by
  intro h r hr
  cases hr
  simp only [Instr.wf, Bool.and_eq_true] at h
  obtain ⟨⟨⟨h0, h1⟩, h2⟩, h3⟩ := h
  refine ⟨fits_src h0 h2 rfl rfl rfl (fun e => ⟨rfl, rfl, (ty_none h1 e)⟩) rfl, ?_⟩
  show some (Instr.iShl f (Ty.ofCode (ty.code)) d a (Raw.src ({ Raw.base f 0x00 0x0B with ty := ty.code, d := d, a := a, b := b.field, lit := b.lit }))) = _
  rw [ty_code, src_back h2 rfl rfl rfl]
theorem iShr (f : Form) (ty : Ty) (d : Reg) (a : Reg) (b : Src) : Statement (.iShr f ty d a b) := by
  intro h r hr
  cases hr
  simp only [Instr.wf, Bool.and_eq_true] at h
  obtain ⟨⟨⟨h0, h1⟩, h2⟩, h3⟩ := h
  refine ⟨fits_src h0 h2 rfl rfl rfl (fun e => ⟨rfl, rfl, (ty_none h1 e)⟩) rfl, ?_⟩
  show some (Instr.iShr f (Ty.ofCode (ty.code)) d a (Raw.src ({ Raw.base f 0x00 0x0C with ty := ty.code, d := d, a := a, b := b.field, lit := b.lit }))) = _
  rw [ty_code, src_back h2 rfl rfl rfl]
theorem iSra (f : Form) (ty : Ty) (d : Reg) (a : Reg) (b : Src) : Statement (.iSra f ty d a b) := by
  intro h r hr
  cases hr
  simp only [Instr.wf, Bool.and_eq_true] at h
  obtain ⟨⟨⟨h0, h1⟩, h2⟩, h3⟩ := h
  refine ⟨fits_src h0 h2 rfl rfl rfl (fun e => ⟨rfl, rfl, (ty_none h1 e)⟩) rfl, ?_⟩
  show some (Instr.iSra f (Ty.ofCode (ty.code)) d a (Raw.src ({ Raw.base f 0x00 0x0D with ty := ty.code, d := d, a := a, b := b.field, lit := b.lit }))) = _
  rw [ty_code, src_back h2 rfl rfl rfl]
theorem iRol (f : Form) (ty : Ty) (d : Reg) (a : Reg) (b : Src) : Statement (.iRol f ty d a b) := by
  intro h r hr
  cases hr
  simp only [Instr.wf, Bool.and_eq_true] at h
  obtain ⟨⟨⟨h0, h1⟩, h2⟩, h3⟩ := h
  refine ⟨fits_src h0 h2 rfl rfl rfl (fun e => ⟨rfl, rfl, (ty_none h1 e)⟩) rfl, ?_⟩
  show some (Instr.iRol f (Ty.ofCode (ty.code)) d a (Raw.src ({ Raw.base f 0x00 0x0E with ty := ty.code, d := d, a := a, b := b.field, lit := b.lit }))) = _
  rw [ty_code, src_back h2 rfl rfl rfl]
theorem iMin (f : Form) (ty : Ty) (d : Reg) (a : Reg) (b : Src) : Statement (.iMin f ty d a b) := by
  intro h r hr
  cases hr
  simp only [Instr.wf, Bool.and_eq_true] at h
  obtain ⟨⟨h0, h1⟩, h2⟩ := h
  refine ⟨fits_src h0 h2 rfl rfl rfl (fun e => ⟨rfl, rfl, (ty_none h1 e)⟩) rfl, ?_⟩
  show some (Instr.iMin f (Ty.ofCode (ty.code)) d a (Raw.src ({ Raw.base f 0x00 0x0F with ty := ty.code, d := d, a := a, b := b.field, lit := b.lit }))) = _
  rw [ty_code, src_back h2 rfl rfl rfl]
theorem iMax (f : Form) (ty : Ty) (d : Reg) (a : Reg) (b : Src) : Statement (.iMax f ty d a b) := by
  intro h r hr
  cases hr
  simp only [Instr.wf, Bool.and_eq_true] at h
  obtain ⟨⟨h0, h1⟩, h2⟩ := h
  refine ⟨fits_src h0 h2 rfl rfl rfl (fun e => ⟨rfl, rfl, (ty_none h1 e)⟩) rfl, ?_⟩
  show some (Instr.iMax f (Ty.ofCode (ty.code)) d a (Raw.src ({ Raw.base f 0x00 0x10 with ty := ty.code, d := d, a := a, b := b.field, lit := b.lit }))) = _
  rw [ty_code, src_back h2 rfl rfl rfl]
theorem mov (f : Form) (ty : Ty) (d : Reg) (a : Reg) : Statement (.mov f ty d a) := by
  intro h r hr
  cases hr
  simp only [Instr.wf, Bool.and_eq_true] at h
  obtain ⟨h0, h1⟩ := h
  refine ⟨fits_plain h0 rfl rfl rfl (fun e => ⟨rfl, rfl, (ty_none h1 e)⟩) rfl, ?_⟩
  show some (Instr.mov f (Ty.ofCode (ty.code)) d a) = _
  rw [ty_code]
theorem clz (f : Form) (ty : Ty) (d : Reg) (a : Reg) : Statement (.clz f ty d a) := by
  intro h r hr
  cases hr
  simp only [Instr.wf, Bool.and_eq_true] at h
  obtain ⟨h0, h1⟩ := h
  refine ⟨fits_plain h0 rfl rfl rfl (fun e => ⟨rfl, rfl, (ty_none h1 e)⟩) rfl, ?_⟩
  show some (Instr.clz f (Ty.ofCode (ty.code)) d a) = _
  rw [ty_code]
theorem ctz (f : Form) (ty : Ty) (d : Reg) (a : Reg) : Statement (.ctz f ty d a) := by
  intro h r hr
  cases hr
  simp only [Instr.wf, Bool.and_eq_true] at h
  obtain ⟨h0, h1⟩ := h
  refine ⟨fits_plain h0 rfl rfl rfl (fun e => ⟨rfl, rfl, (ty_none h1 e)⟩) rfl, ?_⟩
  show some (Instr.ctz f (Ty.ofCode (ty.code)) d a) = _
  rw [ty_code]
theorem popc (f : Form) (ty : Ty) (d : Reg) (a : Reg) : Statement (.popc f ty d a) := by
  intro h r hr
  cases hr
  simp only [Instr.wf, Bool.and_eq_true] at h
  obtain ⟨h0, h1⟩ := h
  refine ⟨fits_plain h0 rfl rfl rfl (fun e => ⟨rfl, rfl, (ty_none h1 e)⟩) rfl, ?_⟩
  show some (Instr.popc f (Ty.ofCode (ty.code)) d a) = _
  rw [ty_code]
theorem bext (f : Form) (ty : Ty) (d : Reg) (a : Reg) (b : Src) : Statement (.bext f ty d a b) := by
  intro h r hr
  cases hr
  simp only [Instr.wf, Bool.and_eq_true] at h
  obtain ⟨⟨h0, h1⟩, h2⟩ := h
  refine ⟨fits_src h0 h2 rfl rfl rfl (fun e => ⟨rfl, rfl, (ty_none h1 e)⟩) rfl, ?_⟩
  show some (Instr.bext f (Ty.ofCode (ty.code)) d a (Raw.src ({ Raw.base f 0x00 0x15 with ty := ty.code, d := d, a := a, b := b.field, lit := b.lit }))) = _
  rw [ty_code, src_back h2 rfl rfl rfl]
theorem bins (f : Form) (ty : Ty) (d : Reg) (a : Reg) (b : Src) : Statement (.bins f ty d a b) := by
  intro h r hr
  cases hr
  simp only [Instr.wf, Bool.and_eq_true] at h
  obtain ⟨⟨h0, h1⟩, h2⟩ := h
  refine ⟨fits_src h0 h2 rfl rfl rfl (fun e => ⟨rfl, rfl, (ty_none h1 e)⟩) rfl, ?_⟩
  show some (Instr.bins f (Ty.ofCode (ty.code)) d a (Raw.src ({ Raw.base f 0x00 0x16 with ty := ty.code, d := d, a := a, b := b.field, lit := b.lit }))) = _
  rw [ty_code, src_back h2 rfl rfl rfl]
theorem cvt (f : Form) (dty : Ty) (sty : Ty) (d : Reg) (a : Reg) : Statement (.cvt f dty sty d a) := by
  intro h r hr
  cases hr
  simp only [Instr.wf, Bool.and_eq_true] at h
  obtain ⟨⟨h0, h1⟩, h2⟩ := h
  refine ⟨fits_plain h0 rfl rfl rfl (fun e => absurd (form_len h0) (by rw [e]; decide)) rfl, ?_⟩
  show some (Instr.cvt f (Ty.ofCode (dty.code)) (Ty.ofCode ((0#4 ++ sty.code).extractLsb' 0 4)) d a) = _
  rw [ty_code, sty_back]
theorem addImm (f : Form) (ty : Ty) (d : Reg) (a : Reg) (imm : Imm) : Statement (.addImm f ty d a imm) := by
  intro h r hr
  cases hr
  simp only [Instr.wf, Bool.and_eq_true] at h
  obtain ⟨⟨h0, h1⟩, h2⟩ := h
  refine ⟨fits_imm h0 rfl rfl rfl (fun e => ⟨rfl, rfl, (ty_none h1 e)⟩) (fun _ => rfl), ?_⟩
  rw [read_op _ 0x01 (by rw [withImm_op6]; rfl)]
  show some (Instr.addImm (Raw.form (({ Raw.base f 0x01 0 with ty := ty.code, d := d, a := a }).withImm imm)) (Raw.tyv (({ Raw.base f 0x01 0 with ty := ty.code, d := d, a := a }).withImm imm)) (Raw.d (({ Raw.base f 0x01 0 with ty := ty.code, d := d, a := a }).withImm imm)) (Raw.a (({ Raw.base f 0x01 0 with ty := ty.code, d := d, a := a }).withImm imm)) (Raw.immI (({ Raw.base f 0x01 0 with ty := ty.code, d := d, a := a }).withImm imm))) = _
  rw [imm_back (r := ({ Raw.base f 0x01 0 with ty := ty.code, d := d, a := a })) h2]
  simp only [Raw.form, Raw.tyv, withImm_len, withImm_d, withImm_a, withImm_ty, withImm_pg, withImm_pn]
  show some (Instr.addImm f (Ty.ofCode ty.code) d a imm) = _
  rw [ty_code]
theorem andImm (f : Form) (ty : Ty) (d : Reg) (a : Reg) (imm : Imm) : Statement (.andImm f ty d a imm) := by
  intro h r hr
  cases hr
  simp only [Instr.wf, Bool.and_eq_true] at h
  obtain ⟨⟨h0, h1⟩, h2⟩ := h
  refine ⟨fits_imm h0 rfl rfl rfl (fun e => ⟨rfl, rfl, (ty_none h1 e)⟩) (fun _ => rfl), ?_⟩
  rw [read_op _ 0x02 (by rw [withImm_op6]; rfl)]
  show some (Instr.andImm (Raw.form (({ Raw.base f 0x02 0 with ty := ty.code, d := d, a := a }).withImm imm)) (Raw.tyv (({ Raw.base f 0x02 0 with ty := ty.code, d := d, a := a }).withImm imm)) (Raw.d (({ Raw.base f 0x02 0 with ty := ty.code, d := d, a := a }).withImm imm)) (Raw.a (({ Raw.base f 0x02 0 with ty := ty.code, d := d, a := a }).withImm imm)) (Raw.immI (({ Raw.base f 0x02 0 with ty := ty.code, d := d, a := a }).withImm imm))) = _
  rw [imm_back (r := ({ Raw.base f 0x02 0 with ty := ty.code, d := d, a := a })) h2]
  simp only [Raw.form, Raw.tyv, withImm_len, withImm_d, withImm_a, withImm_ty, withImm_pg, withImm_pn]
  show some (Instr.andImm f (Ty.ofCode ty.code) d a imm) = _
  rw [ty_code]
theorem orImm (f : Form) (ty : Ty) (d : Reg) (a : Reg) (imm : Imm) : Statement (.orImm f ty d a imm) := by
  intro h r hr
  cases hr
  simp only [Instr.wf, Bool.and_eq_true] at h
  obtain ⟨⟨h0, h1⟩, h2⟩ := h
  refine ⟨fits_imm h0 rfl rfl rfl (fun e => ⟨rfl, rfl, (ty_none h1 e)⟩) (fun _ => rfl), ?_⟩
  rw [read_op _ 0x03 (by rw [withImm_op6]; rfl)]
  show some (Instr.orImm (Raw.form (({ Raw.base f 0x03 0 with ty := ty.code, d := d, a := a }).withImm imm)) (Raw.tyv (({ Raw.base f 0x03 0 with ty := ty.code, d := d, a := a }).withImm imm)) (Raw.d (({ Raw.base f 0x03 0 with ty := ty.code, d := d, a := a }).withImm imm)) (Raw.a (({ Raw.base f 0x03 0 with ty := ty.code, d := d, a := a }).withImm imm)) (Raw.immI (({ Raw.base f 0x03 0 with ty := ty.code, d := d, a := a }).withImm imm))) = _
  rw [imm_back (r := ({ Raw.base f 0x03 0 with ty := ty.code, d := d, a := a })) h2]
  simp only [Raw.form, Raw.tyv, withImm_len, withImm_d, withImm_a, withImm_ty, withImm_pg, withImm_pn]
  show some (Instr.orImm f (Ty.ofCode ty.code) d a imm) = _
  rw [ty_code]
theorem xorImm (f : Form) (ty : Ty) (d : Reg) (a : Reg) (imm : Imm) : Statement (.xorImm f ty d a imm) := by
  intro h r hr
  cases hr
  simp only [Instr.wf, Bool.and_eq_true] at h
  obtain ⟨⟨h0, h1⟩, h2⟩ := h
  refine ⟨fits_imm h0 rfl rfl rfl (fun e => ⟨rfl, rfl, (ty_none h1 e)⟩) (fun _ => rfl), ?_⟩
  rw [read_op _ 0x04 (by rw [withImm_op6]; rfl)]
  show some (Instr.xorImm (Raw.form (({ Raw.base f 0x04 0 with ty := ty.code, d := d, a := a }).withImm imm)) (Raw.tyv (({ Raw.base f 0x04 0 with ty := ty.code, d := d, a := a }).withImm imm)) (Raw.d (({ Raw.base f 0x04 0 with ty := ty.code, d := d, a := a }).withImm imm)) (Raw.a (({ Raw.base f 0x04 0 with ty := ty.code, d := d, a := a }).withImm imm)) (Raw.immI (({ Raw.base f 0x04 0 with ty := ty.code, d := d, a := a }).withImm imm))) = _
  rw [imm_back (r := ({ Raw.base f 0x04 0 with ty := ty.code, d := d, a := a })) h2]
  simp only [Raw.form, Raw.tyv, withImm_len, withImm_d, withImm_a, withImm_ty, withImm_pg, withImm_pn]
  show some (Instr.xorImm f (Ty.ofCode ty.code) d a imm) = _
  rw [ty_code]
theorem shlImm (f : Form) (ty : Ty) (d : Reg) (a : Reg) (imm : Imm) : Statement (.shlImm f ty d a imm) := by
  intro h r hr
  cases hr
  simp only [Instr.wf, Bool.and_eq_true] at h
  obtain ⟨⟨⟨h0, h1⟩, h2⟩, h3⟩ := h
  refine ⟨fits_imm h0 rfl rfl rfl (fun e => ⟨rfl, rfl, (ty_none h1 e)⟩) (fun _ => rfl), ?_⟩
  rw [read_op _ 0x05 (by rw [withImm_op6]; rfl)]
  show some (Instr.shlImm (Raw.form (({ Raw.base f 0x05 0 with ty := ty.code, d := d, a := a }).withImm imm)) (Raw.tyv (({ Raw.base f 0x05 0 with ty := ty.code, d := d, a := a }).withImm imm)) (Raw.d (({ Raw.base f 0x05 0 with ty := ty.code, d := d, a := a }).withImm imm)) (Raw.a (({ Raw.base f 0x05 0 with ty := ty.code, d := d, a := a }).withImm imm)) (Raw.immI (({ Raw.base f 0x05 0 with ty := ty.code, d := d, a := a }).withImm imm))) = _
  rw [imm_back (r := ({ Raw.base f 0x05 0 with ty := ty.code, d := d, a := a })) h2]
  simp only [Raw.form, Raw.tyv, withImm_len, withImm_d, withImm_a, withImm_ty, withImm_pg, withImm_pn]
  show some (Instr.shlImm f (Ty.ofCode ty.code) d a imm) = _
  rw [ty_code]
theorem shrImm (f : Form) (ty : Ty) (d : Reg) (a : Reg) (imm : Imm) : Statement (.shrImm f ty d a imm) := by
  intro h r hr
  cases hr
  simp only [Instr.wf, Bool.and_eq_true] at h
  obtain ⟨⟨⟨h0, h1⟩, h2⟩, h3⟩ := h
  refine ⟨fits_imm h0 rfl rfl rfl (fun e => ⟨rfl, rfl, (ty_none h1 e)⟩) (fun _ => rfl), ?_⟩
  rw [read_op _ 0x06 (by rw [withImm_op6]; rfl)]
  show some (Instr.shrImm (Raw.form (({ Raw.base f 0x06 0 with ty := ty.code, d := d, a := a }).withImm imm)) (Raw.tyv (({ Raw.base f 0x06 0 with ty := ty.code, d := d, a := a }).withImm imm)) (Raw.d (({ Raw.base f 0x06 0 with ty := ty.code, d := d, a := a }).withImm imm)) (Raw.a (({ Raw.base f 0x06 0 with ty := ty.code, d := d, a := a }).withImm imm)) (Raw.immI (({ Raw.base f 0x06 0 with ty := ty.code, d := d, a := a }).withImm imm))) = _
  rw [imm_back (r := ({ Raw.base f 0x06 0 with ty := ty.code, d := d, a := a })) h2]
  simp only [Raw.form, Raw.tyv, withImm_len, withImm_d, withImm_a, withImm_ty, withImm_pg, withImm_pn]
  show some (Instr.shrImm f (Ty.ofCode ty.code) d a imm) = _
  rw [ty_code]
theorem sraImm (f : Form) (ty : Ty) (d : Reg) (a : Reg) (imm : Imm) : Statement (.sraImm f ty d a imm) := by
  intro h r hr
  cases hr
  simp only [Instr.wf, Bool.and_eq_true] at h
  obtain ⟨⟨⟨h0, h1⟩, h2⟩, h3⟩ := h
  refine ⟨fits_imm h0 rfl rfl rfl (fun e => ⟨rfl, rfl, (ty_none h1 e)⟩) (fun _ => rfl), ?_⟩
  rw [read_op _ 0x07 (by rw [withImm_op6]; rfl)]
  show some (Instr.sraImm (Raw.form (({ Raw.base f 0x07 0 with ty := ty.code, d := d, a := a }).withImm imm)) (Raw.tyv (({ Raw.base f 0x07 0 with ty := ty.code, d := d, a := a }).withImm imm)) (Raw.d (({ Raw.base f 0x07 0 with ty := ty.code, d := d, a := a }).withImm imm)) (Raw.a (({ Raw.base f 0x07 0 with ty := ty.code, d := d, a := a }).withImm imm)) (Raw.immI (({ Raw.base f 0x07 0 with ty := ty.code, d := d, a := a }).withImm imm))) = _
  rw [imm_back (r := ({ Raw.base f 0x07 0 with ty := ty.code, d := d, a := a })) h2]
  simp only [Raw.form, Raw.tyv, withImm_len, withImm_d, withImm_a, withImm_ty, withImm_pg, withImm_pn]
  show some (Instr.sraImm f (Ty.ofCode ty.code) d a imm) = _
  rw [ty_code]
theorem rolImm (f : Form) (ty : Ty) (d : Reg) (a : Reg) (imm : Imm) : Statement (.rolImm f ty d a imm) := by
  intro h r hr
  cases hr
  simp only [Instr.wf, Bool.and_eq_true] at h
  obtain ⟨⟨⟨h0, h1⟩, h2⟩, h3⟩ := h
  refine ⟨fits_imm h0 rfl rfl rfl (fun e => ⟨rfl, rfl, (ty_none h1 e)⟩) (fun _ => rfl), ?_⟩
  rw [read_op _ 0x08 (by rw [withImm_op6]; rfl)]
  show some (Instr.rolImm (Raw.form (({ Raw.base f 0x08 0 with ty := ty.code, d := d, a := a }).withImm imm)) (Raw.tyv (({ Raw.base f 0x08 0 with ty := ty.code, d := d, a := a }).withImm imm)) (Raw.d (({ Raw.base f 0x08 0 with ty := ty.code, d := d, a := a }).withImm imm)) (Raw.a (({ Raw.base f 0x08 0 with ty := ty.code, d := d, a := a }).withImm imm)) (Raw.immI (({ Raw.base f 0x08 0 with ty := ty.code, d := d, a := a }).withImm imm))) = _
  rw [imm_back (r := ({ Raw.base f 0x08 0 with ty := ty.code, d := d, a := a })) h2]
  simp only [Raw.form, Raw.tyv, withImm_len, withImm_d, withImm_a, withImm_ty, withImm_pg, withImm_pn]
  show some (Instr.rolImm f (Ty.ofCode ty.code) d a imm) = _
  rw [ty_code]
theorem movi (f : Form) (d : Reg) (imm : Imm) : Statement (.movi f d imm) := by
  intro h r hr
  cases hr
  simp only [Instr.wf, Bool.and_eq_true] at h
  obtain ⟨h0, h1⟩ := h
  refine ⟨fits_imm h0 rfl rfl rfl (fun e => ⟨rfl, rfl, rfl⟩) (fun _ => rfl), ?_⟩
  rw [read_op _ 0x09 (by rw [withImm_op6]; rfl)]
  show some (Instr.movi (Raw.form (({ Raw.base f 0x09 0 with d := d }).withImm imm)) (Raw.d (({ Raw.base f 0x09 0 with d := d }).withImm imm)) (Raw.immI (({ Raw.base f 0x09 0 with d := d }).withImm imm))) = _
  rw [imm_back (r := ({ Raw.base f 0x09 0 with d := d })) h1]
  simp only [Raw.form, Raw.tyv, withImm_len, withImm_d, withImm_a, withImm_ty, withImm_pg, withImm_pn]
  show some (Instr.movi f d imm) = _
  rfl
theorem lea (f : Form) (d : Reg) (a : Reg) (imm : Imm) : Statement (.lea f d a imm) := by
  intro h r hr
  cases hr
  simp only [Instr.wf, Bool.and_eq_true] at h
  obtain ⟨h0, h1⟩ := h
  refine ⟨fits_imm h0 rfl rfl rfl (fun e => ⟨rfl, rfl, rfl⟩) (fun _ => rfl), ?_⟩
  rw [read_op _ 0x0C (by rw [withImm_op6]; rfl)]
  show some (Instr.lea (Raw.form (({ Raw.base f 0x0C 0 with d := d, a := a }).withImm imm)) (Raw.d (({ Raw.base f 0x0C 0 with d := d, a := a }).withImm imm)) (Raw.a (({ Raw.base f 0x0C 0 with d := d, a := a }).withImm imm)) (Raw.immI (({ Raw.base f 0x0C 0 with d := d, a := a }).withImm imm))) = _
  rw [imm_back (r := ({ Raw.base f 0x0C 0 with d := d, a := a })) h1]
  simp only [Raw.form, Raw.tyv, withImm_len, withImm_d, withImm_a, withImm_ty, withImm_pg, withImm_pn]
  show some (Instr.lea f d a imm) = _
  rfl
theorem cmp (f : Form) (ty : Ty) (cond : BitVec 3) (p : Pred) (a : Reg) (b : Src) : Statement (.cmp f ty cond p a b) := by
  intro h r hr
  cases hr
  simp only [Instr.wf, Bool.and_eq_true] at h
  obtain ⟨⟨⟨h0, h1⟩, h2⟩, h3⟩ := h
  refine ⟨fits_src h0 h2 rfl rfl rfl (fun e => ⟨rfl, rfl, (ty_none h1 e)⟩) rfl, ?_⟩
  show some (Instr.cmp f (Ty.ofCode (ty.code)) ((0#3 ++ cond).extractLsb' 0 3) ((0#3 ++ p).extractLsb' 0 3) a (Raw.src ({ Raw.base f 0x0A (0#3 ++ cond) with ty := ty.code, d := 0#3 ++ p, a := a, b := b.field, lit := b.lit }))) = _
  rw [ty_code, ((by decide : ∀ (cond : BitVec 3), ((0#3 ++ cond).extractLsb' 0 3) = cond) cond), ((by decide : ∀ (p : Pred), ((0#3 ++ p).extractLsb' 0 3) = p) p), src_back h2 rfl rfl rfl]
theorem sel (f : Form) (p : Pred) (sense : Bool) (d : Reg) (a : Reg) (b : Reg) : Statement (.sel f p sense d a b) := by
  intro h r hr
  cases hr
  have h0 := h
  refine ⟨fits_plain h0 rfl rfl rfl (fun e => ⟨rfl, rfl, rfl⟩) rfl, ?_⟩
  show some (Instr.sel f ((0#2 ++ BitVec.ofBool sense ++ p).extractLsb' 0 3) ((0#2 ++ BitVec.ofBool sense ++ p).getLsbD 3) d a b) = _
  rw [((by decide : ∀ (p : Pred) (sense : Bool), ((0#2 ++ BitVec.ofBool sense ++ p).extractLsb' 0 3) = p) p sense), ((by decide : ∀ (p : Pred) (sense : Bool), ((0#2 ++ BitVec.ofBool sense ++ p).getLsbD 3) = sense) p sense)]
theorem fadd (f : Form) (ty : Ty) (d : Reg) (a : Reg) (b : Src) : Statement (.fadd f ty d a b) := by
  intro h r hr
  cases hr
  simp only [Instr.wf, Bool.and_eq_true] at h
  obtain ⟨⟨h0, h1⟩, h2⟩ := h
  refine ⟨fits_src h0 h2 rfl rfl rfl (fun e => ⟨rfl, rfl, (ty_none h1 e)⟩) rfl, ?_⟩
  show some (Instr.fadd f (Ty.ofCode (ty.code)) d a (Raw.src ({ Raw.base f 0x10 0x01 with ty := ty.code, d := d, a := a, b := b.field, lit := b.lit }))) = _
  rw [ty_code, src_back h2 rfl rfl rfl]
theorem fsub (f : Form) (ty : Ty) (d : Reg) (a : Reg) (b : Src) : Statement (.fsub f ty d a b) := by
  intro h r hr
  cases hr
  simp only [Instr.wf, Bool.and_eq_true] at h
  obtain ⟨⟨h0, h1⟩, h2⟩ := h
  refine ⟨fits_src h0 h2 rfl rfl rfl (fun e => ⟨rfl, rfl, (ty_none h1 e)⟩) rfl, ?_⟩
  show some (Instr.fsub f (Ty.ofCode (ty.code)) d a (Raw.src ({ Raw.base f 0x10 0x02 with ty := ty.code, d := d, a := a, b := b.field, lit := b.lit }))) = _
  rw [ty_code, src_back h2 rfl rfl rfl]
theorem fmul (f : Form) (ty : Ty) (d : Reg) (a : Reg) (b : Src) : Statement (.fmul f ty d a b) := by
  intro h r hr
  cases hr
  simp only [Instr.wf, Bool.and_eq_true] at h
  obtain ⟨⟨h0, h1⟩, h2⟩ := h
  refine ⟨fits_src h0 h2 rfl rfl rfl (fun e => ⟨rfl, rfl, (ty_none h1 e)⟩) rfl, ?_⟩
  show some (Instr.fmul f (Ty.ofCode (ty.code)) d a (Raw.src ({ Raw.base f 0x10 0x03 with ty := ty.code, d := d, a := a, b := b.field, lit := b.lit }))) = _
  rw [ty_code, src_back h2 rfl rfl rfl]
theorem fdiv (f : Form) (ty : Ty) (d : Reg) (a : Reg) (b : Src) : Statement (.fdiv f ty d a b) := by
  intro h r hr
  cases hr
  simp only [Instr.wf, Bool.and_eq_true] at h
  obtain ⟨⟨h0, h1⟩, h2⟩ := h
  refine ⟨fits_src h0 h2 rfl rfl rfl (fun e => ⟨rfl, rfl, (ty_none h1 e)⟩) rfl, ?_⟩
  show some (Instr.fdiv f (Ty.ofCode (ty.code)) d a (Raw.src ({ Raw.base f 0x10 0x04 with ty := ty.code, d := d, a := a, b := b.field, lit := b.lit }))) = _
  rw [ty_code, src_back h2 rfl rfl rfl]
theorem fsqrt (f : Form) (ty : Ty) (d : Reg) (a : Reg) (lit : BitVec 32) : Statement (.fsqrt f ty d a lit) := by
  intro h r hr
  cases hr
  simp only [Instr.wf, Bool.and_eq_true] at h
  obtain ⟨⟨h0, h1⟩, h2⟩ := h
  refine ⟨fits_lit h0 rfl rfl rfl (fun e => ⟨rfl, rfl, (ty_none h1 e)⟩) h2 rfl, ?_⟩
  show some (Instr.fsqrt f (Ty.ofCode (ty.code)) d a ((lit.setWidth 64).setWidth 32)) = _
  rw [ty_code, low32]
theorem fmin (f : Form) (ty : Ty) (d : Reg) (a : Reg) (b : Src) : Statement (.fmin f ty d a b) := by
  intro h r hr
  cases hr
  simp only [Instr.wf, Bool.and_eq_true] at h
  obtain ⟨⟨h0, h1⟩, h2⟩ := h
  refine ⟨fits_src h0 h2 rfl rfl rfl (fun e => ⟨rfl, rfl, (ty_none h1 e)⟩) rfl, ?_⟩
  show some (Instr.fmin f (Ty.ofCode (ty.code)) d a (Raw.src ({ Raw.base f 0x10 0x06 with ty := ty.code, d := d, a := a, b := b.field, lit := b.lit }))) = _
  rw [ty_code, src_back h2 rfl rfl rfl]
theorem fmax (f : Form) (ty : Ty) (d : Reg) (a : Reg) (b : Src) : Statement (.fmax f ty d a b) := by
  intro h r hr
  cases hr
  simp only [Instr.wf, Bool.and_eq_true] at h
  obtain ⟨⟨h0, h1⟩, h2⟩ := h
  refine ⟨fits_src h0 h2 rfl rfl rfl (fun e => ⟨rfl, rfl, (ty_none h1 e)⟩) rfl, ?_⟩
  show some (Instr.fmax f (Ty.ofCode (ty.code)) d a (Raw.src ({ Raw.base f 0x10 0x07 with ty := ty.code, d := d, a := a, b := b.field, lit := b.lit }))) = _
  rw [ty_code, src_back h2 rfl rfl rfl]
theorem fclass (f : Form) (ty : Ty) (d : Reg) (a : Reg) (lit : BitVec 32) : Statement (.fclass f ty d a lit) := by
  intro h r hr
  cases hr
  simp only [Instr.wf, Bool.and_eq_true] at h
  obtain ⟨⟨h0, h1⟩, h2⟩ := h
  refine ⟨fits_lit h0 rfl rfl rfl (fun e => ⟨rfl, rfl, (ty_none h1 e)⟩) h2 rfl, ?_⟩
  show some (Instr.fclass f (Ty.ofCode (ty.code)) d a ((lit.setWidth 64).setWidth 32)) = _
  rw [ty_code, low32]
theorem frnd (f : Form) (ty : Ty) (d : Reg) (a : Reg) (lit : BitVec 32) : Statement (.frnd f ty d a lit) := by
  intro h r hr
  cases hr
  simp only [Instr.wf, Bool.and_eq_true] at h
  obtain ⟨⟨h0, h1⟩, h2⟩ := h
  refine ⟨fits_lit h0 rfl rfl rfl (fun e => ⟨rfl, rfl, (ty_none h1 e)⟩) h2 rfl, ?_⟩
  show some (Instr.frnd f (Ty.ofCode (ty.code)) d a ((lit.setWidth 64).setWidth 32)) = _
  rw [ty_code, low32]
theorem fma (f : Form) (ty : Ty) (d : Reg) (a : Reg) (b : Reg) (e : Reg) : Statement (.fma f ty d a b e) := by
  intro h r hr
  cases hr
  simp only [Instr.wf, Bool.and_eq_true] at h
  obtain ⟨h0, h1⟩ := h
  refine ⟨fits_plain h0 rfl rfl rfl (fun e => absurd (form_len h0) (by rw [e]; decide)) rfl, ?_⟩
  show some (Instr.fma f (Ty.ofCode (ty.code)) d a b ((e ++ 0#10).extractLsb' 10 6)) = _
  rw [ty_code, e_field]
theorem fcmp (f : Form) (ty : Ty) (cond : BitVec 3) (p : Pred) (a : Reg) (b : Src) : Statement (.fcmp f ty cond p a b) := by
  intro h r hr
  cases hr
  simp only [Instr.wf, Bool.and_eq_true] at h
  obtain ⟨⟨⟨h0, h1⟩, h2⟩, h3⟩ := h
  refine ⟨fits_src h0 h2 rfl rfl rfl (fun e => ⟨rfl, rfl, (ty_none h1 e)⟩) rfl, ?_⟩
  show some (Instr.fcmp f (Ty.ofCode (ty.code)) ((0#3 ++ cond).extractLsb' 0 3) ((0#3 ++ p).extractLsb' 0 3) a (Raw.src ({ Raw.base f 0x12 (0#3 ++ cond) with ty := ty.code, d := 0#3 ++ p, a := a, b := b.field, lit := b.lit }))) = _
  rw [ty_code, ((by decide : ∀ (cond : BitVec 3), ((0#3 ++ cond).extractLsb' 0 3) = cond) cond), ((by decide : ∀ (p : Pred), ((0#3 ++ p).extractLsb' 0 3) = p) p), src_back h2 rfl rfl rfl]
theorem fcvt (f : Form) (dty : Ty) (sty : Ty) (d : Reg) (a : Reg) : Statement (.fcvt f dty sty d a) := by
  intro h r hr
  cases hr
  simp only [Instr.wf, Bool.and_eq_true] at h
  obtain ⟨⟨⟨h0, h1⟩, h2⟩, h3⟩ := h
  refine ⟨fits_plain h0 rfl rfl rfl (fun e => absurd (form_len h0) (by rw [e]; decide)) rfl, ?_⟩
  show some (Instr.fcvt f (Ty.ofCode (dty.code)) (Ty.ofCode ((0#4 ++ sty.code).extractLsb' 0 4)) d a) = _
  rw [ty_code, sty_back]
theorem jmp (f : Form) (off : BitVec 24) : Statement (.jmp f off) := by
  intro h r hr
  cases hr
  have h0 := h
  refine ⟨fits_plain h0 rfl rfl rfl (fun e => ⟨rfl, rfl, rfl⟩) rfl, ?_⟩
  show some (Instr.jmp f ((off.extractLsb' 18 6) ++ (off.extractLsb' 12 6) ++ (off.extractLsb' 6 6) ++ (off.extractLsb' 0 6))) = _
  rw [off24]
theorem call (f : Form) (off : BitVec 24) : Statement (.call f off) := by
  intro h r hr
  cases hr
  have h0 := h
  refine ⟨fits_plain h0 rfl rfl rfl (fun e => ⟨rfl, rfl, rfl⟩) rfl, ?_⟩
  show some (Instr.call f ((off.extractLsb' 18 6) ++ (off.extractLsb' 12 6) ++ (off.extractLsb' 6 6) ++ (off.extractLsb' 0 6))) = _
  rw [off24]
theorem jmpReg (f : Form) (a : Reg) : Statement (.jmpReg f a) := by
  intro h r hr
  cases hr
  have h0 := h
  refine ⟨fits_plain h0 rfl rfl rfl (fun e => ⟨rfl, rfl, rfl⟩) rfl, ?_⟩
  show some (Instr.jmpReg f a) = _
  rfl
theorem callReg (f : Form) (a : Reg) : Statement (.callReg f a) := by
  intro h r hr
  cases hr
  have h0 := h
  refine ⟨fits_plain h0 rfl rfl rfl (fun e => ⟨rfl, rfl, rfl⟩) rfl, ?_⟩
  show some (Instr.callReg f a) = _
  rfl
theorem ret (f : Form) (a : Reg) : Statement (.ret f a) := by
  intro h r hr
  cases hr
  have h0 := h
  refine ⟨fits_plain h0 rfl rfl rfl (fun e => ⟨rfl, rfl, rfl⟩) rfl, ?_⟩
  show some (Instr.ret f a) = _
  rfl
theorem loop (f : Form) (lvl : BitVec 2) (a : Reg) (end16 : BitVec 16) : Statement (.loop f lvl a end16) := by
  intro h r hr
  cases hr
  simp only [Instr.wf, Bool.and_eq_true] at h
  obtain ⟨h0, h1⟩ := h
  refine ⟨fits_plain h0 rfl rfl rfl (fun e => absurd (form_len h0) (by rw [e]; decide)) rfl, ?_⟩
  show some (Instr.loop f ((0#4 ++ lvl).extractLsb' 0 2) a end16) = _
  rw [((by decide : ∀ (lvl : BitVec 2), ((0#4 ++ lvl).extractLsb' 0 2) = lvl) lvl)]
theorem loopImm (f : Form) (lvl : BitVec 2) (n : BitVec 12) (end16 : BitVec 16) : Statement (.loopImm f lvl n end16) := by
  intro h r hr
  cases hr
  simp only [Instr.wf, Bool.and_eq_true] at h
  obtain ⟨h0, h1⟩ := h
  refine ⟨fits_plain h0 rfl rfl rfl (fun e => absurd (form_len h0) (by rw [e]; decide)) rfl, ?_⟩
  show some (Instr.loopImm f ((0#4 ++ lvl).extractLsb' 0 2) ((n.extractLsb' 6 6) ++ (n.extractLsb' 0 6)) end16) = _
  rw [((by decide : ∀ (lvl : BitVec 2), ((0#4 ++ lvl).extractLsb' 0 2) = lvl) lvl), off12]
theorem nop (f : Form) : Statement (.nop f) := by
  intro h r hr
  cases hr
  have h0 := h
  refine ⟨fits_plain h0 rfl rfl rfl (fun e => ⟨rfl, rfl, rfl⟩) rfl, ?_⟩
  show some (Instr.nop f) = _
  rfl
theorem pause (f : Form) : Statement (.pause f) := by
  intro h r hr
  cases hr
  have h0 := h
  refine ⟨fits_plain h0 rfl rfl rfl (fun e => ⟨rfl, rfl, rfl⟩) rfl, ?_⟩
  show some (Instr.pause f) = _
  rfl
theorem pauseEnd (core : Nat) (strand : Nat) : Statement (.pauseEnd core strand) := step_law rfl
theorem trap (f : Form) : Statement (.trap f) := by
  intro h r hr
  cases hr
  have h0 := h
  refine ⟨fits_plain h0 rfl rfl rfl (fun e => ⟨rfl, rfl, rfl⟩) rfl, ?_⟩
  show some (Instr.trap f) = _
  rfl
theorem sys (f : Form) (code : BitVec 12) : Statement (.sys f code) := by
  intro h r hr
  cases hr
  have h0 := h
  refine ⟨fits_plain h0 rfl rfl rfl (fun e => ⟨rfl, rfl, rfl⟩) rfl, ?_⟩
  show some (Instr.sys f ((code.extractLsb' 6 6) ++ (code.extractLsb' 0 6))) = _
  rw [off12]
theorem eret (f : Form) (rc : BitVec 2) (a : Reg) : Statement (.eret f rc a) := by
  intro h r hr
  cases hr
  have h0 := h
  refine ⟨fits_plain h0 rfl rfl rfl (fun e => ⟨rfl, rfl, rfl⟩) rfl, ?_⟩
  show some (Instr.eret f ((0#4 ++ rc).extractLsb' 0 2) a) = _
  rw [((by decide : ∀ (rc : BitVec 2), ((0#4 ++ rc).extractLsb' 0 2) = rc) rc)]
theorem exit (f : Form) : Statement (.exit f) := by
  intro h r hr
  cases hr
  have h0 := h
  refine ⟨fits_plain h0 rfl rfl rfl (fun e => ⟨rfl, rfl, rfl⟩) rfl, ?_⟩
  show some (Instr.exit f) = _
  rfl
theorem sleepns (f : Form) (a : Reg) : Statement (.sleepns f a) := by
  intro h r hr
  cases hr
  have h0 := h
  refine ⟨fits_plain h0 rfl rfl rfl (fun e => ⟨rfl, rfl, rfl⟩) rfl, ?_⟩
  show some (Instr.sleepns f a) = _
  rfl
theorem waitns (f : Form) (a : Reg) : Statement (.waitns f a) := by
  intro h r hr
  cases hr
  have h0 := h
  refine ⟨fits_plain h0 rfl rfl rfl (fun e => ⟨rfl, rfl, rfl⟩) rfl, ?_⟩
  show some (Instr.waitns f a) = _
  rfl
theorem waitnsV (f : Form) (a : Reg) : Statement (.waitnsV f a) := by
  intro h r hr
  cases hr
  have h0 := h
  refine ⟨fits_plain h0 rfl rfl rfl (fun e => ⟨rfl, rfl, rfl⟩) rfl, ?_⟩
  show some (Instr.waitnsV f a) = _
  rfl
theorem timedWaitDeadline (core : Nat) (strand : Nat) : Statement (.timedWaitDeadline core strand) := step_law rfl
theorem rdtime (f : Form) (d : Reg) : Statement (.rdtime f d) := by
  intro h r hr
  cases hr
  have h0 := h
  refine ⟨fits_plain h0 rfl rfl rfl (fun e => ⟨rfl, rfl, rfl⟩) rfl, ?_⟩
  show some (Instr.rdtime f d) = _
  rfl
theorem mts (f : Form) (ssel : BitVec 6) (a : Reg) : Statement (.mts f ssel a) := by
  intro h r hr
  cases hr
  simp only [Instr.wf, Bool.and_eq_true] at h
  obtain ⟨h0, h1⟩ := h
  refine ⟨fits_plain h0 rfl rfl rfl (fun e => ⟨rfl, rfl, rfl⟩) rfl, ?_⟩
  show some (Instr.mts f ssel a) = _
  rfl
theorem mfs (f : Form) (ssel : BitVec 6) (d : Reg) : Statement (.mfs f ssel d) := by
  intro h r hr
  cases hr
  simp only [Instr.wf, Bool.and_eq_true] at h
  obtain ⟨h0, h1⟩ := h
  refine ⟨fits_plain h0 rfl rfl rfl (fun e => ⟨rfl, rfl, rfl⟩) rfl, ?_⟩
  show some (Instr.mfs f ssel d) = _
  rfl
theorem bsfill (f : Form) (a : Reg) (b : Reg) : Statement (.bsfill f a b) := by
  intro h r hr
  cases hr
  have h0 := h
  refine ⟨fits_plain h0 rfl rfl rfl (fun e => ⟨rfl, rfl, rfl⟩) rfl, ?_⟩
  show some (Instr.bsfill f a b) = _
  rfl
theorem bsget (f : Form) (d : Reg) (b : Reg) : Statement (.bsget f d b) := by
  intro h r hr
  cases hr
  have h0 := h
  refine ⟨fits_plain h0 rfl rfl rfl (fun e => ⟨rfl, rfl, rfl⟩) rfl, ?_⟩
  show some (Instr.bsget f d b) = _
  rfl
theorem bspeek (f : Form) (d : Reg) (b : Reg) : Statement (.bspeek f d b) := by
  intro h r hr
  cases hr
  have h0 := h
  refine ⟨fits_plain h0 rfl rfl rfl (fun e => ⟨rfl, rfl, rfl⟩) rfl, ?_⟩
  show some (Instr.bspeek f d b) = _
  rfl
theorem bsskip (f : Form) (b : Reg) : Statement (.bsskip f b) := by
  intro h r hr
  cases hr
  have h0 := h
  refine ⟨fits_plain h0 rfl rfl rfl (fun e => ⟨rfl, rfl, rfl⟩) rfl, ?_⟩
  show some (Instr.bsskip f b) = _
  rfl
theorem bsgetImm (f : Form) (d : Reg) (n1 : BitVec 6) : Statement (.bsgetImm f d n1) := by
  intro h r hr
  cases hr
  have h0 := h
  refine ⟨fits_plain h0 rfl rfl rfl (fun e => ⟨rfl, rfl, rfl⟩) rfl, ?_⟩
  show some (Instr.bsgetImm f d n1) = _
  rfl
theorem bspeekImm (f : Form) (d : Reg) (n1 : BitVec 6) : Statement (.bspeekImm f d n1) := by
  intro h r hr
  cases hr
  have h0 := h
  refine ⟨fits_plain h0 rfl rfl rfl (fun e => ⟨rfl, rfl, rfl⟩) rfl, ?_⟩
  show some (Instr.bspeekImm f d n1) = _
  rfl
theorem bsskipImm (f : Form) (n1 : BitVec 6) : Statement (.bsskipImm f n1) := by
  intro h r hr
  cases hr
  have h0 := h
  refine ⟨fits_plain h0 rfl rfl rfl (fun e => ⟨rfl, rfl, rfl⟩) rfl, ?_⟩
  show some (Instr.bsskipImm f n1) = _
  rfl
theorem ld (f : Form) (ty : Ty) (d : Reg) (a : Reg) (imm : Imm) : Statement (.ld f ty d a imm) := by
  intro h r hr
  cases hr
  simp only [Instr.wf, Bool.and_eq_true] at h
  obtain ⟨⟨h0, h1⟩, h2⟩ := h
  refine ⟨fits_imm h0 rfl rfl rfl (fun e => ⟨rfl, rfl, (ty_none h1 e)⟩) (fun _ => rfl), ?_⟩
  rw [read_op _ 0x20 (by rw [withImm_op6]; rfl)]
  show some (Instr.ld (Raw.form (({ Raw.base f 0x20 0 with ty := ty.code, d := d, a := a }).withImm imm)) (Raw.tyv (({ Raw.base f 0x20 0 with ty := ty.code, d := d, a := a }).withImm imm)) (Raw.d (({ Raw.base f 0x20 0 with ty := ty.code, d := d, a := a }).withImm imm)) (Raw.a (({ Raw.base f 0x20 0 with ty := ty.code, d := d, a := a }).withImm imm)) (Raw.immI (({ Raw.base f 0x20 0 with ty := ty.code, d := d, a := a }).withImm imm))) = _
  rw [imm_back (r := ({ Raw.base f 0x20 0 with ty := ty.code, d := d, a := a })) h2]
  simp only [Raw.form, Raw.tyv, withImm_len, withImm_d, withImm_a, withImm_ty, withImm_pg, withImm_pn]
  show some (Instr.ld f (Ty.ofCode ty.code) d a imm) = _
  rw [ty_code]
theorem st (f : Form) (ty : Ty) (d : Reg) (a : Reg) (imm : Imm) : Statement (.st f ty d a imm) := by
  intro h r hr
  cases hr
  simp only [Instr.wf, Bool.and_eq_true] at h
  obtain ⟨⟨h0, h1⟩, h2⟩ := h
  refine ⟨fits_imm h0 rfl rfl rfl (fun e => ⟨rfl, rfl, (ty_none h1 e)⟩) (fun _ => rfl), ?_⟩
  rw [read_op _ 0x21 (by rw [withImm_op6]; rfl)]
  show some (Instr.st (Raw.form (({ Raw.base f 0x21 0 with ty := ty.code, d := d, a := a }).withImm imm)) (Raw.tyv (({ Raw.base f 0x21 0 with ty := ty.code, d := d, a := a }).withImm imm)) (Raw.d (({ Raw.base f 0x21 0 with ty := ty.code, d := d, a := a }).withImm imm)) (Raw.a (({ Raw.base f 0x21 0 with ty := ty.code, d := d, a := a }).withImm imm)) (Raw.immI (({ Raw.base f 0x21 0 with ty := ty.code, d := d, a := a }).withImm imm))) = _
  rw [imm_back (r := ({ Raw.base f 0x21 0 with ty := ty.code, d := d, a := a })) h2]
  simp only [Raw.form, Raw.tyv, withImm_len, withImm_d, withImm_a, withImm_ty, withImm_pg, withImm_pn]
  show some (Instr.st f (Ty.ofCode ty.code) d a imm) = _
  rw [ty_code]
theorem loadDataReturn (core : Nat) (strand : Nat) (n : Nat) : Statement (.loadDataReturn core strand n) := step_law rfl
theorem deferredEcc (core : Nat) (strand : Nat) (n : Nat) : Statement (.deferredEcc core strand n) := step_law rfl
theorem ldt (f : Form) (d : Tile) (a : Reg) (b : Reg) (imm : Imm) : Statement (.ldt f d a b imm) := by
  intro h r hr
  cases hr
  simp only [Instr.wf, Bool.and_eq_true] at h
  obtain ⟨h0, h1⟩ := h
  refine ⟨fits_imm h0 rfl rfl rfl (fun e => absurd (form_len h0) (by rw [e]; decide)) (fun _ => rfl), ?_⟩
  obtain ⟨l, g, n⟩ := f
  have hi := imm_back (r := ({ Raw.base ⟨l, g, n⟩ 0x23 0x00 with d := 0#2 ++ d, a := a, b := b })) h1
  have hl : l = 1 ∨ l = 2 := by simpa using form_len h0
  rcases hl with e | e
  · cases e
    show some (Instr.ldt ⟨1, g, n⟩ (BitVec.extractLsb' 0 4 (0#2 ++ d)) a b (Raw.immI (({ Raw.base ⟨1, g, n⟩ 0x23 0x00 with d := 0#2 ++ d, a := a, b := b }).withImm imm))) = _
    rw [hi, tile_field]
  · cases e
    show some (Instr.ldt ⟨2, g, n⟩ (BitVec.extractLsb' 0 4 (0#2 ++ d)) a b (Raw.immI (({ Raw.base ⟨2, g, n⟩ 0x23 0x00 with d := 0#2 ++ d, a := a, b := b }).withImm imm))) = _
    rw [hi, tile_field]
theorem stt (f : Form) (d : Tile) (a : Reg) (b : Reg) (imm : Imm) : Statement (.stt f d a b imm) := by
  intro h r hr
  cases hr
  simp only [Instr.wf, Bool.and_eq_true] at h
  obtain ⟨h0, h1⟩ := h
  refine ⟨fits_imm h0 rfl rfl rfl (fun e => absurd (form_len h0) (by rw [e]; decide)) (fun _ => rfl), ?_⟩
  obtain ⟨l, g, n⟩ := f
  have hi := imm_back (r := ({ Raw.base ⟨l, g, n⟩ 0x23 0x01 with d := 0#2 ++ d, a := a, b := b })) h1
  have hl : l = 1 ∨ l = 2 := by simpa using form_len h0
  rcases hl with e | e
  · cases e
    show some (Instr.stt ⟨1, g, n⟩ (BitVec.extractLsb' 0 4 (0#2 ++ d)) a b (Raw.immI (({ Raw.base ⟨1, g, n⟩ 0x23 0x01 with d := 0#2 ++ d, a := a, b := b }).withImm imm))) = _
    rw [hi, tile_field]
  · cases e
    show some (Instr.stt ⟨2, g, n⟩ (BitVec.extractLsb' 0 4 (0#2 ++ d)) a b (Raw.immI (({ Raw.base ⟨2, g, n⟩ 0x23 0x01 with d := 0#2 ++ d, a := a, b := b }).withImm imm))) = _
    rw [hi, tile_field]
theorem ldtPost (f : Form) (d : Tile) (a : Reg) (b : Reg) (imm : Imm) : Statement (.ldtPost f d a b imm) := by
  intro h r hr
  cases hr
  simp only [Instr.wf, Bool.and_eq_true] at h
  obtain ⟨⟨h0, h1⟩, h2⟩ := h
  refine ⟨fits_imm h0 rfl rfl rfl (fun e => absurd (form_len h0) (by rw [e]; decide)) (fun _ => rfl), ?_⟩
  obtain ⟨l, g, n⟩ := f
  have hi := imm_back (r := ({ Raw.base ⟨l, g, n⟩ 0x23 0x02 with d := 0#2 ++ d, a := a, b := b })) h1
  have hl : l = 1 ∨ l = 2 := by simpa using form_len h0
  rcases hl with e | e
  · cases e
    show some (Instr.ldtPost ⟨1, g, n⟩ (BitVec.extractLsb' 0 4 (0#2 ++ d)) a b (Raw.immI (({ Raw.base ⟨1, g, n⟩ 0x23 0x02 with d := 0#2 ++ d, a := a, b := b }).withImm imm))) = _
    rw [hi, tile_field]
  · cases e
    show some (Instr.ldtPost ⟨2, g, n⟩ (BitVec.extractLsb' 0 4 (0#2 ++ d)) a b (Raw.immI (({ Raw.base ⟨2, g, n⟩ 0x23 0x02 with d := 0#2 ++ d, a := a, b := b }).withImm imm))) = _
    rw [hi, tile_field]
theorem sttPost (f : Form) (d : Tile) (a : Reg) (b : Reg) (imm : Imm) : Statement (.sttPost f d a b imm) := by
  intro h r hr
  cases hr
  simp only [Instr.wf, Bool.and_eq_true] at h
  obtain ⟨⟨h0, h1⟩, h2⟩ := h
  refine ⟨fits_imm h0 rfl rfl rfl (fun e => absurd (form_len h0) (by rw [e]; decide)) (fun _ => rfl), ?_⟩
  obtain ⟨l, g, n⟩ := f
  have hi := imm_back (r := ({ Raw.base ⟨l, g, n⟩ 0x23 0x03 with d := 0#2 ++ d, a := a, b := b })) h1
  have hl : l = 1 ∨ l = 2 := by simpa using form_len h0
  rcases hl with e | e
  · cases e
    show some (Instr.sttPost ⟨1, g, n⟩ (BitVec.extractLsb' 0 4 (0#2 ++ d)) a b (Raw.immI (({ Raw.base ⟨1, g, n⟩ 0x23 0x03 with d := 0#2 ++ d, a := a, b := b }).withImm imm))) = _
    rw [hi, tile_field]
  · cases e
    show some (Instr.sttPost ⟨2, g, n⟩ (BitVec.extractLsb' 0 4 (0#2 ++ d)) a b (Raw.immI (({ Raw.base ⟨2, g, n⟩ 0x23 0x03 with d := 0#2 ++ d, a := a, b := b }).withImm imm))) = _
    rw [hi, tile_field]
theorem pref (f : Form) (n1 : BitVec 6) (a : Reg) (hc : Bool) (off : BitVec 16) : Statement (.pref f n1 a hc off) := by
  intro h r hr
  cases hr
  simp only [Instr.wf, Bool.and_eq_true] at h
  obtain ⟨h0, h1⟩ := h
  refine ⟨fits_plain h0 rfl rfl rfl (fun e => ⟨(z_none h1 e), rfl, rfl⟩) rfl, ?_⟩
  show some (Instr.pref f n1 a ((0#5 ++ BitVec.ofBool hc).getLsbD 0) off) = _
  rw [((by decide : ∀ (hc : Bool), ((0#5 ++ BitVec.ofBool hc).getLsbD 0) = hc) hc)]
theorem pushm (f : Form) (a : Reg) (b : Reg) : Statement (.pushm f a b) := by
  intro h r hr
  cases hr
  simp only [Instr.wf, Bool.and_eq_true] at h
  obtain ⟨h0, h1⟩ := h
  refine ⟨fits_plain h0 rfl rfl rfl (fun e => ⟨rfl, rfl, rfl⟩) rfl, ?_⟩
  show some (Instr.pushm f a b) = _
  rfl
theorem popm (f : Form) (a : Reg) (b : Reg) : Statement (.popm f a b) := by
  intro h r hr
  cases hr
  simp only [Instr.wf, Bool.and_eq_true] at h
  obtain ⟨h0, h1⟩ := h
  refine ⟨fits_plain h0 rfl rfl rfl (fun e => ⟨rfl, rfl, rfl⟩) rfl, ?_⟩
  show some (Instr.popm f a b) = _
  rfl
theorem remoteStoreArrive (pkt : Nat) (refused : Bool) : Statement (.remoteStoreArrive pkt refused) := step_law rfl
theorem spillQueueSpaceFree (pkt : Nat) : Statement (.spillQueueSpaceFree pkt) := step_law rfl
theorem remoteAckArrive (pkt : Nat) : Statement (.remoteAckArrive pkt) := step_law rfl
theorem remoteLoadArrive (pkt : Nat) : Statement (.remoteLoadArrive pkt) := step_law rfl
theorem nonreturningServiced (pkt : Nat) : Statement (.nonreturningServiced pkt) := step_law rfl
theorem amoAdd (f : Form) (ord : Ord) (ty : Ty) (d : Reg) (a : Reg) (b : Reg) (e : Reg) : Statement (.amoAdd f ord ty d a b e) := by
  intro h r hr
  cases hr
  simp only [Instr.wf, Bool.and_eq_true] at h
  obtain ⟨⟨h0, h1⟩, h2⟩ := h
  refine ⟨fits_plain h0 rfl rfl rfl (fun e => ⟨(x16_e (z_none h2 e)), rfl, (ty_none h1 e)⟩) rfl, ?_⟩
  rw [amo_back (ord := ord) (x := 0x0#4) rfl rfl]
  show some (Instr.amoAdd f ord (Ty.ofCode (ty.code)) d a b ((e ++ 0#10).extractLsb' 10 6)) = _
  rw [ty_code, e_field]
theorem amoMin (f : Form) (ord : Ord) (ty : Ty) (d : Reg) (a : Reg) (b : Reg) (e : Reg) : Statement (.amoMin f ord ty d a b e) := by
  intro h r hr
  cases hr
  simp only [Instr.wf, Bool.and_eq_true] at h
  obtain ⟨⟨h0, h1⟩, h2⟩ := h
  refine ⟨fits_plain h0 rfl rfl rfl (fun e => ⟨(x16_e (z_none h2 e)), rfl, (ty_none h1 e)⟩) rfl, ?_⟩
  rw [amo_back (ord := ord) (x := 0x1#4) rfl rfl]
  show some (Instr.amoMin f ord (Ty.ofCode (ty.code)) d a b ((e ++ 0#10).extractLsb' 10 6)) = _
  rw [ty_code, e_field]
theorem amoMax (f : Form) (ord : Ord) (ty : Ty) (d : Reg) (a : Reg) (b : Reg) (e : Reg) : Statement (.amoMax f ord ty d a b e) := by
  intro h r hr
  cases hr
  simp only [Instr.wf, Bool.and_eq_true] at h
  obtain ⟨⟨h0, h1⟩, h2⟩ := h
  refine ⟨fits_plain h0 rfl rfl rfl (fun e => ⟨(x16_e (z_none h2 e)), rfl, (ty_none h1 e)⟩) rfl, ?_⟩
  rw [amo_back (ord := ord) (x := 0x2#4) rfl rfl]
  show some (Instr.amoMax f ord (Ty.ofCode (ty.code)) d a b ((e ++ 0#10).extractLsb' 10 6)) = _
  rw [ty_code, e_field]
theorem amoAnd (f : Form) (ord : Ord) (ty : Ty) (d : Reg) (a : Reg) (b : Reg) (e : Reg) : Statement (.amoAnd f ord ty d a b e) := by
  intro h r hr
  cases hr
  simp only [Instr.wf, Bool.and_eq_true] at h
  obtain ⟨⟨h0, h1⟩, h2⟩ := h
  refine ⟨fits_plain h0 rfl rfl rfl (fun e => ⟨(x16_e (z_none h2 e)), rfl, (ty_none h1 e)⟩) rfl, ?_⟩
  rw [amo_back (ord := ord) (x := 0x3#4) rfl rfl]
  show some (Instr.amoAnd f ord (Ty.ofCode (ty.code)) d a b ((e ++ 0#10).extractLsb' 10 6)) = _
  rw [ty_code, e_field]
theorem amoOr (f : Form) (ord : Ord) (ty : Ty) (d : Reg) (a : Reg) (b : Reg) (e : Reg) : Statement (.amoOr f ord ty d a b e) := by
  intro h r hr
  cases hr
  simp only [Instr.wf, Bool.and_eq_true] at h
  obtain ⟨⟨h0, h1⟩, h2⟩ := h
  refine ⟨fits_plain h0 rfl rfl rfl (fun e => ⟨(x16_e (z_none h2 e)), rfl, (ty_none h1 e)⟩) rfl, ?_⟩
  rw [amo_back (ord := ord) (x := 0x4#4) rfl rfl]
  show some (Instr.amoOr f ord (Ty.ofCode (ty.code)) d a b ((e ++ 0#10).extractLsb' 10 6)) = _
  rw [ty_code, e_field]
theorem amoXor (f : Form) (ord : Ord) (ty : Ty) (d : Reg) (a : Reg) (b : Reg) (e : Reg) : Statement (.amoXor f ord ty d a b e) := by
  intro h r hr
  cases hr
  simp only [Instr.wf, Bool.and_eq_true] at h
  obtain ⟨⟨h0, h1⟩, h2⟩ := h
  refine ⟨fits_plain h0 rfl rfl rfl (fun e => ⟨(x16_e (z_none h2 e)), rfl, (ty_none h1 e)⟩) rfl, ?_⟩
  rw [amo_back (ord := ord) (x := 0x5#4) rfl rfl]
  show some (Instr.amoXor f ord (Ty.ofCode (ty.code)) d a b ((e ++ 0#10).extractLsb' 10 6)) = _
  rw [ty_code, e_field]
theorem amoSwap (f : Form) (ord : Ord) (ty : Ty) (d : Reg) (a : Reg) (b : Reg) (e : Reg) : Statement (.amoSwap f ord ty d a b e) := by
  intro h r hr
  cases hr
  simp only [Instr.wf, Bool.and_eq_true] at h
  obtain ⟨⟨h0, h1⟩, h2⟩ := h
  refine ⟨fits_plain h0 rfl rfl rfl (fun e => ⟨(x16_e (z_none h2 e)), rfl, (ty_none h1 e)⟩) rfl, ?_⟩
  rw [amo_back (ord := ord) (x := 0x6#4) rfl rfl]
  show some (Instr.amoSwap f ord (Ty.ofCode (ty.code)) d a b ((e ++ 0#10).extractLsb' 10 6)) = _
  rw [ty_code, e_field]
theorem amoCas (f : Form) (ord : Ord) (ty : Ty) (d : Reg) (a : Reg) (b : Reg) (e : Reg) : Statement (.amoCas f ord ty d a b e) := by
  intro h r hr
  cases hr
  simp only [Instr.wf, Bool.and_eq_true] at h
  obtain ⟨⟨h0, h1⟩, h2⟩ := h
  refine ⟨fits_plain h0 rfl rfl rfl (fun e => ⟨(x16_e (z_none h2 e)), rfl, (ty_none h1 e)⟩) rfl, ?_⟩
  rw [amo_back (ord := ord) (x := 0x7#4) rfl rfl]
  show some (Instr.amoCas f ord (Ty.ofCode (ty.code)) d a b ((e ++ 0#10).extractLsb' 10 6)) = _
  rw [ty_code, e_field]
theorem amoFadd (f : Form) (ord : Ord) (ty : Ty) (d : Reg) (a : Reg) (b : Reg) (e : Reg) : Statement (.amoFadd f ord ty d a b e) := by
  intro h r hr
  cases hr
  simp only [Instr.wf, Bool.and_eq_true] at h
  obtain ⟨⟨h0, h1⟩, h2⟩ := h
  refine ⟨fits_plain h0 rfl rfl rfl (fun e => ⟨(x16_e (z_none h2 e)), rfl, (ty_none h1 e)⟩) rfl, ?_⟩
  rw [amo_back (ord := ord) (x := 0x8#4) rfl rfl]
  show some (Instr.amoFadd f ord (Ty.ofCode (ty.code)) d a b ((e ++ 0#10).extractLsb' 10 6)) = _
  rw [ty_code, e_field]
theorem amoXacc (f : Form) (ord : Ord) (ty : Ty) (a : Reg) (b : Reg) (e : Reg) : Statement (.amoXacc f ord ty a b e) := by
  intro h r hr
  cases hr
  simp only [Instr.wf, Bool.and_eq_true] at h
  obtain ⟨⟨h0, h1⟩, h2⟩ := h
  refine ⟨fits_plain h0 rfl rfl rfl (fun e => ⟨(x16_e (z_none h2 e)), rfl, (ty_none h1 e)⟩) rfl, ?_⟩
  rw [amo_back (ord := ord) (x := 0x9#4) rfl rfl]
  show some (Instr.amoXacc f ord (Ty.ofCode (ty.code)) a b ((e ++ 0#10).extractLsb' 10 6)) = _
  rw [ty_code, e_field]
theorem predictorDecay (cluster : Nat) : Statement (.predictorDecay cluster) := step_law rfl
theorem ldAcq (f : Form) (ty : Ty) (d : Reg) (a : Reg) (e : Reg) : Statement (.ldAcq f ty d a e) := by
  intro h r hr
  cases hr
  simp only [Instr.wf, Bool.and_eq_true] at h
  obtain ⟨⟨h0, h1⟩, h2⟩ := h
  refine ⟨fits_plain h0 rfl rfl rfl (fun e => ⟨(x16_e (z_none h2 e)), rfl, (ty_none h1 e)⟩) rfl, ?_⟩
  show some (Instr.ldAcq f (Ty.ofCode (ty.code)) d a ((e ++ 0#10).extractLsb' 10 6)) = _
  rw [ty_code, e_field]
theorem stRel (f : Form) (ty : Ty) (d : Reg) (a : Reg) (e : Reg) : Statement (.stRel f ty d a e) := by
  intro h r hr
  cases hr
  simp only [Instr.wf, Bool.and_eq_true] at h
  obtain ⟨⟨h0, h1⟩, h2⟩ := h
  refine ⟨fits_plain h0 rfl rfl rfl (fun e => ⟨(x16_e (z_none h2 e)), rfl, (ty_none h1 e)⟩) rfl, ?_⟩
  show some (Instr.stRel f (Ty.ofCode (ty.code)) d a ((e ++ 0#10).extractLsb' 10 6)) = _
  rw [ty_code, e_field]
theorem fenceAcq (f : Form) (a : Reg) : Statement (.fenceAcq f a) := by
  intro h r hr
  cases hr
  have h0 := h
  refine ⟨fits_plain h0 rfl rfl rfl (fun e => ⟨rfl, rfl, rfl⟩) rfl, ?_⟩
  show some (Instr.fenceAcq f a) = _
  rfl
theorem fenceRel (f : Form) (a : Reg) : Statement (.fenceRel f a) := by
  intro h r hr
  cases hr
  have h0 := h
  refine ⟨fits_plain h0 rfl rfl rfl (fun e => ⟨rfl, rfl, rfl⟩) rfl, ?_⟩
  show some (Instr.fenceRel f a) = _
  rfl
theorem fenceFull (f : Form) (a : Reg) : Statement (.fenceFull f a) := by
  intro h r hr
  cases hr
  have h0 := h
  refine ⟨fits_plain h0 rfl rfl rfl (fun e => ⟨rfl, rfl, rfl⟩) rfl, ?_⟩
  show some (Instr.fenceFull f a) = _
  rfl
theorem fenceAck (f : Form) : Statement (.fenceAck f) := by
  intro h r hr
  cases hr
  have h0 := h
  refine ⟨fits_plain h0 rfl rfl rfl (fun e => ⟨rfl, rfl, rfl⟩) rfl, ?_⟩
  show some (Instr.fenceAck f) = _
  rfl
theorem fenceAcqAll (f : Form) (a : Reg) : Statement (.fenceAcqAll f a) := by
  intro h r hr
  cases hr
  have h0 := h
  refine ⟨fits_plain h0 rfl rfl rfl (fun e => ⟨rfl, rfl, rfl⟩) rfl, ?_⟩
  show some (Instr.fenceAcqAll f a) = _
  rfl
theorem fenceRelAll (f : Form) (a : Reg) : Statement (.fenceRelAll f a) := by
  intro h r hr
  cases hr
  have h0 := h
  refine ⟨fits_plain h0 rfl rfl rfl (fun e => ⟨rfl, rfl, rfl⟩) rfl, ?_⟩
  show some (Instr.fenceRelAll f a) = _
  rfl
theorem fenceFullAll (f : Form) (a : Reg) : Statement (.fenceFullAll f a) := by
  intro h r hr
  cases hr
  have h0 := h
  refine ⟨fits_plain h0 rfl rfl rfl (fun e => ⟨rfl, rfl, rfl⟩) rfl, ?_⟩
  show some (Instr.fenceFullAll f a) = _
  rfl
theorem bind (f : Form) (d : Reg) (a : Reg) (b : Reg) : Statement (.bind f d a b) := by
  intro h r hr
  cases hr
  have h0 := h
  refine ⟨fits_plain h0 rfl rfl rfl (fun e => ⟨rfl, rfl, rfl⟩) rfl, ?_⟩
  show some (Instr.bind f d a b) = _
  rfl
theorem unbind (f : Form) (a : Reg) (b : Reg) : Statement (.unbind f a b) := by
  intro h r hr
  cases hr
  have h0 := h
  refine ⟨fits_plain h0 rfl rfl rfl (fun e => ⟨rfl, rfl, rfl⟩) rfl, ?_⟩
  show some (Instr.unbind f a b) = _
  rfl
theorem wbr (f : Form) (a : Reg) (b : Reg) : Statement (.wbr f a b) := by
  intro h r hr
  cases hr
  have h0 := h
  refine ⟨fits_plain h0 rfl rfl rfl (fun e => ⟨rfl, rfl, rfl⟩) rfl, ?_⟩
  show some (Instr.wbr f a b) = _
  rfl
theorem invr (f : Form) (a : Reg) (b : Reg) : Statement (.invr f a b) := by
  intro h r hr
  cases hr
  have h0 := h
  refine ⟨fits_plain h0 rfl rfl rfl (fun e => ⟨rfl, rfl, rfl⟩) rfl, ?_⟩
  show some (Instr.invr f a b) = _
  rfl
theorem tadd (f : Form) (ty : Ty) (sat : Bool) (d : Tile) (a : Tile) (b : Tile) : Statement (.tadd f ty sat d a b) := by
  intro h r hr
  cases hr
  simp only [Instr.wf, Bool.and_eq_true] at h
  obtain ⟨h0, h1⟩ := h
  refine ⟨fits_plain h0 rfl rfl rfl (fun e => absurd (form_len h0) (by rw [e]; decide)) rfl, ?_⟩
  show some (Instr.tadd f (Ty.ofCode (ty.code)) ((0#6 ++ BitVec.ofBool sat ++ 0#1).getLsbD 1) ((0#2 ++ d).extractLsb' 0 4) ((0#2 ++ a).extractLsb' 0 4) ((0#2 ++ b).extractLsb' 0 4)) = _
  rw [ty_code, ((by decide : ∀ (sat : Bool), ((0#6 ++ BitVec.ofBool sat ++ 0#1).getLsbD 1) = sat) sat), tile_field, tile_field, tile_field]
theorem tsub (f : Form) (ty : Ty) (sat : Bool) (d : Tile) (a : Tile) (b : Tile) : Statement (.tsub f ty sat d a b) := by
  intro h r hr
  cases hr
  simp only [Instr.wf, Bool.and_eq_true] at h
  obtain ⟨h0, h1⟩ := h
  refine ⟨fits_plain h0 rfl rfl rfl (fun e => absurd (form_len h0) (by rw [e]; decide)) rfl, ?_⟩
  show some (Instr.tsub f (Ty.ofCode (ty.code)) ((0#6 ++ BitVec.ofBool sat ++ 0#1).getLsbD 1) ((0#2 ++ d).extractLsb' 0 4) ((0#2 ++ a).extractLsb' 0 4) ((0#2 ++ b).extractLsb' 0 4)) = _
  rw [ty_code, ((by decide : ∀ (sat : Bool), ((0#6 ++ BitVec.ofBool sat ++ 0#1).getLsbD 1) = sat) sat), tile_field, tile_field, tile_field]
theorem tmul (f : Form) (ty : Ty) (sat : Bool) (d : Tile) (a : Tile) (b : Tile) : Statement (.tmul f ty sat d a b) := by
  intro h r hr
  cases hr
  simp only [Instr.wf, Bool.and_eq_true] at h
  obtain ⟨h0, h1⟩ := h
  refine ⟨fits_plain h0 rfl rfl rfl (fun e => absurd (form_len h0) (by rw [e]; decide)) rfl, ?_⟩
  show some (Instr.tmul f (Ty.ofCode (ty.code)) ((0#6 ++ BitVec.ofBool sat ++ 0#1).getLsbD 1) ((0#2 ++ d).extractLsb' 0 4) ((0#2 ++ a).extractLsb' 0 4) ((0#2 ++ b).extractLsb' 0 4)) = _
  rw [ty_code, ((by decide : ∀ (sat : Bool), ((0#6 ++ BitVec.ofBool sat ++ 0#1).getLsbD 1) = sat) sat), tile_field, tile_field, tile_field]
theorem tmin (f : Form) (ty : Ty) (d : Tile) (a : Tile) (b : Tile) : Statement (.tmin f ty d a b) := by
  intro h r hr
  cases hr
  simp only [Instr.wf, Bool.and_eq_true] at h
  obtain ⟨h0, h1⟩ := h
  refine ⟨fits_plain h0 rfl rfl rfl (fun e => absurd (form_len h0) (by rw [e]; decide)) rfl, ?_⟩
  show some (Instr.tmin f (Ty.ofCode (ty.code)) ((0#2 ++ d).extractLsb' 0 4) ((0#2 ++ a).extractLsb' 0 4) ((0#2 ++ b).extractLsb' 0 4)) = _
  rw [ty_code, tile_field, tile_field, tile_field]
theorem tmax (f : Form) (ty : Ty) (d : Tile) (a : Tile) (b : Tile) : Statement (.tmax f ty d a b) := by
  intro h r hr
  cases hr
  simp only [Instr.wf, Bool.and_eq_true] at h
  obtain ⟨h0, h1⟩ := h
  refine ⟨fits_plain h0 rfl rfl rfl (fun e => absurd (form_len h0) (by rw [e]; decide)) rfl, ?_⟩
  show some (Instr.tmax f (Ty.ofCode (ty.code)) ((0#2 ++ d).extractLsb' 0 4) ((0#2 ++ a).extractLsb' 0 4) ((0#2 ++ b).extractLsb' 0 4)) = _
  rw [ty_code, tile_field, tile_field, tile_field]
theorem tand (f : Form) (ty : Ty) (d : Tile) (a : Tile) (b : Tile) : Statement (.tand f ty d a b) := by
  intro h r hr
  cases hr
  simp only [Instr.wf, Bool.and_eq_true] at h
  obtain ⟨h0, h1⟩ := h
  refine ⟨fits_plain h0 rfl rfl rfl (fun e => absurd (form_len h0) (by rw [e]; decide)) rfl, ?_⟩
  show some (Instr.tand f (Ty.ofCode (ty.code)) ((0#2 ++ d).extractLsb' 0 4) ((0#2 ++ a).extractLsb' 0 4) ((0#2 ++ b).extractLsb' 0 4)) = _
  rw [ty_code, tile_field, tile_field, tile_field]
theorem tor (f : Form) (ty : Ty) (d : Tile) (a : Tile) (b : Tile) : Statement (.tor f ty d a b) := by
  intro h r hr
  cases hr
  simp only [Instr.wf, Bool.and_eq_true] at h
  obtain ⟨h0, h1⟩ := h
  refine ⟨fits_plain h0 rfl rfl rfl (fun e => absurd (form_len h0) (by rw [e]; decide)) rfl, ?_⟩
  show some (Instr.tor f (Ty.ofCode (ty.code)) ((0#2 ++ d).extractLsb' 0 4) ((0#2 ++ a).extractLsb' 0 4) ((0#2 ++ b).extractLsb' 0 4)) = _
  rw [ty_code, tile_field, tile_field, tile_field]
theorem txor (f : Form) (ty : Ty) (d : Tile) (a : Tile) (b : Tile) : Statement (.txor f ty d a b) := by
  intro h r hr
  cases hr
  simp only [Instr.wf, Bool.and_eq_true] at h
  obtain ⟨h0, h1⟩ := h
  refine ⟨fits_plain h0 rfl rfl rfl (fun e => absurd (form_len h0) (by rw [e]; decide)) rfl, ?_⟩
  show some (Instr.txor f (Ty.ofCode (ty.code)) ((0#2 ++ d).extractLsb' 0 4) ((0#2 ++ a).extractLsb' 0 4) ((0#2 ++ b).extractLsb' 0 4)) = _
  rw [ty_code, tile_field, tile_field, tile_field]
theorem tfma (f : Form) (ty : Ty) (sat : Bool) (d : Tile) (a : Tile) (b : Tile) (c : Tile) : Statement (.tfma f ty sat d a b c) := by
  intro h r hr
  cases hr
  simp only [Instr.wf, Bool.and_eq_true] at h
  obtain ⟨h0, h1⟩ := h
  refine ⟨fits_plain h0 rfl rfl rfl (fun e => absurd (form_len h0) (by rw [e]; decide)) rfl, ?_⟩
  show some (Instr.tfma f (Ty.ofCode (ty.code)) ((0#6 ++ BitVec.ofBool sat ++ 0#1).getLsbD 1) ((0#2 ++ d).extractLsb' 0 4) ((0#2 ++ a).extractLsb' 0 4) ((0#2 ++ b).extractLsb' 0 4) ((c ++ 0#12).extractLsb' 12 4)) = _
  rw [ty_code, ((by decide : ∀ (sat : Bool), ((0#6 ++ BitVec.ofBool sat ++ 0#1).getLsbD 1) = sat) sat), tile_field, tile_field, tile_field, tc_field]
theorem tcmp (f : Form) (ty : Ty) (cond : BitVec 3) (d : Tile) (a : Tile) (b : Tile) : Statement (.tcmp f ty cond d a b) := by
  intro h r hr
  cases hr
  simp only [Instr.wf, Bool.and_eq_true] at h
  obtain ⟨⟨⟨h0, h1⟩, h2⟩, h3⟩ := h
  refine ⟨fits_plain h0 rfl rfl rfl (fun e => absurd (form_len h0) (by rw [e]; decide)) rfl, ?_⟩
  show some (Instr.tcmp f (Ty.ofCode (ty.code)) ((0#5 ++ cond).extractLsb' 0 3) ((0#2 ++ d).extractLsb' 0 4) ((0#2 ++ a).extractLsb' 0 4) ((0#2 ++ b).extractLsb' 0 4)) = _
  rw [ty_code, ((by decide : ∀ (cond : BitVec 3), ((0#5 ++ cond).extractLsb' 0 3) = cond) cond), tile_field, tile_field, tile_field]
theorem tsel (f : Form) (ty : Ty) (d : Tile) (a : Tile) (b : Tile) (c : Tile) : Statement (.tsel f ty d a b c) := by
  intro h r hr
  cases hr
  simp only [Instr.wf, Bool.and_eq_true] at h
  obtain ⟨h0, h1⟩ := h
  refine ⟨fits_plain h0 rfl rfl rfl (fun e => absurd (form_len h0) (by rw [e]; decide)) rfl, ?_⟩
  show some (Instr.tsel f (Ty.ofCode (ty.code)) ((0#2 ++ d).extractLsb' 0 4) ((0#2 ++ a).extractLsb' 0 4) ((0#2 ++ b).extractLsb' 0 4) ((c ++ 0#12).extractLsb' 12 4)) = _
  rw [ty_code, tile_field, tile_field, tile_field, tc_field]
theorem tmov (f : Form) (ty : Ty) (d : Tile) (a : Tile) : Statement (.tmov f ty d a) := by
  intro h r hr
  cases hr
  simp only [Instr.wf, Bool.and_eq_true] at h
  obtain ⟨h0, h1⟩ := h
  refine ⟨fits_plain h0 rfl rfl rfl (fun e => absurd (form_len h0) (by rw [e]; decide)) rfl, ?_⟩
  show some (Instr.tmov f (Ty.ofCode (ty.code)) ((0#2 ++ d).extractLsb' 0 4) ((0#2 ++ a).extractLsb' 0 4)) = _
  rw [ty_code, tile_field, tile_field]
theorem tzero (f : Form) (ty : Ty) (d : Tile) : Statement (.tzero f ty d) := by
  intro h r hr
  cases hr
  simp only [Instr.wf, Bool.and_eq_true] at h
  obtain ⟨h0, h1⟩ := h
  refine ⟨fits_plain h0 rfl rfl rfl (fun e => absurd (form_len h0) (by rw [e]; decide)) rfl, ?_⟩
  show some (Instr.tzero f (Ty.ofCode (ty.code)) ((0#2 ++ d).extractLsb' 0 4)) = _
  rw [ty_code, tile_field]
theorem tiota (f : Form) (ty : Ty) (d : Tile) (s8 : BitVec 8) : Statement (.tiota f ty d s8) := by
  intro h r hr
  cases hr
  simp only [Instr.wf, Bool.and_eq_true] at h
  obtain ⟨h0, h1⟩ := h
  refine ⟨fits_plain h0 rfl rfl rfl (fun e => absurd (form_len h0) (by rw [e]; decide)) rfl, ?_⟩
  show some (Instr.tiota f (Ty.ofCode (ty.code)) ((0#2 ++ d).extractLsb' 0 4) ((0#8 ++ s8).extractLsb' 0 8)) = _
  rw [ty_code, tile_field, imm8_field]
theorem tabs (f : Form) (ty : Ty) (sat : Bool) (d : Tile) (a : Tile) : Statement (.tabs f ty sat d a) := by
  intro h r hr
  cases hr
  simp only [Instr.wf, Bool.and_eq_true] at h
  obtain ⟨h0, h1⟩ := h
  refine ⟨fits_plain h0 rfl rfl rfl (fun e => absurd (form_len h0) (by rw [e]; decide)) rfl, ?_⟩
  show some (Instr.tabs f (Ty.ofCode (ty.code)) ((0#6 ++ BitVec.ofBool sat ++ 0#1).getLsbD 1) ((0#2 ++ d).extractLsb' 0 4) ((0#2 ++ a).extractLsb' 0 4)) = _
  rw [ty_code, ((by decide : ∀ (sat : Bool), ((0#6 ++ BitVec.ofBool sat ++ 0#1).getLsbD 1) = sat) sat), tile_field, tile_field]
theorem tneg (f : Form) (ty : Ty) (sat : Bool) (d : Tile) (a : Tile) : Statement (.tneg f ty sat d a) := by
  intro h r hr
  cases hr
  simp only [Instr.wf, Bool.and_eq_true] at h
  obtain ⟨h0, h1⟩ := h
  refine ⟨fits_plain h0 rfl rfl rfl (fun e => absurd (form_len h0) (by rw [e]; decide)) rfl, ?_⟩
  show some (Instr.tneg f (Ty.ofCode (ty.code)) ((0#6 ++ BitVec.ofBool sat ++ 0#1).getLsbD 1) ((0#2 ++ d).extractLsb' 0 4) ((0#2 ++ a).extractLsb' 0 4)) = _
  rw [ty_code, ((by decide : ∀ (sat : Bool), ((0#6 ++ BitVec.ofBool sat ++ 0#1).getLsbD 1) = sat) sat), tile_field, tile_field]
theorem texp2 (f : Form) (ty : Ty) (d : Tile) (a : Tile) : Statement (.texp2 f ty d a) := by
  intro h r hr
  cases hr
  simp only [Instr.wf, Bool.and_eq_true] at h
  obtain ⟨h0, h1⟩ := h
  refine ⟨fits_plain h0 rfl rfl rfl (fun e => absurd (form_len h0) (by rw [e]; decide)) rfl, ?_⟩
  show some (Instr.texp2 f (Ty.ofCode (ty.code)) ((0#2 ++ d).extractLsb' 0 4) ((0#2 ++ a).extractLsb' 0 4)) = _
  rw [ty_code, tile_field, tile_field]
theorem tlog2 (f : Form) (ty : Ty) (d : Tile) (a : Tile) : Statement (.tlog2 f ty d a) := by
  intro h r hr
  cases hr
  simp only [Instr.wf, Bool.and_eq_true] at h
  obtain ⟨h0, h1⟩ := h
  refine ⟨fits_plain h0 rfl rfl rfl (fun e => absurd (form_len h0) (by rw [e]; decide)) rfl, ?_⟩
  show some (Instr.tlog2 f (Ty.ofCode (ty.code)) ((0#2 ++ d).extractLsb' 0 4) ((0#2 ++ a).extractLsb' 0 4)) = _
  rw [ty_code, tile_field, tile_field]
theorem trcp (f : Form) (ty : Ty) (d : Tile) (a : Tile) : Statement (.trcp f ty d a) := by
  intro h r hr
  cases hr
  simp only [Instr.wf, Bool.and_eq_true] at h
  obtain ⟨h0, h1⟩ := h
  refine ⟨fits_plain h0 rfl rfl rfl (fun e => absurd (form_len h0) (by rw [e]; decide)) rfl, ?_⟩
  show some (Instr.trcp f (Ty.ofCode (ty.code)) ((0#2 ++ d).extractLsb' 0 4) ((0#2 ++ a).extractLsb' 0 4)) = _
  rw [ty_code, tile_field, tile_field]
theorem trsqrt (f : Form) (ty : Ty) (d : Tile) (a : Tile) : Statement (.trsqrt f ty d a) := by
  intro h r hr
  cases hr
  simp only [Instr.wf, Bool.and_eq_true] at h
  obtain ⟨h0, h1⟩ := h
  refine ⟨fits_plain h0 rfl rfl rfl (fun e => absurd (form_len h0) (by rw [e]; decide)) rfl, ?_⟩
  show some (Instr.trsqrt f (Ty.ofCode (ty.code)) ((0#2 ++ d).extractLsb' 0 4) ((0#2 ++ a).extractLsb' 0 4)) = _
  rw [ty_code, tile_field, tile_field]
theorem ttanh (f : Form) (ty : Ty) (d : Tile) (a : Tile) : Statement (.ttanh f ty d a) := by
  intro h r hr
  cases hr
  simp only [Instr.wf, Bool.and_eq_true] at h
  obtain ⟨h0, h1⟩ := h
  refine ⟨fits_plain h0 rfl rfl rfl (fun e => absurd (form_len h0) (by rw [e]; decide)) rfl, ?_⟩
  show some (Instr.ttanh f (Ty.ofCode (ty.code)) ((0#2 ++ d).extractLsb' 0 4) ((0#2 ++ a).extractLsb' 0 4)) = _
  rw [ty_code, tile_field, tile_field]
theorem tbcast (f : Form) (ty : Ty) (d : Tile) (v : Src) : Statement (.tbcast f ty d v) := by
  intro h r hr
  cases hr
  simp only [Instr.wf, Bool.and_eq_true] at h
  obtain ⟨⟨h0, h1⟩, h2⟩ := h
  refine ⟨fits_src h0 h2 rfl rfl rfl (fun e => absurd (form_len h0) (by rw [e]; decide)) rfl, ?_⟩
  show some (Instr.tbcast f (Ty.ofCode (ty.code)) ((0#2 ++ d).extractLsb' 0 4) (Raw.srcA ({ Raw.base f 0x31 0x03 with ty := ty.code, d := 0#2 ++ d, a := v.field, lit := v.lit }))) = _
  rw [ty_code, tile_field, srcA_back h2 rfl rfl rfl]
theorem tset (f : Form) (ty : Ty) (d : Tile) (row : BitVec 4) (col : BitVec 8) (v : Src) : Statement (.tset f ty d row col v) := by
  intro h r hr
  cases hr
  simp only [Instr.wf, Bool.and_eq_true] at h
  obtain ⟨⟨⟨h0, h1⟩, h2⟩, h3⟩ := h
  refine ⟨fits_src h0 h2 rfl rfl rfl (fun e => absurd (form_len h0) (by rw [e]; decide)) rfl, ?_⟩
  show some (Instr.tset f (Ty.ofCode (ty.code)) ((0#2 ++ d).extractLsb' 0 4) ((row ++ 0#4 ++ col).extractLsb' 12 4) ((row ++ 0#4 ++ col).extractLsb' 0 8) (Raw.srcA ({ Raw.base f 0x35 0x00 with ty := ty.code, d := 0#2 ++ d, a := v.field, x16 := row ++ 0#4 ++ col, lit := v.lit }))) = _
  rw [ty_code, tile_field, set_row, set_col, srcA_back h2 rfl rfl rfl]
theorem trowred (f : Form) (ty : Ty) (op : BitVec 2) (wide : Bool) (d : Tile) (a : Tile) : Statement (.trowred f ty op wide d a) := by
  intro h r hr
  cases hr
  simp only [Instr.wf, Bool.and_eq_true] at h
  obtain ⟨⟨⟨h0, h1⟩, h2⟩, h3⟩ := h
  refine ⟨fits_plain h0 rfl rfl rfl (fun e => absurd (form_len h0) (by rw [e]; decide)) rfl, ?_⟩
  show some (Instr.trowred f (Ty.ofCode (ty.code)) ((0#5 ++ BitVec.ofBool wide ++ op).extractLsb' 0 2) ((0#5 ++ BitVec.ofBool wide ++ op).getLsbD 2) ((0#2 ++ d).extractLsb' 0 4) ((0#2 ++ a).extractLsb' 0 4)) = _
  rw [ty_code, ((by decide : ∀ (op : BitVec 2) (wide : Bool), ((0#5 ++ BitVec.ofBool wide ++ op).extractLsb' 0 2) = op) op wide), ((by decide : ∀ (op : BitVec 2) (wide : Bool), ((0#5 ++ BitVec.ofBool wide ++ op).getLsbD 2) = wide) op wide), tile_field, tile_field]
theorem tcolred (f : Form) (ty : Ty) (op : BitVec 2) (wide : Bool) (d : Tile) (a : Tile) : Statement (.tcolred f ty op wide d a) := by
  intro h r hr
  cases hr
  simp only [Instr.wf, Bool.and_eq_true] at h
  obtain ⟨⟨⟨h0, h1⟩, h2⟩, h3⟩ := h
  refine ⟨fits_plain h0 rfl rfl rfl (fun e => absurd (form_len h0) (by rw [e]; decide)) rfl, ?_⟩
  show some (Instr.tcolred f (Ty.ofCode (ty.code)) ((0#5 ++ BitVec.ofBool wide ++ op).extractLsb' 0 2) ((0#5 ++ BitVec.ofBool wide ++ op).getLsbD 2) ((0#2 ++ d).extractLsb' 0 4) ((0#2 ++ a).extractLsb' 0 4)) = _
  rw [ty_code, ((by decide : ∀ (op : BitVec 2) (wide : Bool), ((0#5 ++ BitVec.ofBool wide ++ op).extractLsb' 0 2) = op) op wide), ((by decide : ∀ (op : BitVec 2) (wide : Bool), ((0#5 ++ BitVec.ofBool wide ++ op).getLsbD 2) = wide) op wide), tile_field, tile_field]
theorem ttrans (f : Form) (ty : Ty) (d : Tile) (a : Tile) (h : BitVec 8) : Statement (.ttrans f ty d a h) := by
  intro h r hr
  cases hr
  simp only [Instr.wf, Bool.and_eq_true] at h
  obtain ⟨⟨h0, h1⟩, h2⟩ := h
  refine ⟨fits_plain h0 rfl rfl rfl (fun e => absurd (form_len h0) (by rw [e]; decide)) rfl, ?_⟩
  show some (Instr.ttrans f (Ty.ofCode (ty.code)) ((0#2 ++ d).extractLsb' 0 4) ((0#2 ++ a).extractLsb' 0 4) ((0#8 ++ h).extractLsb' 0 8)) = _
  rw [ty_code, tile_field, tile_field, imm8_field]
theorem tperm (f : Form) (ty : Ty) (d : Tile) (a : Tile) (b : Tile) : Statement (.tperm f ty d a b) := by
  intro h r hr
  cases hr
  simp only [Instr.wf, Bool.and_eq_true] at h
  obtain ⟨h0, h1⟩ := h
  refine ⟨fits_plain h0 rfl rfl rfl (fun e => absurd (form_len h0) (by rw [e]; decide)) rfl, ?_⟩
  show some (Instr.tperm f (Ty.ofCode (ty.code)) ((0#2 ++ d).extractLsb' 0 4) ((0#2 ++ a).extractLsb' 0 4) ((0#2 ++ b).extractLsb' 0 4)) = _
  rw [ty_code, tile_field, tile_field, tile_field]
theorem tlutload (f : Form) (a : Tile) : Statement (.tlutload f a) := by
  intro h r hr
  cases hr
  have h0 := h
  refine ⟨fits_plain h0 rfl rfl rfl (fun e => absurd (form_len h0) (by rw [e]; decide)) rfl, ?_⟩
  show some (Instr.tlutload f ((0#2 ++ a).extractLsb' 0 4)) = _
  rw [tile_field]
theorem tlut (f : Form) (ty : Ty) (d : Tile) (a : Tile) (p : BitVec 8) : Statement (.tlut f ty d a p) := by
  intro h r hr
  cases hr
  simp only [Instr.wf, Bool.and_eq_true] at h
  obtain ⟨⟨h0, h1⟩, h2⟩ := h
  refine ⟨fits_plain h0 rfl rfl rfl (fun e => absurd (form_len h0) (by rw [e]; decide)) rfl, ?_⟩
  show some (Instr.tlut f (Ty.ofCode (ty.code)) ((0#2 ++ d).extractLsb' 0 4) ((0#2 ++ a).extractLsb' 0 4) ((0#8 ++ p).extractLsb' 0 8)) = _
  rw [ty_code, tile_field, tile_field, imm8_field]
theorem tplanes (f : Form) (d : Tile) (a : Tile) : Statement (.tplanes f d a) := by
  intro h r hr
  cases hr
  have h0 := h
  refine ⟨fits_plain h0 rfl rfl rfl (fun e => absurd (form_len h0) (by rw [e]; decide)) rfl, ?_⟩
  show some (Instr.tplanes f ((0#2 ++ d).extractLsb' 0 4) ((0#2 ++ a).extractLsb' 0 4)) = _
  rw [tile_field, tile_field]
theorem tunplanes (f : Form) (k : BitVec 4) (d : Tile) (a : Tile) : Statement (.tunplanes f k d a) := by
  intro h r hr
  cases hr
  simp only [Instr.wf, Bool.and_eq_true] at h
  obtain ⟨h0, h1⟩ := h
  refine ⟨fits_plain h0 rfl rfl rfl (fun e => absurd (form_len h0) (by rw [e]; decide)) rfl, ?_⟩
  show some (Instr.tunplanes f ((0#4 ++ k).extractLsb' 0 4) ((0#2 ++ d).extractLsb' 0 4) ((0#2 ++ a).extractLsb' 0 4)) = _
  rw [((by decide : ∀ (k : BitVec 4), ((0#4 ++ k).extractLsb' 0 4) = k) k), tile_field, tile_field]
theorem bsgetT (f : Form) (ty : Ty) (d : Tile) (n : BitVec 8) : Statement (.bsgetT f ty d n) := by
  intro h r hr
  cases hr
  simp only [Instr.wf, Bool.and_eq_true] at h
  obtain ⟨⟨h0, h1⟩, h2⟩ := h
  refine ⟨fits_plain h0 rfl rfl rfl (fun e => absurd (form_len h0) (by rw [e]; decide)) rfl, ?_⟩
  show some (Instr.bsgetT f (Ty.ofCode (ty.code)) ((0#2 ++ d).extractLsb' 0 4) ((0#8 ++ n).extractLsb' 0 8)) = _
  rw [ty_code, tile_field, imm8_field]
theorem mldw (f : Form) (ty : Ty) (k : BitVec 4) (slot : Bool) (a : Tile) : Statement (.mldw f ty k slot a) := by
  intro h r hr
  cases hr
  simp only [Instr.wf, Bool.and_eq_true] at h
  obtain ⟨⟨h0, h1⟩, h2⟩ := h
  refine ⟨fits_plain h0 rfl rfl rfl (fun e => absurd (form_len h0) (by rw [e]; decide)) rfl, ?_⟩
  show some (Instr.mldw f (Ty.ofCode (ty.code)) ((0#4 ++ k).extractLsb' 0 4) ((0#15 ++ BitVec.ofBool slot).getLsbD 0) ((0#2 ++ a).extractLsb' 0 4)) = _
  rw [ty_code, ((by decide : ∀ (k : BitVec 4), ((0#4 ++ k).extractLsb' 0 4) = k) k), ((by decide : ∀ (slot : Bool), ((0#15 ++ BitVec.ofBool slot).getLsbD 0) = slot) slot), tile_field]
theorem mrd (f : Form) (slot : Bool) (d : Tile) : Statement (.mrd f slot d) := by
  intro h r hr
  cases hr
  have h0 := h
  refine ⟨fits_plain h0 rfl rfl rfl (fun e => absurd (form_len h0) (by rw [e]; decide)) rfl, ?_⟩
  show some (Instr.mrd f ((0#15 ++ BitVec.ofBool slot).getLsbD 0) ((0#2 ++ d).extractLsb' 0 4)) = _
  rw [((by decide : ∀ (slot : Bool), ((0#15 ++ BitVec.ofBool slot).getLsbD 0) = slot) slot), tile_field]
theorem mclr (f : Form) (slot : Bool) : Statement (.mclr f slot) := by
  intro h r hr
  cases hr
  have h0 := h
  refine ⟨fits_plain h0 rfl rfl rfl (fun e => absurd (form_len h0) (by rw [e]; decide)) rfl, ?_⟩
  show some (Instr.mclr f ((0#15 ++ BitVec.ofBool slot).getLsbD 0)) = _
  rw [((by decide : ∀ (slot : Bool), ((0#15 ++ BitVec.ofBool slot).getLsbD 0) = slot) slot)]
theorem mwait (f : Form) (cover : BitVec 2) : Statement (.mwait f cover) := by
  intro h r hr
  cases hr
  simp only [Instr.wf, Bool.and_eq_true] at h
  obtain ⟨h0, h1⟩ := h
  refine ⟨fits_plain h0 rfl rfl rfl (fun e => absurd (form_len h0) (by rw [e]; decide)) rfl, ?_⟩
  show some (Instr.mwait f ((0#6 ++ cover).extractLsb' 0 2)) = _
  rw [((by decide : ∀ (cover : BitVec 2), ((0#6 ++ cover).extractLsb' 0 2) = cover) cover)]
theorem mxaOpStart (core : Nat) (n : Nat) : Statement (.mxaOpStart core n) := step_law rfl
theorem mxaOpFinish (core : Nat) (n : Nat) : Statement (.mxaOpFinish core n) := step_law rfl
theorem mwaitEnd (core : Nat) (strand : Nat) : Statement (.mwaitEnd core strand) := step_law rfl
theorem ctxinfo (f : Form) (d : Reg) (q : BitVec 6) : Statement (.ctxinfo f d q) := by
  intro h r hr
  cases hr
  simp only [Instr.wf, Bool.and_eq_true] at h
  obtain ⟨h0, h1⟩ := h
  refine ⟨fits_plain h0 rfl rfl rfl (fun e => ⟨rfl, rfl, rfl⟩) rfl, ?_⟩
  show some (Instr.ctxinfo f d q) = _
  rfl
theorem enrd (f : Form) (d : Reg) (a : Reg) (q : BitVec 6) : Statement (.enrd f d a q) := by
  intro h r hr
  cases hr
  simp only [Instr.wf, Bool.and_eq_true] at h
  obtain ⟨h0, h1⟩ := h
  refine ⟨fits_plain h0 rfl rfl rfl (fun e => ⟨rfl, rfl, rfl⟩) rfl, ?_⟩
  show some (Instr.enrd f d a q) = _
  rfl
theorem qpost (f : Form) (d : Reg) (a : Reg) (b : Reg) : Statement (.qpost f d a b) := by
  intro h r hr
  cases hr
  have h0 := h
  refine ⟨fits_plain h0 rfl rfl rfl (fun e => ⟨rfl, rfl, rfl⟩) rfl, ?_⟩
  show some (Instr.qpost f d a b) = _
  rfl
theorem packetPublished (queue : Nat) (k : Nat) : Statement (.packetPublished queue k) := step_law rfl
theorem qwait (f : Form) (conf : Bool) (d : Reg) (a : Reg) (b : Reg) : Statement (.qwait f conf d a b) := by
  intro h r hr
  cases hr
  simp only [Instr.wf, Bool.and_eq_true] at h
  obtain ⟨h0, h1⟩ := h
  refine ⟨fits_plain h0 rfl rfl rfl (fun e => ⟨x16_conf h1 e, rfl, rfl⟩) rfl, ?_⟩
  show some (Instr.qwait f ((0#15 ++ BitVec.ofBool conf).getLsbD 0) d a b) = _
  rw [((by decide : ∀ (conf : Bool), ((0#15 ++ BitVec.ofBool conf).getLsbD 0) = conf) conf)]
theorem qwaitEnd (core : Nat) (strand : Nat) : Statement (.qwaitEnd core strand) := step_law rfl
theorem kinfo (f : Form) (d : Reg) (a : Reg) (b : Reg) : Statement (.kinfo f d a b) := by
  intro h r hr
  cases hr
  simp only [Instr.wf, Bool.and_eq_true] at h
  obtain ⟨h0, h1⟩ := h
  refine ⟨fits_plain h0 rfl rfl rfl (fun e => ⟨rfl, rfl, rfl⟩) rfl, ?_⟩
  show some (Instr.kinfo f d a b) = _
  rfl
theorem gid (f : Form) (d : Reg) (q : BitVec 6) : Statement (.gid f d q) := by
  intro h r hr
  cases hr
  simp only [Instr.wf, Bool.and_eq_true] at h
  obtain ⟨h0, h1⟩ := h
  refine ⟨fits_plain h0 rfl rfl rfl (fun e => ⟨rfl, rfl, rfl⟩) rfl, ?_⟩
  show some (Instr.gid f d q) = _
  rfl
theorem gdom (f : Form) (n : BitVec 6) : Statement (.gdom f n) := by
  intro h r hr
  cases hr
  simp only [Instr.wf, Bool.and_eq_true] at h
  obtain ⟨h0, h1⟩ := h
  refine ⟨fits_plain h0 rfl rfl rfl (fun e => ⟨rfl, rfl, rfl⟩) rfl, ?_⟩
  show some (Instr.gdom f n) = _
  rfl
theorem gdomWaitEnd (core : Nat) (strand : Nat) : Statement (.gdomWaitEnd core strand) := step_law rfl
theorem sstep (f : Form) (a : Reg) : Statement (.sstep f a) := by
  intro h r hr
  cases hr
  have h0 := h
  refine ⟨fits_plain h0 rfl rfl rfl (fun e => ⟨rfl, rfl, rfl⟩) rfl, ?_⟩
  show some (Instr.sstep f a) = _
  rfl
theorem sstepEnd (f : Form) : Statement (.sstepEnd f) := by
  intro h r hr
  cases hr
  have h0 := h
  refine ⟨fits_plain h0 rfl rfl rfl (fun e => ⟨rfl, rfl, rfl⟩) rfl, ?_⟩
  show some (Instr.sstepEnd f) = _
  rfl
theorem phaseEnd (kernel : Nat) (level : Nat) (bx : Nat) (by_ : Nat) (count : Nat) : Statement (.phaseEnd kernel level bx by_ count) := step_law rfl
theorem staggeredRelease (core : Nat) (strand : Nat) : Statement (.staggeredRelease core strand) := step_law rfl
theorem tsend (f : Form) (slot : BitVec 6) (t : Tile) (b : Reg) : Statement (.tsend f slot t b) := by
  intro h r hr
  cases hr
  simp only [Instr.wf, Bool.and_eq_true] at h
  obtain ⟨h0, h1⟩ := h
  refine ⟨fits_plain h0 rfl rfl rfl (fun e => ⟨rfl, rfl, rfl⟩) rfl, ?_⟩
  show some (Instr.tsend f slot ((0#2 ++ t).extractLsb' 0 4) b) = _
  rw [tile_field]
theorem tsendSlotStart (core : Nat) (strand : Nat) : Statement (.tsendSlotStart core strand) := step_law rfl
theorem tsendLand (pkt : Nat) : Statement (.tsendLand pkt) := step_law rfl
theorem kdecl (f : Form) (a : Reg) : Statement (.kdecl f a) := by
  intro h r hr
  cases hr
  have h0 := h
  refine ⟨fits_plain h0 rfl rfl rfl (fun e => ⟨rfl, rfl, rfl⟩) rfl, ?_⟩
  show some (Instr.kdecl f a) = _
  rfl
theorem kacq (f : Form) (d : Reg) (a : Reg) : Statement (.kacq f d a) := by
  intro h r hr
  cases hr
  have h0 := h
  refine ⟨fits_plain h0 rfl rfl rfl (fun e => ⟨rfl, rfl, rfl⟩) rfl, ?_⟩
  show some (Instr.kacq f d a) = _
  rfl
theorem ktry (f : Form) (d : Reg) (a : Reg) : Statement (.ktry f d a) := by
  intro h r hr
  cases hr
  have h0 := h
  refine ⟨fits_plain h0 rfl rfl rfl (fun e => ⟨rfl, rfl, rfl⟩) rfl, ?_⟩
  show some (Instr.ktry f d a) = _
  rfl
theorem krel (f : Form) (a : Reg) : Statement (.krel f a) := by
  intro h r hr
  cases hr
  have h0 := h
  refine ⟨fits_plain h0 rfl rfl rfl (fun e => ⟨rfl, rfl, rfl⟩) rfl, ?_⟩
  show some (Instr.krel f a) = _
  rfl
theorem kquery (f : Form) (d : Reg) (q : BitVec 6) : Statement (.kquery f d q) := by
  intro h r hr
  cases hr
  simp only [Instr.wf, Bool.and_eq_true] at h
  obtain ⟨h0, h1⟩ := h
  refine ⟨fits_plain h0 rfl rfl rfl (fun e => ⟨rfl, rfl, rfl⟩) rfl, ?_⟩
  show some (Instr.kquery f d q) = _
  rfl
theorem tumblerCycle (core : Nat) : Statement (.tumblerCycle core) := step_law rfl
theorem binit (f : Form) (a : Reg) (b : Reg) : Statement (.binit f a b) := by
  intro h r hr
  cases hr
  have h0 := h
  refine ⟨fits_plain h0 rfl rfl rfl (fun e => ⟨rfl, rfl, rfl⟩) rfl, ?_⟩
  show some (Instr.binit f a b) = _
  rfl
theorem barr (f : Form) (d : Reg) (a : Reg) (e : Reg) : Statement (.barr f d a e) := by
  intro h r hr
  cases hr
  simp only [Instr.wf, Bool.and_eq_true] at h
  obtain ⟨h0, h1⟩ := h
  refine ⟨fits_plain h0 rfl rfl rfl (fun e => ⟨(x16_e (z_none h1 e)), rfl, rfl⟩) rfl, ?_⟩
  show some (Instr.barr f d a ((e ++ 0#10).extractLsb' 10 6)) = _
  rw [e_field]
theorem bwait (f : Form) (d : Reg) (a : Reg) (b : Reg) (e : Reg) : Statement (.bwait f d a b e) := by
  intro h r hr
  cases hr
  simp only [Instr.wf, Bool.and_eq_true] at h
  obtain ⟨h0, h1⟩ := h
  refine ⟨fits_plain h0 rfl rfl rfl (fun e => ⟨(x16_e (z_none h1 e)), rfl, rfl⟩) rfl, ?_⟩
  show some (Instr.bwait f d a b ((e ++ 0#10).extractLsb' 10 6)) = _
  rw [e_field]
theorem barw (f : Form) (d : Reg) (a : Reg) (e : Reg) : Statement (.barw f d a e) := by
  intro h r hr
  cases hr
  simp only [Instr.wf, Bool.and_eq_true] at h
  obtain ⟨h0, h1⟩ := h
  refine ⟨fits_plain h0 rfl rfl rfl (fun e => ⟨(x16_e (z_none h1 e)), rfl, rfl⟩) rfl, ?_⟩
  show some (Instr.barw f d a ((e ++ 0#10).extractLsb' 10 6)) = _
  rw [e_field]
theorem bpoison (f : Form) (a : Reg) (b : Reg) (e : Reg) : Statement (.bpoison f a b e) := by
  intro h r hr
  cases hr
  simp only [Instr.wf, Bool.and_eq_true] at h
  obtain ⟨h0, h1⟩ := h
  refine ⟨fits_plain h0 rfl rfl rfl (fun e => ⟨(x16_e (z_none h1 e)), rfl, rfl⟩) rfl, ?_⟩
  show some (Instr.bpoison f a b ((e ++ 0#10).extractLsb' 10 6)) = _
  rw [e_field]
theorem bquery (f : Form) (d : Reg) (a : Reg) (q : BitVec 6) : Statement (.bquery f d a q) := by
  intro h r hr
  cases hr
  simp only [Instr.wf, Bool.and_eq_true] at h
  obtain ⟨h0, h1⟩ := h
  refine ⟨fits_plain h0 rfl rfl rfl (fun e => ⟨rfl, rfl, rfl⟩) rfl, ?_⟩
  show some (Instr.bquery f d a q) = _
  rfl
theorem barrierWaiterLeave (core : Nat) (strand : Nat) : Statement (.barrierWaiterLeave core strand) := step_law rfl
theorem xfer (f : Form) (xf : BitVec 3) (bud : BitVec 2) (d : Reg) (a : Reg) (b : Reg) : Statement (.xfer f xf bud d a b) := by
  intro h r hr
  cases hr
  simp only [Instr.wf, Bool.and_eq_true] at h
  obtain ⟨⟨⟨⟨h0, h1⟩, h2⟩, h3⟩, h4⟩ := h
  refine ⟨fits_plain h0 rfl rfl rfl (fun e => ⟨rfl, md_xfer h3 h4 e, rfl⟩) rfl, ?_⟩
  show some (Instr.xfer f ((0#3 ++ bud ++ xf).extractLsb' 0 3) ((0#3 ++ bud ++ xf).extractLsb' 3 2) d a b) = _
  rw [((by decide : ∀ (xf : BitVec 3) (bud : BitVec 2), ((0#3 ++ bud ++ xf).extractLsb' 0 3) = xf) xf bud), ((by decide : ∀ (xf : BitVec 3) (bud : BitVec 2), ((0#3 ++ bud ++ xf).extractLsb' 3 2) = bud) xf bud)]
theorem xferOpStart (core : Nat) : Statement (.xferOpStart core) := step_law rfl
theorem xferComplete (core : Nat) (slot : BitVec 2) : Statement (.xferComplete core slot) := step_law rfl
theorem xferFault (core : Nat) (slot : BitVec 2) : Statement (.xferFault core slot) := step_law rfl
theorem xferResume (core : Nat) (slot : BitVec 2) : Statement (.xferResume core slot) := step_law rfl
theorem latch (f : Form) (a : Reg) (b : Reg) (e : Reg) : Statement (.latch f a b e) := by
  intro h r hr
  cases hr
  simp only [Instr.wf, Bool.and_eq_true] at h
  obtain ⟨h0, h1⟩ := h
  refine ⟨fits_plain h0 rfl rfl rfl (fun e => ⟨(x16_e (z_none h1 e)), rfl, rfl⟩) rfl, ?_⟩
  show some (Instr.latch f a b ((e ++ 0#10).extractLsb' 10 6)) = _
  rw [e_field]
theorem ptprobe (f : Form) (d : Reg) (a : Reg) (q : BitVec 6) : Statement (.ptprobe f d a q) := by
  intro h r hr
  cases hr
  simp only [Instr.wf, Bool.and_eq_true] at h
  obtain ⟨h0, h1⟩ := h
  refine ⟨fits_plain h0 rfl rfl rfl (fun e => ⟨rfl, rfl, rfl⟩) rfl, ?_⟩
  show some (Instr.ptprobe f d a q) = _
  rfl
theorem tlbinv (f : Form) (d : Reg) (a : Reg) (b : Reg) : Statement (.tlbinv f d a b) := by
  intro h r hr
  cases hr
  have h0 := h
  refine ⟨fits_plain h0 rfl rfl rfl (fun e => ⟨rfl, rfl, rfl⟩) rfl, ?_⟩
  show some (Instr.tlbinv f d a b) = _
  rfl
theorem msend (f : Form) (d : Reg) (a : Reg) : Statement (.msend f d a) := by
  intro h r hr
  cases hr
  simp only [Instr.wf, Bool.and_eq_true] at h
  obtain ⟨h0, h1⟩ := h
  refine ⟨fits_plain h0 rfl rfl rfl (fun e => ⟨rfl, rfl, rfl⟩) rfl, ?_⟩
  show some (Instr.msend f d a) = _
  rfl
theorem msendAccept (pkt : Nat) : Statement (.msendAccept pkt) := step_law rfl
theorem msendRefused (pkt : Nat) : Statement (.msendRefused pkt) := step_law rfl
theorem mrecv (f : Form) (try_ : Bool) (d : Reg) (a : Reg) : Statement (.mrecv f try_ d a) := by
  intro h r hr
  cases hr
  simp only [Instr.wf, Bool.and_eq_true] at h
  obtain ⟨h0, h1⟩ := h
  refine ⟨fits_plain h0 rfl rfl rfl (fun e => ⟨rfl, rfl, rfl⟩) rfl, ?_⟩
  show some (Instr.mrecv f ((0#5 ++ BitVec.ofBool try_).getLsbD 0) d a) = _
  rw [((by decide : ∀ (try_ : Bool), ((0#5 ++ BitVec.ofBool try_).getLsbD 0) = try_) try_)]
theorem mrecvWaitEnd (core : Nat) (strand : Nat) : Statement (.mrecvWaitEnd core strand) := step_law rfl
theorem lquery (f : Form) (d : Reg) (a : Reg) (q : BitVec 6) : Statement (.lquery f d a q) := by
  intro h r hr
  cases hr
  simp only [Instr.wf, Bool.and_eq_true] at h
  obtain ⟨h0, h1⟩ := h
  refine ⟨fits_plain h0 rfl rfl rfl (fun e => ⟨rfl, rfl, rfl⟩) rfl, ?_⟩
  show some (Instr.lquery f d a q) = _
  rfl
theorem hopen (f : Form) (id : BitVec 4) (slot : BitVec 2) (a : Reg) (b : Reg) : Statement (.hopen f id slot a b) := by
  intro h r hr
  cases hr
  have h0 := h
  refine ⟨fits_plain h0 rfl rfl rfl (fun e => absurd (form_len h0) (by rw [e]; decide)) rfl, ?_⟩
  show some (Instr.hopen f ((0#10 ++ slot ++ id).extractLsb' 0 4) ((0#10 ++ slot ++ id).extractLsb' 4 2) a b) = _
  rw [((by decide : ∀ (id : BitVec 4) (slot : BitVec 2), ((0#10 ++ slot ++ id).extractLsb' 0 4) = id) id slot), ((by decide : ∀ (id : BitVec 4) (slot : BitVec 2), ((0#10 ++ slot ++ id).extractLsb' 4 2) = slot) id slot)]
theorem hjoin (f : Form) (id : BitVec 4) (slot : BitVec 2) (a : Reg) (b : Reg) : Statement (.hjoin f id slot a b) := by
  intro h r hr
  cases hr
  have h0 := h
  refine ⟨fits_plain h0 rfl rfl rfl (fun e => absurd (form_len h0) (by rw [e]; decide)) rfl, ?_⟩
  show some (Instr.hjoin f ((0#10 ++ slot ++ id).extractLsb' 0 4) ((0#10 ++ slot ++ id).extractLsb' 4 2) a b) = _
  rw [((by decide : ∀ (id : BitVec 4) (slot : BitVec 2), ((0#10 ++ slot ++ id).extractLsb' 0 4) = id) id slot), ((by decide : ∀ (id : BitVec 4) (slot : BitVec 2), ((0#10 ++ slot ++ id).extractLsb' 4 2) = slot) id slot)]
theorem hload (f : Form) (ty : Ty) (id : BitVec 4) (a : Tile) (b : Reg) : Statement (.hload f ty id a b) := by
  intro h r hr
  cases hr
  simp only [Instr.wf, Bool.and_eq_true] at h
  obtain ⟨h0, h1⟩ := h
  refine ⟨fits_plain h0 rfl rfl rfl (fun e => absurd (form_len h0) (by rw [e]; decide)) rfl, ?_⟩
  show some (Instr.hload f (Ty.ofCode (ty.code)) ((0#12 ++ id).extractLsb' 0 4) ((0#2 ++ a).extractLsb' 0 4) b) = _
  rw [ty_code, id_field, tile_field]
theorem hadd (f : Form) (ty : Ty) (id : BitVec 4) (a : Tile) (b : Reg) : Statement (.hadd f ty id a b) := by
  intro h r hr
  cases hr
  simp only [Instr.wf, Bool.and_eq_true] at h
  obtain ⟨h0, h1⟩ := h
  refine ⟨fits_plain h0 rfl rfl rfl (fun e => absurd (form_len h0) (by rw [e]; decide)) rfl, ?_⟩
  show some (Instr.hadd f (Ty.ofCode (ty.code)) ((0#12 ++ id).extractLsb' 0 4) ((0#2 ++ a).extractLsb' 0 4) b) = _
  rw [ty_code, id_field, tile_field]
theorem hread (f : Form) (ty : Ty) (id : BitVec 4) (d : Tile) (b : Reg) : Statement (.hread f ty id d b) := by
  intro h r hr
  cases hr
  simp only [Instr.wf, Bool.and_eq_true] at h
  obtain ⟨h0, h1⟩ := h
  refine ⟨fits_plain h0 rfl rfl rfl (fun e => absurd (form_len h0) (by rw [e]; decide)) rfl, ?_⟩
  show some (Instr.hread f (Ty.ofCode (ty.code)) ((0#12 ++ id).extractLsb' 0 4) ((0#2 ++ d).extractLsb' 0 4) b) = _
  rw [ty_code, id_field, tile_field]
theorem hpush (f : Form) (id : BitVec 4) (d : Reg) (a : Reg) : Statement (.hpush f id d a) := by
  intro h r hr
  cases hr
  have h0 := h
  refine ⟨fits_plain h0 rfl rfl rfl (fun e => absurd (form_len h0) (by rw [e]; decide)) rfl, ?_⟩
  show some (Instr.hpush f ((0#12 ++ id).extractLsb' 0 4) d a) = _
  rw [id_field]
theorem hleave (f : Form) (id : BitVec 4) (d : Reg) (a : Reg) : Statement (.hleave f id d a) := by
  intro h r hr
  cases hr
  have h0 := h
  refine ⟨fits_plain h0 rfl rfl rfl (fun e => absurd (form_len h0) (by rw [e]; decide)) rfl, ?_⟩
  show some (Instr.hleave f ((0#12 ++ id).extractLsb' 0 4) d a) = _
  rw [id_field]
theorem hdisag (f : Form) (id : BitVec 4) (d : Reg) : Statement (.hdisag f id d) := by
  intro h r hr
  cases hr
  have h0 := h
  refine ⟨fits_plain h0 rfl rfl rfl (fun e => absurd (form_len h0) (by rw [e]; decide)) rfl, ?_⟩
  show some (Instr.hdisag f ((0#12 ++ id).extractLsb' 0 4) d) = _
  rw [id_field]
theorem hpause (f : Form) (id : BitVec 4) : Statement (.hpause f id) := by
  intro h r hr
  cases hr
  have h0 := h
  refine ⟨fits_plain h0 rfl rfl rfl (fun e => absurd (form_len h0) (by rw [e]; decide)) rfl, ?_⟩
  show some (Instr.hpause f ((0#12 ++ id).extractLsb' 0 4)) = _
  rw [id_field]
theorem hresume (f : Form) (id : BitVec 4) : Statement (.hresume f id) := by
  intro h r hr
  cases hr
  have h0 := h
  refine ⟨fits_plain h0 rfl rfl rfl (fun e => absurd (form_len h0) (by rw [e]; decide)) rfl, ?_⟩
  show some (Instr.hresume f ((0#12 ++ id).extractLsb' 0 4)) = _
  rw [id_field]
theorem hingeBgTick (core : Nat) (slot : BitVec 2) : Statement (.hingeBgTick core slot) := step_law rfl
theorem hingePushArrive (pkt : Nat) : Statement (.hingePushArrive pkt) := step_law rfl
theorem hingeReplyArrive (pkt : Nat) (code : BitVec 3) : Statement (.hingeReplyArrive pkt code) := step_law rfl
theorem wredMax (f : Form) (ty : Ty) (all : Bool) (row : Bool) (km1 : BitVec 3) (d : Tile) (w : Tile) (a : Tile) : Statement (.wredMax f ty all row km1 d w a) := by
  intro h r hr
  cases hr
  simp only [Instr.wf, Bool.and_eq_true] at h
  obtain ⟨⟨⟨h0, h1⟩, h2⟩, h3⟩ := h
  refine ⟨fits_plain h0 rfl rfl rfl (fun e => absurd (form_len h0) (by rw [e]; decide)) rfl, ?_⟩
  show some (Instr.wredMax f (Ty.ofCode (ty.code)) ((0#1 ++ km1 ++ 0#2 ++ BitVec.ofBool row ++ BitVec.ofBool all).getLsbD 0) ((0#1 ++ km1 ++ 0#2 ++ BitVec.ofBool row ++ BitVec.ofBool all).getLsbD 1) ((0#1 ++ km1 ++ 0#2 ++ BitVec.ofBool row ++ BitVec.ofBool all).extractLsb' 4 3) ((0#2 ++ d).extractLsb' 0 4) ((0#4 ++ w ++ 0#8).extractLsb' 8 4) ((0#2 ++ a).extractLsb' 0 4)) = _
  rw [ty_code, ((by decide : ∀ (all : Bool) (row : Bool) (km1 : BitVec 3), ((0#1 ++ km1 ++ 0#2 ++ BitVec.ofBool row ++ BitVec.ofBool all).getLsbD 0) = all) all row km1), ((by decide : ∀ (all : Bool) (row : Bool) (km1 : BitVec 3), ((0#1 ++ km1 ++ 0#2 ++ BitVec.ofBool row ++ BitVec.ofBool all).getLsbD 1) = row) all row km1), ((by decide : ∀ (all : Bool) (row : Bool) (km1 : BitVec 3), ((0#1 ++ km1 ++ 0#2 ++ BitVec.ofBool row ++ BitVec.ofBool all).extractLsb' 4 3) = km1) all row km1), tile_field, te_field, tile_field]
theorem wredMin (f : Form) (ty : Ty) (all : Bool) (row : Bool) (km1 : BitVec 3) (d : Tile) (w : Tile) (a : Tile) : Statement (.wredMin f ty all row km1 d w a) := by
  intro h r hr
  cases hr
  simp only [Instr.wf, Bool.and_eq_true] at h
  obtain ⟨⟨⟨h0, h1⟩, h2⟩, h3⟩ := h
  refine ⟨fits_plain h0 rfl rfl rfl (fun e => absurd (form_len h0) (by rw [e]; decide)) rfl, ?_⟩
  show some (Instr.wredMin f (Ty.ofCode (ty.code)) ((0#1 ++ km1 ++ 0#2 ++ BitVec.ofBool row ++ BitVec.ofBool all).getLsbD 0) ((0#1 ++ km1 ++ 0#2 ++ BitVec.ofBool row ++ BitVec.ofBool all).getLsbD 1) ((0#1 ++ km1 ++ 0#2 ++ BitVec.ofBool row ++ BitVec.ofBool all).extractLsb' 4 3) ((0#2 ++ d).extractLsb' 0 4) ((0#4 ++ w ++ 0#8).extractLsb' 8 4) ((0#2 ++ a).extractLsb' 0 4)) = _
  rw [ty_code, ((by decide : ∀ (all : Bool) (row : Bool) (km1 : BitVec 3), ((0#1 ++ km1 ++ 0#2 ++ BitVec.ofBool row ++ BitVec.ofBool all).getLsbD 0) = all) all row km1), ((by decide : ∀ (all : Bool) (row : Bool) (km1 : BitVec 3), ((0#1 ++ km1 ++ 0#2 ++ BitVec.ofBool row ++ BitVec.ofBool all).getLsbD 1) = row) all row km1), ((by decide : ∀ (all : Bool) (row : Bool) (km1 : BitVec 3), ((0#1 ++ km1 ++ 0#2 ++ BitVec.ofBool row ++ BitVec.ofBool all).extractLsb' 4 3) = km1) all row km1), tile_field, te_field, tile_field]
theorem wredClamp (f : Form) (ty : Ty) (d : Tile) (w : Tile) (a : Tile) (b : Tile) (c : Tile) : Statement (.wredClamp f ty d w a b c) := by
  intro h r hr
  cases hr
  simp only [Instr.wf, Bool.and_eq_true] at h
  obtain ⟨⟨h0, h1⟩, h2⟩ := h
  refine ⟨fits_plain h0 rfl rfl rfl (fun e => absurd (form_len h0) (by rw [e]; decide)) rfl, ?_⟩
  show some (Instr.wredClamp f (Ty.ofCode (ty.code)) ((0#2 ++ d).extractLsb' 0 4) ((c ++ w ++ 0#8).extractLsb' 8 4) ((0#2 ++ a).extractLsb' 0 4) ((0#2 ++ b).extractLsb' 0 4) ((c ++ w ++ 0#8).extractLsb' 12 4)) = _
  rw [ty_code, tile_field, ((by decide : ∀ (w : Tile) (c : Tile), ((c ++ w ++ 0#8).extractLsb' 8 4) = w) w c), tile_field, tile_field, ((by decide : ∀ (w : Tile) (c : Tile), ((c ++ w ++ 0#8).extractLsb' 12 4) = c) w c)]
theorem wredMed (f : Form) (ty : Ty) (all : Bool) (km1 : BitVec 3) (d : Tile) (w : Tile) (a : Tile) : Statement (.wredMed f ty all km1 d w a) := by
  intro h r hr
  cases hr
  simp only [Instr.wf, Bool.and_eq_true] at h
  obtain ⟨⟨⟨⟨h0, h1⟩, h2⟩, h3⟩, h4⟩ := h
  refine ⟨fits_plain h0 rfl rfl rfl (fun e => absurd (form_len h0) (by rw [e]; decide)) rfl, ?_⟩
  show some (Instr.wredMed f (Ty.ofCode (ty.code)) ((0#1 ++ km1 ++ 0#3 ++ BitVec.ofBool all).getLsbD 0) ((0#1 ++ km1 ++ 0#3 ++ BitVec.ofBool all).extractLsb' 4 3) ((0#2 ++ d).extractLsb' 0 4) ((0#4 ++ w ++ 0#8).extractLsb' 8 4) ((0#2 ++ a).extractLsb' 0 4)) = _
  rw [ty_code, ((by decide : ∀ (all : Bool) (km1 : BitVec 3), ((0#1 ++ km1 ++ 0#3 ++ BitVec.ofBool all).getLsbD 0) = all) all km1), ((by decide : ∀ (all : Bool) (km1 : BitVec 3), ((0#1 ++ km1 ++ 0#3 ++ BitVec.ofBool all).extractLsb' 4 3) = km1) all km1), tile_field, te_field, tile_field]
theorem wredSsum (f : Form) (ty : Ty) (row : Bool) (km1 : BitVec 3) (d : Tile) (w : Tile) (a : Tile) : Statement (.wredSsum f ty row km1 d w a) := by
  intro h r hr
  cases hr
  simp only [Instr.wf, Bool.and_eq_true] at h
  obtain ⟨⟨⟨h0, h1⟩, h2⟩, h3⟩ := h
  refine ⟨fits_plain h0 rfl rfl rfl (fun e => absurd (form_len h0) (by rw [e]; decide)) rfl, ?_⟩
  show some (Instr.wredSsum f (Ty.ofCode (ty.code)) ((0#1 ++ km1 ++ 0#2 ++ BitVec.ofBool row ++ 0#1).getLsbD 1) ((0#1 ++ km1 ++ 0#2 ++ BitVec.ofBool row ++ 0#1).extractLsb' 4 3) ((0#2 ++ d).extractLsb' 0 4) ((0#4 ++ w ++ 0#8).extractLsb' 8 4) ((0#2 ++ a).extractLsb' 0 4)) = _
  rw [ty_code, ((by decide : ∀ (row : Bool) (km1 : BitVec 3), ((0#1 ++ km1 ++ 0#2 ++ BitVec.ofBool row ++ 0#1).getLsbD 1) = row) row km1), ((by decide : ∀ (row : Bool) (km1 : BitVec 3), ((0#1 ++ km1 ++ 0#2 ++ BitVec.ofBool row ++ 0#1).extractLsb' 4 3) = km1) row km1), tile_field, te_field, tile_field]
theorem wst (f : Form) (d : Tile) (a : Reg) : Statement (.wst f d a) := by
  intro h r hr
  cases hr
  have h0 := h
  refine ⟨fits_plain h0 rfl rfl rfl (fun e => absurd (form_len h0) (by rw [e]; decide)) rfl, ?_⟩
  show some (Instr.wst f ((0#2 ++ d).extractLsb' 0 4) a) = _
  rw [tile_field]
theorem wld (f : Form) (d : Tile) (a : Reg) : Statement (.wld f d a) := by
  intro h r hr
  cases hr
  have h0 := h
  refine ⟨fits_plain h0 rfl rfl rfl (fun e => absurd (form_len h0) (by rw [e]; decide)) rfl, ?_⟩
  show some (Instr.wld f ((0#2 ++ d).extractLsb' 0 4) a) = _
  rw [tile_field]
theorem contextCreate (desc : Nat) (image : List Byte) : Statement (.contextCreate desc image) := step_law rfl
theorem contextDestroy (ctx : Nat) : Statement (.contextDestroy ctx) := step_law rfl
theorem gangSwitchTime (die : BitVec 3) (n : Nat) (core : Nat) : Statement (.gangSwitchTime die n core) := step_law rfl
theorem plantailWrite (die : BitVec 3) (v : Word) : Statement (.plantailWrite die v) := step_law rfl
theorem meshInterruptMessage (core : Nat) (ctx : Nat) : Statement (.meshInterruptMessage core ctx) := step_law rfl
theorem resumeRequest (core : Nat) (ctx : Nat) : Statement (.resumeRequest core ctx) := step_law rfl
theorem savecoreEnd (core : Nat) (blocks : Nat) : Statement (.savecoreEnd core blocks) := step_law rfl
theorem restorecoreEnd (core : Nat) : Statement (.restorecoreEnd core) := step_law rfl
theorem queueCreate (va : Word) (ring : Word) (ctx : BitVec 16) (qid : BitVec 16) (hostq : Bool) (qprio : BitVec 4) (die : BitVec 3) (logcap : BitVec 5) : Statement (.queueCreate va ring ctx qid hostq qprio die logcap) := step_law rfl
theorem queueReset (queue : Nat) : Statement (.queueReset queue) := step_law rfl
theorem queueClose (queue : Nat) : Statement (.queueClose queue) := step_law rfl
theorem sliceBoundary (die : BitVec 3) (heavy : Bool) : Statement (.sliceBoundary die heavy) := step_law rfl
theorem tsliceWrite (die : BitVec 3) (v : Word) : Statement (.tsliceWrite die v) := step_law rfl
theorem schedulerPass (die : BitVec 3) : Statement (.schedulerPass die) := step_law rfl
theorem hostDoorbell (die : BitVec 3) (k : BitVec 6) (full : Bool) (desc : Word) (write : Word) : Statement (.hostDoorbell die k full desc write) := step_law rfl
theorem groupPlace (kernel : Nat) (group : Nat) (x0 : Nat) (y0 : Nat) : Statement (.groupPlace kernel group x0 y0) := step_law rfl
theorem groupStart (kernel : Nat) (group : Nat) : Statement (.groupStart kernel group) := step_law rfl
theorem kernelRetire (kernel : Nat) : Statement (.kernelRetire kernel) := step_law rfl
theorem kernelFault (kernel : Nat) (why : FaultWhy) (cc : BitVec 2) : Statement (.kernelFault kernel why cc) := step_law rfl
theorem kernelService (kernel : Nat) (cc : BitVec 2) : Statement (.kernelService kernel cc) := step_law rfl
theorem kernelAbandon (kernel : Nat) (cc : BitVec 2) : Statement (.kernelAbandon kernel cc) := step_law rfl
theorem replayDiscardComplete (kernel : Nat) : Statement (.replayDiscardComplete kernel) := step_law rfl
theorem linkResetRelease : Statement .linkResetRelease := step_law rfl
theorem trainingSuccess (link : Nat) (nmod : BitVec 16) (nport : BitVec 5) : Statement (.trainingSuccess link nmod nport) := step_law rfl
theorem trainingFailure (link : Nat) : Statement (.trainingFailure link) := step_law rfl
theorem portTrainRetry (port : BitVec 5) : Statement (.portTrainRetry port) := step_law rfl
theorem flitCrcError (link : Nat) (same : Bool) (fixed : BitVec 32) (fec : Bool) : Statement (.flitCrcError link same fixed fec) := step_law rfl
theorem retrainSuccess (link : Nat) : Statement (.retrainSuccess link) := step_law rfl
theorem retrainFailure (link : Nat) : Statement (.retrainFailure link) := step_law rfl
theorem portDisable (port : BitVec 5) : Statement (.portDisable port) := step_law rfl
theorem portEnable (port : BitVec 5) : Statement (.portEnable port) := step_law rfl
theorem machineCheck (die : BitVec 3) (why : CheckWhy) (cc : BitVec 2) : Statement (.machineCheck die why cc) := step_law rfl
theorem routeTableWrite (die : BitVec 3) (host : Bool) (e : BitVec 8) (v : Word) : Statement (.routeTableWrite die host e v) := step_law rfl
theorem timeFlit (port : BitVec 5) (src : BitVec 16) (offset : Word) (locked : Bool) : Statement (.timeFlit port src offset locked) := step_law rfl
theorem timeFlitTimeout : Statement .timeFlitTimeout := step_law rfl
theorem moduleAdd (m : BitVec 16) : Statement (.moduleAdd m) := step_law rfl
theorem moduleClear (m : BitVec 16) : Statement (.moduleClear m) := step_law rfl
theorem moduleFailTimeout (m : BitVec 16) (cc : BitVec 2) : Statement (.moduleFailTimeout m cc) := step_law rfl
theorem moduleDeclareFailed (m : BitVec 16) (cc : BitVec 2) : Statement (.moduleDeclareFailed m cc) := step_law rfl
theorem faultRingHeadWrite (die : BitVec 3) (v : Word) : Statement (.faultRingHeadWrite die v) := step_law rfl
theorem faultRingConfigWrite (die : BitVec 3) (cap : Bool) (v : Word) : Statement (.faultRingConfigWrite die cap v) := step_law rfl
theorem lmSweep (core : Nat) : Statement (.lmSweep core) := step_law rfl
theorem scanStart (die : BitVec 3) (idx : BitVec 8) : Statement (.scanStart die idx) := step_law rfl
theorem scanEnd (die : BitVec 3) (idx : BitVec 8) (bad : BitVec 16) : Statement (.scanEnd die idx bad) := step_law rfl
theorem vreqCommit (cluster : Nat) (v : Word) : Statement (.vreqCommit cluster v) := step_law rfl
theorem voltageStepEnd (cluster : Nat) : Statement (.voltageStepEnd cluster) := step_law rfl
theorem clockHopEnd (core : Nat) : Statement (.clockHopEnd core) := step_law rfl
theorem droopDetect (cluster : Nat) : Statement (.droopDetect cluster) := step_law rfl
theorem droopClear (cluster : Nat) : Statement (.droopClear cluster) := step_law rfl
theorem featreqWrite (die : BitVec 3) (host : Bool) (v : Word) : Statement (.featreqWrite die host v) := step_law rfl
theorem moduleResetBoot (image : List Byte) (table : List PartRow) : Statement (.moduleResetBoot image table) := step_law rfl
theorem partitionImageVerify (part : BitVec 4) (image : List Byte) : Statement (.partitionImageVerify part image) := step_law rfl
theorem attestationRequest (part : BitVec 4) (nonce : List Byte) : Statement (.attestationRequest part nonce) := step_law rfl
theorem mmioRegisterWrite (die : BitVec 3) (host : Bool) (pa : Word) (v : Word) : Statement (.mmioRegisterWrite die host pa v) := step_law rfl
theorem timeNsAdvance : Statement .timeNsAdvance := step_law rfl
theorem unassignedEncoding : Statement .unassignedEncoding := step_law rfl
theorem br (p : Pred) (ps : Bool) (off : BitVec 18) : Statement (.br p ps off) := by
  intro h r hr
  cases hr
  refine ⟨⟨fun _ => ⟨rfl, rfl, rfl, rfl, rfl⟩, fun _ => rfl, fun _ => rfl⟩, ?_⟩
  show some (Instr.br (BitVec.extractLsb' 3 3 (p ++ BitVec.ofBool ps ++ 0#2)) ((p ++ BitVec.ofBool ps ++ 0#2).getLsbD 2)
    (BitVec.extractLsb' 12 6 off ++ BitVec.extractLsb' 6 6 off ++ BitVec.extractLsb' 0 6 off)) = _
  rw [off18, (by decide : ∀ (p : Pred) (ps : Bool), BitVec.extractLsb' 3 3 (p ++ BitVec.ofBool ps ++ 0#2) = p) p ps,
    (by decide : ∀ (p : Pred) (ps : Bool), (p ++ BitVec.ofBool ps ++ 0#2).getLsbD 2 = ps) p ps]

theorem ldn (f : Form) (ty : Ty) (rank : BitVec 4) (d : Reg) (a : Reg) (off : BitVec 16) : Statement (.ldn f ty rank d a off) := by
  intro h r hr
  cases hr
  simp only [Instr.wf, Bool.and_eq_true (_ && _)] at h
  obtain ⟨h01, h2⟩ := h
  obtain ⟨h0, h1⟩ := Bool.and_eq_true_iff.mp h01
  refine ⟨fits_plain h0 rfl rfl rfl (fun e => ⟨if_pos e, rfl, ty_none h1 e⟩) rfl, ?_⟩
  show (if (0#1 ++ 0#1 ++ rank).getLsbD 4 then some (Instr.stn f (Ty.ofCode ty.code) (BitVec.extractLsb' 0 4 (0#1 ++ 0#1 ++ rank)) d a _)
    else some (Instr.ldn f (Ty.ofCode ty.code) (BitVec.extractLsb' 0 4 (0#1 ++ 0#1 ++ rank)) d a _)) = _
  rw [(by decide : ∀ rank : BitVec 4, (0#1 ++ 0#1 ++ rank).getLsbD 4 = false) rank, if_neg (by decide), ty_code,
    (by decide : ∀ rank : BitVec 4, BitVec.extractLsb' 0 4 (0#1 ++ 0#1 ++ rank) = rank) rank]
  exact congrArg (fun o => some (Instr.ldn f ty rank d a o)) (off_back rfl h2)

theorem stn (f : Form) (ty : Ty) (rank : BitVec 4) (d : Reg) (a : Reg) (off : BitVec 16) : Statement (.stn f ty rank d a off) := by
  intro h r hr
  cases hr
  simp only [Instr.wf, Bool.and_eq_true (_ && _)] at h
  obtain ⟨h01, h2⟩ := h
  obtain ⟨h0, h1⟩ := Bool.and_eq_true_iff.mp h01
  refine ⟨fits_plain h0 rfl rfl rfl (fun e => ⟨if_pos e, rfl, ty_none h1 e⟩) rfl, ?_⟩
  show (if (0#1 ++ 1#1 ++ rank).getLsbD 4 then some (Instr.stn f (Ty.ofCode ty.code) (BitVec.extractLsb' 0 4 (0#1 ++ 1#1 ++ rank)) d a _)
    else some (Instr.ldn f (Ty.ofCode ty.code) (BitVec.extractLsb' 0 4 (0#1 ++ 1#1 ++ rank)) d a _)) = _
  rw [(by decide : ∀ rank : BitVec 4, (0#1 ++ 1#1 ++ rank).getLsbD 4 = true) rank, if_pos rfl, ty_code,
    (by decide : ∀ rank : BitVec 4, BitVec.extractLsb' 0 4 (0#1 ++ 1#1 ++ rank) = rank) rank]
  exact congrArg (fun o => some (Instr.stn f ty rank d a o)) (off_back rfl h2)

theorem path_md {f : Form} {p : Option (BitVec 2)} (h : (f.len != 0 || p == none) = true) (e : f.len = 0) : pathMd p = 0 := by
  have : p = none := by simpa [e] using h
  rw [this]; rfl

theorem rst (f : Form) (ord : Bool) (n1 : BitVec 3) (d : Reg) (a : Reg) (path : Option (BitVec 2)) : Statement (.rst f ord n1 d a path) := by
  intro h r hr
  cases hr
  simp only [Instr.wf] at h
  obtain ⟨h01, _⟩ := Bool.and_eq_true_iff.mp h
  obtain ⟨h0, h1⟩ := Bool.and_eq_true_iff.mp h01
  refine ⟨fits_plain h0 rfl rfl rfl (fun e => ⟨rfl, path_md h1 e, rfl⟩) rfl, ?_⟩
  show (if (0#2 ++ BitVec.ofBool ord ++ n1).getLsbD 4 then some (Instr.rld f (BitVec.extractLsb' 0 3 (0#2 ++ BitVec.ofBool ord ++ n1)) d a _)
    else some (Instr.rst f ((0#2 ++ BitVec.ofBool ord ++ n1).getLsbD 3) (BitVec.extractLsb' 0 3 (0#2 ++ BitVec.ofBool ord ++ n1)) d a
      (if (pathMd path).getLsbD 2 then some ((pathMd path).extractLsb' 0 2) else none))) = _
  rw [(by decide : ∀ (o : Bool) (n : BitVec 3), (0#2 ++ BitVec.ofBool o ++ n).getLsbD 4 = false) ord n1, if_neg (by decide), path_back,
    (by decide : ∀ (o : Bool) (n : BitVec 3), (0#2 ++ BitVec.ofBool o ++ n).getLsbD 3 = o) ord n1,
    (by decide : ∀ (o : Bool) (n : BitVec 3), BitVec.extractLsb' 0 3 (0#2 ++ BitVec.ofBool o ++ n) = n) ord n1]

theorem rld (f : Form) (n1 : BitVec 3) (d : Reg) (a : Reg) (path : Option (BitVec 2)) : Statement (.rld f n1 d a path) := by
  intro h r hr
  cases hr
  simp only [Instr.wf] at h
  obtain ⟨h01, _⟩ := Bool.and_eq_true_iff.mp h
  obtain ⟨h0, h1⟩ := Bool.and_eq_true_iff.mp h01
  refine ⟨fits_plain h0 rfl rfl rfl (fun e => ⟨rfl, path_md h1 e, rfl⟩) rfl, ?_⟩
  show (if (1#2 ++ 0#1 ++ n1).getLsbD 4 then some (Instr.rld f (BitVec.extractLsb' 0 3 (1#2 ++ 0#1 ++ n1)) d a
      (if (pathMd path).getLsbD 2 then some ((pathMd path).extractLsb' 0 2) else none)) else some _) = _
  rw [(by decide : ∀ (n : BitVec 3), (1#2 ++ 0#1 ++ n).getLsbD 4 = true) n1, if_pos rfl, path_back,
    (by decide : ∀ (n : BitVec 3), BitVec.extractLsb' 0 3 (1#2 ++ 0#1 ++ n) = n) n1]

theorem shift_back (k : TShift) :
    (if k.md.getLsbD 0 then TShift.imm ((0#8 ++ k.imm8).extractLsb' 0 8) else .tile (k.field.extractLsb' 0 4)) = k := by
  cases k with
  | tile t => rw [show (TShift.tile t).md = 0#8 from rfl, if_neg (by decide)]; exact congrArg TShift.tile (tile_field t)
  | imm n => rw [show (TShift.imm n).md = 1#8 from rfl, if_pos (by decide)]; exact congrArg TShift.imm (imm8_field n)

theorem tshl (f : Form) (ty : Ty) (d a : Tile) (k : TShift) : Statement (.tshl f ty d a k) := by
  intro h r hr
  cases hr
  simp only [Instr.wf] at h
  obtain ⟨h0, _⟩ := Bool.and_eq_true_iff.mp h
  refine ⟨fits_plain h0 rfl rfl rfl (fun e => absurd (form_len h0) (by rw [e]; decide)) rfl, ?_⟩
  show some (Instr.tshl f (Ty.ofCode ty.code) (BitVec.extractLsb' 0 4 (0#2 ++ d)) (BitVec.extractLsb' 0 4 (0#2 ++ a))
    (if k.md.getLsbD 0 then TShift.imm ((0#8 ++ k.imm8).extractLsb' 0 8) else .tile (k.field.extractLsb' 0 4))) = _
  rw [ty_code, tile_field, tile_field, shift_back]

theorem tshr (f : Form) (ty : Ty) (d a : Tile) (k : TShift) : Statement (.tshr f ty d a k) := by
  intro h r hr
  cases hr
  simp only [Instr.wf] at h
  obtain ⟨h0, _⟩ := Bool.and_eq_true_iff.mp h
  refine ⟨fits_plain h0 rfl rfl rfl (fun e => absurd (form_len h0) (by rw [e]; decide)) rfl, ?_⟩
  show some (Instr.tshr f (Ty.ofCode ty.code) (BitVec.extractLsb' 0 4 (0#2 ++ d)) (BitVec.extractLsb' 0 4 (0#2 ++ a))
    (if k.md.getLsbD 0 then TShift.imm ((0#8 ++ k.imm8).extractLsb' 0 8) else .tile (k.field.extractLsb' 0 4))) = _
  rw [ty_code, tile_field, tile_field, shift_back]

theorem mx_bit (b : Bool) (s : BitVec 4) : (0#3 ++ BitVec.ofBool b ++ s).getLsbD 4 = b := by revert b s; decide
theorem mx_sty (b : Bool) (t : Ty) : Ty.ofCode (BitVec.extractLsb' 0 4 (0#3 ++ BitVec.ofBool b ++ t.code)) = t := by
  cases b <;> cases t <;> rfl

theorem tcvt (f : Form) (dty sty : Ty) (d a : Tile) (k : TcvtForm) : Statement (.tcvt f dty sty d a k) := by
  intro h r hr
  cases hr
  simp only [Instr.wf] at h
  obtain ⟨h0, h1⟩ := Bool.and_eq_true_iff.mp h
  refine ⟨fits_plain h0 rfl rfl rfl (fun e => absurd (form_len h0) (by rw [e]; decide)) rfl, ?_⟩
  show some (Instr.tcvt f (Ty.ofCode dty.code) (Ty.ofCode (BitVec.extractLsb' 0 4 (0#3 ++ BitVec.ofBool k.mx ++ sty.code)))
    (BitVec.extractLsb' 0 4 (0#2 ++ d)) (BitVec.extractLsb' 0 4 (0#2 ++ a))
    (if (0#3 ++ BitVec.ofBool k.mx ++ sty.code).getLsbD 4 then
      (if (Ty.ofCode dty.code).isF8 then .enc (k.field.extractLsb' 0 4) (k.x16.extractLsb' 12 4)
        else .dec (k.x16.extractLsb' 12 4) (k.x16.extractLsb' 8 4))
      else .plain (k.x16.extractLsb' 0 2))) = _
  rw [ty_code, mx_sty, tile_field, tile_field, mx_bit]
  cases k with
  | plain p => exact congrArg (fun p => some (Instr.tcvt f dty sty d a (.plain p))) ((by decide : ∀ p : BitVec 2, BitVec.extractLsb' 0 2 (0#14 ++ p) = p) p)
  | enc b s =>
    have h8 : dty.isF8 = true := by
      simp only [TcvtForm.wf, Bool.and_eq_true] at h1; exact h1.1.1
    rw [h8]
    show some (Instr.tcvt f dty sty d a (.enc (BitVec.extractLsb' 0 4 (0#2 ++ b)) (BitVec.extractLsb' 12 4 (s ++ 0#12)))) = _
    rw [tile_field, tc_field]
  | dec s e =>
    have h8 : dty.isF8 = false := by
      simp only [TcvtForm.wf, Bool.and_eq_true, Bool.or_eq_true, beq_iff_eq] at h1
      rcases h1.1.2 with e | e <;> rw [e] <;> rfl
    rw [h8]
    show some (Instr.tcvt f dty sty d a (.dec (BitVec.extractLsb' 12 4 (s ++ e ++ 0#8)) (BitVec.extractLsb' 8 4 (s ++ e ++ 0#8)))) = _
    rw [(by decide : ∀ s e : BitVec 4, BitVec.extractLsb' 12 4 (s ++ e ++ 0#8) = s) s e,
      (by decide : ∀ s e : BitVec 4, BitVec.extractLsb' 8 4 (s ++ e ++ 0#8) = e) s e]

theorem mstrm (f : Form) (ty : Ty) (slot : Bool) (d a : Tile) (c : Option Tile) : Statement (.mstrm f ty slot d a c) := by
  intro h r hr
  cases hr
  simp only [Instr.wf] at h
  obtain ⟨h0, _⟩ := Bool.and_eq_true_iff.mp h
  refine ⟨fits_plain h0 rfl rfl rfl (fun e => absurd (form_len h0) (by rw [e]; decide)) rfl, ?_⟩
  show some (Instr.mstrm f (Ty.ofCode ty.code) ((c.getD 0 ++ 0#11 ++ BitVec.ofBool slot).getLsbD 0) (BitVec.extractLsb' 0 4 (0#2 ++ d))
    (BitVec.extractLsb' 0 4 (0#2 ++ a)) (if (0#7 ++ BitVec.ofBool c.isNone).getLsbD 0 then none
      else some ((c.getD 0 ++ 0#11 ++ BitVec.ofBool slot).extractLsb' 12 4))) = _
  rw [ty_code, tile_field, tile_field,
    (by decide : ∀ (c : Tile) (s : Bool), (c ++ 0#11 ++ BitVec.ofBool s).getLsbD 0 = s) (c.getD 0) slot,
    (by decide : ∀ (c : Tile) (s : Bool), (c ++ 0#11 ++ BitVec.ofBool s).extractLsb' 12 4 = c) (c.getD 0) slot,
    (by decide : ∀ b : Bool, (0#7 ++ BitVec.ofBool b).getLsbD 0 = b) c.isNone]
  cases c <;> rfl

theorem wadj (f : Form) (ty : Ty) (once : Bool) (gen : Option Tile) (op : BitVec 3) (all row : Bool) (km1 : BitVec 3) (d g w : Tile) :
    Statement (.wadj f ty once gen op all row km1 d g w) := by
  intro h r hr
  cases hr
  simp only [Instr.wf] at h
  obtain ⟨h01, _⟩ := Bool.and_eq_true_iff.mp h
  obtain ⟨h0, _⟩ := Bool.and_eq_true_iff.mp h01
  refine ⟨fits_plain h0 rfl rfl rfl (fun e => absurd (form_len h0) (by rw [e]; decide)) rfl, ?_⟩
  show some (Instr.wadj f (Ty.ofCode ty.code) ((0#4 ++ BitVec.ofBool gen.isSome ++ BitVec.ofBool once ++ 0#2).getLsbD 2)
    (if (0#4 ++ BitVec.ofBool gen.isSome ++ BitVec.ofBool once ++ 0#2).getLsbD 3 then
      some ((gen.getD 0 ++ 0#4 ++ km1 ++ BitVec.ofBool row ++ BitVec.ofBool all ++ op).extractLsb' 12 4) else none)
    ((gen.getD 0 ++ 0#4 ++ km1 ++ BitVec.ofBool row ++ BitVec.ofBool all ++ op).extractLsb' 0 3)
    ((gen.getD 0 ++ 0#4 ++ km1 ++ BitVec.ofBool row ++ BitVec.ofBool all ++ op).getLsbD 3)
    ((gen.getD 0 ++ 0#4 ++ km1 ++ BitVec.ofBool row ++ BitVec.ofBool all ++ op).getLsbD 4)
    ((gen.getD 0 ++ 0#4 ++ km1 ++ BitVec.ofBool row ++ BitVec.ofBool all ++ op).extractLsb' 5 3)
    (BitVec.extractLsb' 0 4 (0#2 ++ d)) (BitVec.extractLsb' 0 4 (0#2 ++ g)) (BitVec.extractLsb' 0 4 (0#2 ++ w))) = _
  rw [ty_code, tile_field, tile_field, tile_field,
    (by decide : ∀ a b : Bool, (0#4 ++ BitVec.ofBool a ++ BitVec.ofBool b ++ 0#2).getLsbD 2 = b) gen.isSome once,
    (by decide : ∀ a b : Bool, (0#4 ++ BitVec.ofBool a ++ BitVec.ofBool b ++ 0#2).getLsbD 3 = a) gen.isSome once,
    wadj_gen, wadj_op, wadj_all, wadj_row, wadj_km1]
  cases gen <;> rfl

theorem hmass (f : Form) (id : BitVec 4) (d : Reg) : Statement (.hmass f id d) := by
  intro h r hr
  cases hr
  refine ⟨fits_plain h rfl rfl rfl (fun e => absurd (form_len h) (by rw [e]; decide)) rfl, ?_⟩
  rw [read_hmass rfl rfl]
  show (if (0#8).getLsbD 0 then some _ else some (Instr.hmass f (BitVec.extractLsb' 0 4 (0#12 ++ id)) d)) = _
  rw [if_neg (by decide), id_field]

theorem hmassSet (f : Form) (id : BitVec 4) (a : Reg) : Statement (.hmassSet f id a) := by
  intro h r hr
  cases hr
  refine ⟨fits_plain h rfl rfl rfl (fun e => absurd (form_len h) (by rw [e]; decide)) rfl, ?_⟩
  rw [read_hmass rfl rfl]
  show (if (1#8).getLsbD 0 then some (Instr.hmassSet f (BitVec.extractLsb' 0 4 (0#12 ++ id)) a) else some _) = _
  rw [if_pos (by decide), id_field]

end Sys2Proof.Laws.RoundTrip
end

