-- ==== Sys2Proof/Tests/Slice0.lean ====
section
/-!
SUPPORT. The model's own tests: ill-formed terms, words written out from the spec's encodings, one step of instructions on small states,
and a state that meets the hypotheses of each statement.
-/
set_option Elab.async false
namespace Sys2Proof.Tests
open Sys2Proof.Machine

/-! ## Small states -/

/-- A computation that succeeds with a value of which a test holds. -/
def okIs {α : Type} (x : Except Trap α) (p : α → Bool) : Bool := match x with | .ok a => p a | .error _ => false
theorem ok_of {α : Type} {x : Except Trap α} {p : α → Bool} (h : okIs x p = true) : ∃ a, x = .ok a ∧ p a = true := by
  cases x with
  | ok a => exact ⟨a, rfl, h⟩
  | error e => exact absurd h (by simp [okIs])

/-- Two answers are one next state. -/
def same : Host.Outcome State Machine.Fault Machine.Refusal → Host.Outcome State Machine.Fault Machine.Refusal → Bool
  | .next a, .next b => decide (a = b)
  | _, _ => false
theorem same_of {x y : Host.Outcome State Machine.Fault Machine.Refusal} (h : same x y = true) : x = y := by
  cases x <;> cases y <;> simp_all [same]

/-- An answer is a next state. -/
def goesOn : Host.Outcome State Machine.Fault Machine.Refusal → Bool
  | .next _ => true
  | _ => false
theorem next_of {x : Host.Outcome State Machine.Fault Machine.Refusal} (h : goesOn x = true) : ∃ t, x = .next t := by
  cases x <;> simp_all [goesOn]

/-- The forms of an unguarded 32-, 64-, 96- and 128-bit instruction. -/
def w32 : Form := ⟨0, 0, false⟩
def w64 : Form := ⟨1, 0, false⟩
def w96 : Form := ⟨2, 0, false⟩
def w128 : Form := ⟨3, 0, false⟩

/-- A strand that runs at 0x2000 and holds every kind of unit. -/
def demoStrand : Strand :=
  { Strand.reset with
    run := .running, pc := 0x2000
    hold := ⟨[4, 5, 6], List.range 16, [0x20, 0x21, 0x22, 0x23, 0x24, 0x25, 0x26, 0x27], [0, 1]⟩ }

/-- Registers of strand 0. -/
def demoRegs : AMap Word :=
  [(4, 0x4000), (5, 0x2001), (6, 0x1080), (7, 0x0800_0000_0000_0000), (8, 0x2040), (9, 0x8038), (10, 0x8040), (11, 0x8080), (12, 0x10101), (13, 0x100), (14, 0x140), (15, 0x8000)]

def demoCore (st : Strand) : Core :=
  { Core.reset with ctx := some 0, st := .active, live := { CoreCtx.fresh with strands := [(0, st)], regs := demoRegs } }

def demoCtx : Ctx := { desc := 0, alive := true, ran := true, cores := [(0, .active)], binds := [], redone := [], image := [] }

/-- One core on which strand 0 of context 0 is about to run; every link is as reset leaves it. -/
def demoOf (st : Strand) : State :=
  { State.placeCode { State.reset with feature2 := 0xFF, cores := [(0, demoCore st)], contexts := [(0, demoCtx)] } [] with links := [] }
def demo : State := demoOf demoStrand
def demoSys : State := demoOf { demoStrand with priv := .sv }
def demoBare : State := demoOf { demoStrand with hold := { demoStrand.hold with reg := [] } }
def demoLoop (c1 c0 : Word) : State :=
  demoOf { demoStrand with loop1 := ⟨0x1F00, 0x2000, c1⟩, loop0 := ⟨0x1E00, 0x2000, c0⟩ }
def demoW (k : WaitKind) : Wait := mkWait k false 4 1
def demoWait (k : WaitKind) : State :=
  let s := demo
  s.setStrand ⟨0, 0⟩ { s.strand ⟨0, 0⟩ with wait := some (demoW k) }
def demoLoad : State :=
  let l : PLoad := { pc := 0x1FFC, va := 0x2040, d := 3, n := 0, ty := .i64, flat := 0x2040, bytes := 8, acq := none, pkt := none, sync := false, val := none, poison := 0, kind := 0, ent := { ctx := 0, base := 0x2000, z := 0, entry := 0x17, level := 3, slot := 0 } }
  demo.pushLoad ⟨0, 0⟩ l
/-- Every link of path 0 from core 0 to the home of the first stack in UP. -/
def joined (s : State) : State :=
  { s with links := (meshRoute 0 0 (stackEntry 0)).map (fun k => (k, { s.link k with state := .up })) ++ s.links }
def demoEcc : State := { demoLoad with poisoned := [0x2040] }
def demoBad : State := demo.setLive 0 { demo.live 0 with perr := [.reg 4] }
def demoSpill : State := demoOf { demoStrand with spill := 0x120 * 2 ^ 36 + 0x100 * 2 ^ 18 + 0x110 }

/-- Pages of LM at 0x4000 and of HBM at 0x8000. -/
def demoMap : State :=
  let c := demo.core 0
  demo.setCore 0 { c with tlb :=
    { ctx := 0, base := 0x4000, z := 0, entry := 0x2000_0000_0000_401F, level := 0, slot := 0 } ::
    { ctx := 0, base := 0x8000, z := 0, entry := 0x1000_0000_0000_801F, level := 0, slot := 0 } :: c.tlb }

/-- The page at 0x8000 with an entry. -/
def mapped (s : State) (e : Word) : State :=
  let c := s.core 0
  s.setCore 0 { c with tlb := { ctx := 0, base := 0x8000, z := 0, entry := e, level := 0, slot := 0 } :: c.tlb }

/-- An allotment of cores 0 and 1. -/
def demoPair : State :=
  let s := demo.write 0x20 4 (rectWord 0 0 1 0)
  { s with contexts := [(0, { demoCtx with cores := [(0, .active), (1, .active)] })] }

/-- Core 1 holds the context too, with an error in ENERGY; the executing strand names it. -/
def demoWorn : State :=
  let s := demoPair.setCore 1 { Core.reset with ctx := some 0, st := .active, live := { CoreCtx.fresh with perr := [.status 0 0x15] } }
  (s.setStrand ⟨0, 0⟩ { s.strand ⟨0, 0⟩ with priv := .hv }).setReg ⟨0, 0⟩ 5 1

/-- A link in a state, with a number of failures and tries behind it. -/
def linkAt (s : State) (k : Nat) (st : LState) (n : Nat) : State :=
  s.setLink k { (s.link k) with state := st, fails := n, tries := n, since := some 0, nmod := 1, nport := 2 }

def aPkt (kind : PktKind) (landed refused : Bool) : Packet :=
  { demo.packet ⟨0, 0⟩ kind (some 1) with core := 0, off := 0x40, flat := lmFlat 0 0x40, bytes := 8, landed := landed, refused := refused }
def demoPkt (kind : PktKind) (landed refused : Bool) : State := { demo with net := [(0, aPkt kind landed refused)], nextId := 1 }
/-- The line at 0x2040 is contested for cluster 0; the line at 0x2000 is held there with its first byte written. -/
def demoHot : State := { demo with predict := [(0, [(0x81, 2)])] }
def demoLine : State := demo.setLine 0 0x80 { data := 7, dirty := 1, bad := false, heads := [], vias := [] }
/-- A strand that traps a division by zero. -/
def demoFctl : State := demoOf { demoStrand with fctl := 0x80 }
/-- The stream of R191's example, in its first row, four elements wide. -/
def demoBits : State :=
  let s := joined (demoOf { demoStrand with bitbuf := 0x10000, shape := 0x0104 })
  (s.write 0x2000 2 0x3CB5)
/-- A bf16 stream of tiles 3 and 5 into tile 2 that has not started, on a loaded slot; and one that has. -/
def demoMx : State :=
  let o : MxaOp := { demo.mxaOp ⟨0, 0⟩ .strm false .bf16 0 with d := some 2, a := some 3, c := some 5, wty := .bf16 }
  let l := demo.live 0
  demo.setLive 0 { l.setSlot 0 { MxaSlot.empty with loaded := true, ty := .bf16 } with queue := [o] }
def demoMxOn : State := demo.setLive 0 ((demoMx.live 0).mxaStart 0)
/-- A stream whose first product is infinity times zero. -/
def demoMxHot : State :=
  let l := (demoMx.live 0).setTileRow 3 0 0x7F80
  demo.setLive 0 (l.mxaStart 0)
def aHeld (fl : FFlags) (e : Option (Word × Nat × Nat)) : MxaHeld :=
  { seq := 1, strand := 0, birth := 0, job := none, slot := 0, flags := fl, fctl := 0x10, err := e }
def demoHeld (fl : FFlags) (e : Option (Word × Nat × Nat)) : State := demo.setLive 0 { demo.live 0 with held := [aHeld fl e] }

/-- A kernel of one group on core 0, which strand 0 runs for; the strand in a phase, past it, waiting for its end or for its slot. -/
def demoKernel : Kernel :=
  { Kernel.none_ with
    packet := 2 ^ 128 + 2 ^ 144, state := .running
    groups := [(0, { state := .running, x0 := 0, y0 := 0, members := [⟨⟨0, 0⟩, false⟩] })] }
def demoJobOf (st : Strand) : State := { demoOf { st with job := some (0, 0), domain := 0x1_0000_0000 } with kernels := [(0, demoKernel)] }
def demoJob : State := demoJobOf demoStrand
def demoMapWord : BitVec 512 := 2 ^ 31 + 2 ^ 8 + 1
def demoPhase : State := demoJobOf { demoStrand with phase := { Phase.outside with inPhase := true, map := demoMapWord } }
def demoPast : Phase := { Phase.outside with inPhase := true, ended := true, level := 1, counts := [(1, 1)] }
def demoDomain (tc : Option Word) : Domain := { kernel := 0, level := 1, bx := 0, by_ := 0, count := 1, tOpen := 0, maps := [], tc := tc, stag := 0 }
def demoEnd : State := { demoJobOf { demoStrand with phase := demoPast } with domains := [demoDomain none] }
def demoAsleep (s : State) (k : WaitKind) : State := s.setStrand ⟨0, 0⟩ { s.strand ⟨0, 0⟩ with wait := some (demoW k) }
def demoLeave : State := demoAsleep { demoEnd with domains := [demoDomain (some 0)] } .sstep
def demoRow : State :=
  demoAsleep { demoJobOf { demoStrand with phase := { demoPast with map := demoMapWord, tsRow := some (0, 0, 0x40) } } with time := 100 } .tsend

/-- A queue with three packets to take, its descriptor at 0x8040 on a page with SYNC. -/
def demoQ : State :=
  let c := demo.core 0
  let s := demo.setCore 0 { c with tlb := { ctx := 0, base := 0x8000, z := 0, entry := 0x1000_0000_0000_803F, level := 0, slot := 0 } :: c.tlb }
  { (((s.write 0x8040 8 5).write 0x8048 8 2).write 0x8060 8 0x8000).write 0x8068 8 4 with queues := [(0x8040, Queue.none_)] }
/-- A strand that may claim more, one whose claim no free unit meets, and one that waits for a grant. -/
def demoClaim : State := demoOf { demoStrand with claim := ⟨8, 32, 48, 2⟩ }
def demoShort : State :=
  demoClaim.setLive 0 { demoClaim.live 0 with kept := (List.range 5).map (fun n => (0, Res.reg, 7 + n)) }
def demoQueued : State := demoAsleep (demoClaim.setLive 0 { demoClaim.live 0 with kqueue := [⟨0, ⟨1, 1, 1, 0⟩⟩] }) .kacq

/-- A barrier object of two at 0x8040, open, with GEN 7, LAST 2 and none arrived. -/
def demoBar : State := demoQ.write 0x8040 8 (2 ^ 48 * 7 + 2 ^ 46 + 2 ^ 45 + 2)

/-- A page of HBM at 0x8000 with a shadow frame at 0x9000, and two layout records of one n8 element of it in LM. -/
def xfPage : TlbEnt := { ctx := 0, base := 0x8000, z := 0, entry := 0x1000_0000_0000_805F, level := 0, slot := 0x40000 }
def demoXf : State :=
  let c := demo.core 0
  let s := (joined demo).setCore 0 { c with tlb := xfPage :: c.tlb }
  let r := fun (s : State) (o va : Nat) => ((s.write (lmFlat 0 o) 8 va).write (lmFlat 0 (o + 0x30)) 8 0x0001_0001_0001_0001).write (lmFlat 0 (o + 0x38)) 8 7
  (r (r s 0x100 0x8000) 0x140 0x8001).write 0x41000 8 0x1000_0000_0000_915F
def lrecAt (o : Nat) : BitVec 512 := BitVec.ofNat 512 (demoXf.read (lmFlat 0 o) 64)
def aXfer (started : Bool) (order : Nat) : XferRec :=
  { xform := 0, budget := 0, strand := 0, pc := 0x2000, srec := 0x100, drec := 0x140, bar := 0, done := 0, fctlc := 0, lut := 0,
    src := lrecAt 0x100, dst := lrecAt 0x140, started := started, fault := none, order := order, job := none, priv := .user, birth := 0, left := none, stale := false }
def demoXfQ : State := demoXf.setXfer 0 1 (some (aXfer false 1))
def demoXfOn : State := demoXf.setXfer 0 1 (some (aXfer true 1))
def demoXfStale : State := demoXf.setXfer 0 1 (some { aXfer true 1 with fault := some ⟨4, 5, 0, 0, 0⟩, stale := true })
def demoXfBad : State := (joined demoMap).setXfer 0 1 (some (aXfer true 1))
def demoFull : State := (List.range 4).foldl (fun s k => s.setXfer 0 k (some (aXfer true k))) demoXf
/-- The list of a latch at 0x8000 names the page it stands on. -/
def demoLatch : State := { demoXf.write 0x8000 8 0x8000 with cores := (demoXf.setReg ⟨0, 0⟩ 3 1).cores }
/-- A page table whose five levels lead to a page at 0x8000. -/
def demoWalk : State :=
  let s := (List.range 4).foldl (fun (s : State) k => s.write (0x10000 + 0x1000 * k) 8 (0x10000 + 0x1000 * (k + 1) + 1)) demo
  (s.write (0x14000 + 8 * 8) 8 0x1000_0000_0000_801F).write 0x08 8 0x10000
/-- Its line written by the cluster, whose links carry nothing, and bound to an object; a store to it on its way. -/
def demoCut : State := (demoWalk.setLine 0 0x200 { data := 7, dirty := 1, bad := false, heads := [], vias := [] }).setBinds 0 [(0x8000, 64, 0x8040)]
def demoWbr : State := (demoWalk.sendStore ⟨0, 0⟩ (.hbm 0x8000 true) 8 0 0x8000 .none_ none)

/-- Messages: one in the inbox, 16 there, one that waits in the spill queue too, an offer for a context that is away. -/
def aMsg : Msg := ⟨5, sourceWord 0 1, [9]⟩
def demoMsg : State := demo.setLive 0 { demo.live 0 with inbox := [aMsg] }
def demoFullBox : State := (demoPkt .msg false false).setLive 0 { (demoPkt .msg false false).live 0 with inbox := List.replicate 16 aMsg }
def spillQueue (s : State) : State := ((s.write 0x80 8 0x50000).write 0x88 8 4)
def demoSpilled : State := (spillQueue demoMsg).sqWrite 0 3 0 0 64 1 0 7 ⟨[], none, 0, none⟩
def demoAwayMsg : State := { spillQueue (demoPkt .msg false false) with contexts := [(0, { demoCtx with cores := [] })] }
/-- A store for a core of a context that is away; its spill queue full. -/
def demoAwayPkt : State := { spillQueue (demoPkt (.store false) false false) with contexts := [(0, { demoCtx with cores := [] })] }
def demoAwayFull : State := demoAwayPkt.write 0x98 8 4
def aFar (kind : PktKind) : Packet := { aPkt kind false false with module_ := some 1 }
/-- An atomic that leaves by port 0, with every link of its path in UP. -/
def aFarAmo : Packet := { aFar (.amo 0 .i64) with port := some 0 }
def aFarMsg : Packet := { aFar .msg with port := some 0 }
def demoFarAmo : State :=
  { (meshRoute 1 0 (portEntry 0)).foldl (fun s k => linkAt s k .up 0) (linkAt demo (portKey 0) .up 0) with net := [(0, aFarAmo)], nextId := 1 }
def demoRefuse : State := { demoAsleep demo .msend with net := [(0, aFar .msg)], nextId := 1 }
/-- A strand whose s4 names module 1, s5 port 0, s6 nothing. -/
def demoFar : State :=
  ((demo.setReg ⟨0, 0⟩ 4 0x8000_0001_0000_0000).setReg ⟨0, 0⟩ 5 0x4000_0000_0000_0000).setReg ⟨0, 0⟩ 6 0xC000_0000_0000_0000

/-- A hinge-set record of 16 elements for id 0, and a slot of it on core 0, at 0x8000, with core 1 its partner: open, with mass 0x100 and
half a push held, paused, leaving; a push that arrives; replies. -/
def demoHrec : State := (demo.write 0x18 8 0x60000).write 0x60000 8 0x8000_0000_0000_0001
def aSlot (st : HState) : HSlot :=
  { HSlot.closed with state := st, block := 0x8000, attr0 := 0xC000_0000_0000_0001, attr1 := 0x2710_0000_03E8, part := 0x8000_0001 }
def hingeOf (st : HState) : State :=
  let s := (demo.setReg ⟨0, 0⟩ 15 1).setHSlot 0 1 (aSlot st)
  s.write (lmFlat 0 0x8000) 8 0x100
def demoHinge : State := hingeOf .opened
def demoPaused : State := hingeOf .paused
def demoLeaving : State := hingeOf .leaving
def demoHalf : State :=
  (((demoHinge.write (lmFlat 0 0x8020) 8 0x1_0000_0100).write (lmFlat 0 0x8028) 8 0x8001_0000_0000_0000).write (lmFlat 0 0x8030) 8 0x80)
def aPush (seq : Nat) : Packet :=
  { aPkt .push false false with src := ⟨1, 0⟩, hseq := seq, expiry := 1000, mass := 0x40, vals := List.replicate 16 5 }
def demoArrive (seq : Nat) : State := { linkAt demoHinge 0 .up 0 with net := [(0, aPush seq)], nextId := 1 }
def aReply (code : Nat) : Packet := { aPush 0 with kind := .reply code, src := ⟨0, 0⟩ }
def demoSettle (code : Nat) : State := { demoHalf with net := [(0, aReply code)], nextId := 1 }
def demoLeft : State :=
  let s := (demoSettle 0).setHSlot 0 1 (aSlot .leaving)
  s.setStrand ⟨0, 0⟩ { s.strand ⟨0, 0⟩ with wait := some { demoW .hinge with flat := 2, gen := 1 } }

/-- Tile 3 as the witness of a max over one contributor, with 16 rows of 32 bits. -/
def demoTag : State := demo.setLive 0 ((demo.live 0).setTag 3 0x801E)

/-- A descriptor of context 5 in order; context 0 AWAY, in SAVING, in RESTORING on core 0, its save slot at 0x100000; a slot out of order. -/
def demoDesc : State :=
  ((demo.write 0x60000 8 5).write 0x60020 32 (2 ^ 256 - 1)).write 0x60088 8 256
def demoCoreSt (s : State) (st : CoreSt) : State :=
  let c := s.core 0
  (s.setCore 0 { c with st := st }).setCoreSt 0 0 st
def demoSlots : State := demo.write 0x40 8 0x100000
def demoSaving : State := demoCoreSt demoSlots .saving
def demoRestoring : State := demoCoreSt demoSlots .restoring
def demoAway : State := (demoCoreSt demoSlots .away).setCore 0 Core.reset
/-- The core of the context that is AWAY taken by another. -/
def demoTaken : State := demoAway.setCore 0 { Core.reset with ctx := some 1, st := .active }
def demoBadSlot : State := demoAway.write 0x131900 1 1
/-- A ring of 16 plans at 0x70000; entry 0 for core 0 with TIME 0 and a pair of contexts. -/
def demoPlans : State :=
  (((({ demo with parts := [(0, ⟨0, [0], [], []⟩)] }).setCtl (dieBlock 0 + 0x40) 0x70000).setCtl (dieBlock 0 + 0x48) 16).write 0x70008 4 0xFFFF0000)
def demoPlan (s : State) (pair : Nat) : State :=
  { (((s.setCtl (dieBlock 0 + 0x40) 0x70000).setCtl (dieBlock 0 + 0x48) 16).write 0x70008 4 pair) with plans := [⟨0, 0, false, []⟩] }

/-- A host queue that waits for a slot; a FAULTED one with nothing to take; a MAPPED one whose packet 2 cannot be read; one whose packet
can be taken; rings that take an entry. -/
def qBase (flags : Nat) : State := (demoQ.write 0x8068 8 flags).write 0x8070 8 0
def demoHostQ : State := qBase (2 ^ 24 + 4)
def demoFaultQ : State := (qBase (2 * 2 ^ 25 + 4)).write 0x8048 8 5
def demoMapped : State := (qBase (2 ^ 25 + 4)).setQueue 0x8040 { Queue.none_ with published := [2] }
/-- A page table whose five levels lead to a page at 0x8000 with SYNC. -/
def demoSyncWalk : State := demoWalk.write 0x14040 8 0x1000_0000_0000_803F
def ringOf (s : State) : State := (s.setCtl (dieBlock 0 + 0x20) 0x90000).setCtl (dieBlock 0 + 0x28) 64
def demoTakeRing : State := ringOf demoMapped
/-- The ring of packets at 0x8000 is mapped there, and packet 2 at 0x8080 has one group of one strand at 0x2000. -/
def demoTake : State :=
  let s := demoSyncWalk
  let s1 := ((((s.write 0x8040 8 5).write 0x8048 8 2).write 0x8060 8 0x8000).write 0x8068 8 (2 ^ 25 + 4)).write 0x8070 8 0
  let s2 := ((s1.write 0x8080 8 0x2000).write 0x8090 8 0x1_0001).setQueue 0x8040 { Queue.none_ with published := [2] }
  s2
/-- A kernel of one group and one strand that waits to be placed on core 0, one that is placed, one whose core is away. -/
def placed : Group := { state := .starting, x0 := 0, y0 := 0, members := [⟨⟨0, 1⟩, false⟩] }
def demoPlace : State := { demo with kernels := [(0, { demoKernel with state := .pending, groups := [] })] }
def demoStart : State := { demo with kernels := [(0, { demoKernel with state := .pending, groups := [(0, placed)] })] }
def demoAwayStart : State := { demoAway with kernels := [(0, { demoKernel with state := .pending, groups := [(0, placed)] })] }
def demoKernelOf (st : KState) : State := { demoJob with kernels := [(0, { demoKernel with state := st })] }
/-- A kernel whose record names the open barrier at 0x8040, with the GEN it received there. -/
def demoNamed : State := { demoBar with kernels := [(0, { demoKernel with bars := [⟨0x8040, some 7⟩] })] }
/-- A kernel that has stopped, with an error held for a strand of it that is gone; a group's start held by a written line. -/
def demoErrAfter (st : KState) : State :=
  let s := ringOf (demoKernelOf st)
  s.setLive 0 { s.live 0 with held := [{ aHeld 0 (some (0x2000, 1, 2)) with job := some (0, 0), birth := 9 }] }
def demoStart2 : State := { demoStart.setLine 0 0x80 { data := 7, dirty := 1, bad := false, heads := [], vias := [] } with links := [] }
def demoRing : State := { ringOf (demoKernelOf .running) with badUnits := [0x2040] }

/-- Module 1 in a state, reached through port 3, which is UP; module 2 is the time source. -/
def demoMod (st : MState) : State :=
  (((linkAt demo (portKey 3) .up 0).setCtl (moduleBlock + 0x108) 0x8000_0001_0000_0003).setCtl (moduleBlock + 8) 2).setMod 1 ⟨st, 4, true, some 0⟩
/-- Module 1 reached through ports 3 and 4, of which 4 is UP. -/
def demoPorts : State :=
  (linkAt (linkAt demo (portKey 3) .disabled 0) (portKey 4) .up 0).setCtl (moduleBlock + 0x108) 0x8001_0001_0000_0083
def demoLost : State := { demoMod .up with net := [(0, aFar .load)], nextId := 1 }
def demoLostMsg : State := { demoAsleep (demoMod .up) .msend with net := [(0, aFar .msg)], nextId := 1 }

/-- A word of LM in error; a cluster in a scan whose cores are free; a kernel of die 1 that ran on core 0. -/
def demoWornLm : State := { demo with badUnits := [lmFlat 0 0x40] }
def demoScan : State := { demoAway with time := 1, scans := [(dieCluster 0 0, ⟨0, []⟩)] }
def demoRan (st : KState) : State :=
  let s := ringOf demo
  { (s.setCtl (dieBlock 1 + 0x20) 0xA0000).setCtl (dieBlock 1 + 0x28) 64 with
    kernels := [(0, { demoKernel with state := st, die := 1, sinceScan := [0], unscanned := [0], retiredAt := 4 })] }
def demoScanRan : State := { demoScan with kernels := (demoRan .retired).kernels }
/-- A cluster at 660 mV on its way to 700 with dividers 2, in a droop; one at rest at 650 with dividers 2. -/
def demoCool : State :=
  ((demo.setCtl (clusterBlock 0 + 0x20) 0x1111_1111_1111_1111).setCtl (clusterBlock 0 + 0x30) 0x1111_1111_1111_1111).setPow 0 15 0 650
def demoRamp : State :=
  (demoCool.setPow 0 15 0 660).setPower 0
    { Power.idle with divs := 0x1111_1111_1111_1111, volts := 700, stepEnd := some 1000, droop := some 0 }
def demoReplaced : State :=
  demoRamp.setPower 0 { demoRamp.powerOf 0 with next := some (0x1111_1111_1111_1111, 660) }
/-- A module that has booted, with partition 1 started and no context. -/
def demoUp : State := { demo with booted := true, partsUp := [1], contexts := [] }

/-! ## Ill-formed terms, one for each check of Instr.wf: the check refuses them -/

/-- The reserved guard of R35, a guarded 32-bit form. -/
def wBadGuard : Form := ⟨1, 0, true⟩
def wGuard32 : Form := ⟨0, 3, false⟩

theorem test_ill_formed_forms :
    (Instr.iAdd wBadGuard .i64 3 4 (.reg 5)).wf = false ∧ (Instr.iAdd wGuard32 .i64 3 4 (.reg 5)).wf = false ∧
    (Instr.nop w96).wf = false ∧ (Instr.tadd w32 .f32 false 1 2 3).wf = false ∧ (Instr.cvt w32 .i8 .i64 3 4).wf = false ∧
    (Instr.iAdd w32 .i32 3 4 (.reg 5)).wf = false ∧ (Instr.iAdd w64 .f32 3 4 (.reg 5)).wf = false ∧
    (Instr.iAdd w96 .i64 3 4 (.reg 5)).wf = false ∧ (Instr.iAdd w64 .i64 3 4 (.lit32 5)).wf = false ∧
    (Instr.iAdd w96 .i64 3 4 (.lit64 5)).wf = false ∧ (Instr.iShl w96 .i64 3 4 (.lit32 64)).wf = false ∧
    (Instr.iRol w128 .i64 3 4 (.lit64 64)).wf = false ∧ (Instr.shlImm w64 .i64 3 4 64).wf = false ∧
    (Instr.addImm w32 .i64 3 4 0x800).wf = false ∧ (Instr.addImm w64 .i64 3 4 0x8000).wf = false ∧
    (Instr.movi w96 3 0x8000_0000).wf = false ∧ (Instr.bext w64 .i32 3 4 (.reg 5)).wf = false ∧
    (Instr.cmp w32 .i64 6 1 4 (.reg 5)).wf = false ∧ (Instr.fadd w64 .e4m3 3 4 (.reg 5)).wf = false ∧
    (Instr.fsqrt w64 .f32 3 4 7).wf = false ∧ (Instr.fcmp w32 .i64 7 1 4 (.reg 5)).wf = false ∧
    (Instr.fcvt w64 .i8 .i64 3 4).wf = false := by decide

theorem test_ill_formed_control_and_memory :
    (Instr.loop w64 0 5 1).wf = false ∧ (Instr.loopImm w32 0 5 4).wf = false ∧ (Instr.mts w32 0x17 4).wf = false ∧
    (Instr.mfs w32 0x2B 4).wf = false ∧ (Instr.ld w64 .lut4 3 4 0).wf = false ∧ (Instr.ldn w32 .i64 1 3 4 4).wf = false ∧
    (Instr.stn w32 .i64 1 3 4 512).wf = false ∧ (Instr.ldtPost w64 1 4 5 64).wf = false ∧ (Instr.pref w32 3 5 false 1).wf = false ∧
    (Instr.pushm w32 5 4).wf = false ∧ (Instr.popm w32 5 4).wf = false ∧
    (Instr.rst w32 false 1 3 4 (some 0)).wf = false ∧ (Instr.rst w64 false 7 60 4 none).wf = false ∧
    (Instr.rld w32 1 3 4 (some 0)).wf = false ∧ (Instr.rld w64 7 60 4 none).wf = false ∧
    (Instr.amoAdd w64 .rlx .f32 3 4 5 0).wf = false ∧ (Instr.amoFadd w64 .rlx .i32 3 4 5 0).wf = false ∧
    (Instr.amoAdd w32 .rlx .i64 3 4 5 6).wf = false ∧ (Instr.ldAcq w32 .i64 3 4 6).wf = false ∧
    (Instr.fenceAcq w96 0).wf = false := by decide

theorem test_ill_formed_tile_and_matrix :
    (Instr.tadd w64 .f32 true 1 2 3).wf = false ∧ (Instr.tadd w64 .e4m3 false 1 2 3).wf = false ∧
    (Instr.tshl w64 .f32 1 2 (.imm 3)).wf = false ∧ (Instr.tcmp w64 .f32 7 1 2 3).wf = false ∧ (Instr.tcmp w64 .i8 6 1 2 3).wf = false ∧
    (Instr.tmov w64 .bpn 1 2).wf = false ∧ (Instr.tcvt w64 .f32 .bf16 1 2 (.plain 2)).wf = false ∧
    (Instr.tcvt w64 .e4m3 .bf16 1 2 (.enc 3 1)).wf = false ∧ (Instr.tcvt w64 .bf16 .e4m3 1 2 (.dec 3 1)).wf = false ∧
    (Instr.tset w64 .bf16 1 0 32 (.reg 4)).wf = false ∧ (Instr.trowred w64 .f32 3 false 1 2).wf = false ∧
    (Instr.tcolred w64 .f32 0 true 1 2).wf = false ∧ (Instr.ttrans w64 .f32 1 2 1).wf = false ∧ (Instr.tlut w64 .i8 1 2 2).wf = false ∧
    (Instr.tlut w64 .e4m3 1 2 0).wf = false ∧ (Instr.tunplanes w64 1 1 2).wf = false ∧ (Instr.bsgetT w64 .n8 1 9).wf = false ∧
    (Instr.mldw w64 .bpn 1 false 2).wf = false ∧ (Instr.mldw w64 .f32 2 false 2).wf = false ∧
    (Instr.mstrm w64 .bpn false 1 2 none).wf = false ∧ (Instr.mwait w64 3).wf = false ∧
    (Instr.wredMax w64 .f32 false false 3 1 1 4).wf = false ∧ (Instr.wredMax w64 .f32 false false 0 1 2 4).wf = false ∧
    (Instr.wredMin w64 .f32 false false 3 1 2 13).wf = false ∧ (Instr.wredMed w64 .f32 false 3 1 2 4).wf = false ∧
    (Instr.wredSsum w64 .f32 true 1 1 2 4).wf = false := by decide

theorem test_ill_formed_system :
    (Instr.ctxinfo w32 3 7).wf = false ∧ (Instr.enrd w32 3 4 4).wf = false ∧ (Instr.qwait w32 true 3 4 5).wf = false ∧
    (Instr.kinfo w32 3 0 5).wf = false ∧ (Instr.gid w32 3 5).wf = false ∧ (Instr.gdom w32 0).wf = false ∧ (Instr.gdom w32 5).wf = false ∧
    (Instr.tsend w32 31 1 4).wf = false ∧ (Instr.kquery w32 3 4).wf = false ∧ (Instr.barr w32 3 4 5).wf = false ∧
    (Instr.bquery w32 3 4 2).wf = false ∧ (Instr.xfer w64 6 0 3 4 5).wf = false ∧ (Instr.xfer w64 2 3 3 4 5).wf = false ∧
    (Instr.xfer w64 1 1 3 4 5).wf = false ∧ (Instr.latch w32 3 4 5).wf = false ∧ (Instr.ptprobe w32 3 4 3).wf = false ∧
    (Instr.msend w32 57 4).wf = false ∧ (Instr.mrecv w32 false 57 4).wf = false ∧ (Instr.lquery w32 3 4 3).wf = false ∧
    (Instr.hload w64 .f16 0 1 4).wf = false ∧ (Instr.hread w64 .i8 0 1 4).wf = false := by decide

/-! ## Examples of the spec's entries, one step each -/

/-- The demo state with registers and rows of tiles set. -/
def demoWith (l : List (Reg × Word)) : State := l.foldl (fun s e => s.setReg s.cur e.1 e.2) demo
def demoTiles (l : List (Tile × List Row)) : State := l.foldl (fun s e => s.setTile s.cur e.1 e.2 0) demo

/-- A question about the state after one step. -/
def after {α : Type} (i : Instr) (s : State) (q : State → α) : Option α := match exec i s with | .next t => some (q t) | _ => none
def regAfter (i : Instr) (l : List (Reg × Word)) (r : Reg) : Option Word := after i (demoWith l) (fun t => t.reg t.cur r)
def elemAfter (i : Instr) (s : State) (t : Tile) (w row col : Nat) : Option Nat := after i s (fun u => (u.tile u.cur t).elem w row col)

/-- R117-R121, R125: the examples of mulh, clz, bext, cvt, cmp and sel. -/
theorem test_integer_examples :
    regAfter (.iMulh w64 .i32 3 4 (.reg 5)) [(4, 0x7FFF_FFFF), (5, 4)] 3 = some 1 ∧
    regAfter (.clz w64 .n16 3 4) [(4, 0x0000_0000_0001_00F0)] 3 = some 8 ∧
    regAfter (.bext w96 .n64 3 4 (.lit32 0x0804)) [(4, 0xABCD)] 3 = some 0xBC ∧
    regAfter (.cvt w64 .i8 .i64 3 4) [(4, -300)] 3 = some 0xFFFF_FFFF_FFFF_FF80 ∧
    after (.cmp w32 .i64 2 2 4 (.reg 5)) (demoWith [(4, -1), (5, 3)]) (fun t => (t.strand t.cur).pred 2) = some true ∧
    after (.sel w32 1 true 3 4 5) ((demoWith [(4, 7), (5, 9)]).setPred demo.cur 1 true) (fun t => t.reg t.cur 3) = some 9 := by decide +kernel

/-- The examples of the scalar floating-point entries. -/
theorem test_float_examples :
    regAfter (.fadd w64 .bf16 3 4 (.reg 5)) [(4, 0x3FC0), (5, 0x4020)] 3 = some 0x4080 ∧
    regAfter (.fma w64 .f32 3 4 5 6) [(4, 0x4000_0000), (5, 0x4040_0000), (6, 0x3F00_0000)] 3 = some 0x40D0_0000 ∧
    after (.fcmp w32 .i64 2 1 4 (.reg 5)) (demoWith [(4, 0x7FC0_0000), (5, 0x3F80_0000)])
      (fun t => ((t.strand t.cur).pred 1, (t.strand t.cur).fflag.getLsbD 4)) = some (false, true) ∧
    regAfter (.fcvt w64 .i32 .f32 3 4) [(4, 0xC0D0_0000)] 3 = some 0xFFFF_FFFF_FFFF_FFFA := by decide +kernel

/-- The examples of call, bsfill and kquery; a predicated br that is taken. -/
theorem test_control_examples :
    after (.call w32 0x40) demo (fun t => (t.reg t.cur 15, (t.strand t.cur).pc)) = some (0x2004, 0x2100) ∧
    after (.br 3 true 0x3FFF0) demo (fun t => (t.strand t.cur).pc) = some 0x1FC0 ∧
    after (.bsfill w32 4 0) (demoWith [(4, 0x100)]) (fun t => (t.strand t.cur).bitbuf) = some 0x800 ∧
    after (.sys w32 12) demo (fun t => ((t.strand t.cur).priv, t.read 0x40 4)) = some (.sv, 12) := by decide +kernel

/-- The examples of tadd, tfma, tiota, texp2, tset and tperm. -/
theorem test_tile_examples :
    elemAfter (.tadd w64 .i8 true 3 1 2) (demoTiles [(1, [100]), (2, [50])]) 3 8 0 0 = some 127 ∧
    elemAfter (.tfma w64 .f32 false 6 4 5 7) (demoTiles [(4, [0x4000_0000]), (5, [0x4040_0000]), (7, [0x3F00_0000])]) 6 32 0 0 = some 0x40D0_0000 ∧
    elemAfter (.tiota w64 .i32 4 16) demo 4 32 2 3 = some 35 ∧
    elemAfter (.texp2 w64 .f32 5 4) (demoTiles [(4, [0xC040_0000])]) 5 32 0 0 = some 0x3E00_0000 ∧
    elemAfter (.tset w64 .bf16 3 0 2 (.reg 4)) (demoWith [(4, 0x4040)]) 3 16 0 2 = some 0x4040 ∧
    elemAfter (.tperm w64 .bf16 5 0 6) (demoTiles [(0, [0x4000_0000_0000_0000_0000]), (6, [4])]) 5 16 0 0 = some 0x4000 := by decide +kernel

/-- The examples of tplanes with tunplanes.p4, and of wred.max.low. -/
theorem test_plane_and_witness_examples :
    (match exec (.tplanes w64 4 3) (demoTiles [(3, [0xB6])]) with
      | .next t => elemAfter (.tunplanes w64 4 5 4) t 5 8 0 0
      | _ => none) = some 0xB8 ∧
    after (.wredMax w64 .f32 false false 3 10 11 4) (demoTiles [(4, [0xC000_0000]), (5, [0x4080_0000]), (6, [0]), (7, [0x40C0_0000])])
      (fun t => ((t.tile t.cur 10).elem 32 0 0, (t.tile t.cur 11).elem 8 0 0, (t.live 0).tag 11, (t.strand t.cur).wgen)) =
      some (0x40C0_0000, 3, 0x0000_819E, 1) := by decide +kernel

/-- R84: the FRC example with m = 4. CRC-32 of the nine characters 1 to 9 (R386: the check value of that CRC). -/
theorem test_frc_example : frcEncode (fmtOf .bf16) 4 ([0x4040, 0xBFA0, 0x3F00] ++ List.replicate 61 0) = (0x01E680, 0x7D) := by decide +kernel
theorem test_crc32 : crc32 [0x31, 0x32, 0x33, 0x34, 0x35, 0x36, 0x37, 0x38, 0x39] = 0xCBF43926 := by decide +kernel

/-- A first word that no entry is assigned does not decode (R49). -/
theorem test_unassigned : decodeTableWord 32 0xFE = none := by decide +kernel

/-! ## Words written out from the encoding tables (R26, R30-R37, R40, R43-R46 and the entries) decode to what they stand for -/

theorem test_decode_integer :
    decodeTableWord 32 0x4510300 = some (.iAdd w32 .i64 3 4 (.reg 5)) ∧
    decodeTableWord 64 0x100000008510301 = some (.iSub w64 .i32 3 4 (.reg 5)) ∧
    decodeTableWord 96 0xFFFFFFFE070000000C010302 = some (.iMul w96 .n8 3 4 (.lit32 0xFFFFFFFE)) ∧
    decodeTableWord 128 0x1234567890000000010010303 = some (.iMulh w128 .i64 3 4 (.lit64 0x123456789)) ∧
    decodeTableWord 32 0x14510300 = some (.iDiv w32 .i64 3 4 (.reg 5)) ∧
    decodeTableWord 32 0x18510300 = some (.iRem w32 .i64 3 4 (.reg 5)) ∧
    decodeTableWord 32 0x1FFFBD00 = some (.iAnd w32 .i64 61 62 (.reg 63)) ∧
    decodeTableWord 32 0x20510300 = some (.iOr w32 .i64 3 4 (.reg 5)) ∧
    decodeTableWord 32 0x24510300 = some (.iXor w32 .i64 3 4 (.reg 5)) ∧
    decodeTableWord 32 0x28510300 = some (.iAndn w32 .i64 3 4 (.reg 5)) ∧
    decodeTableWord 32 0x2C510300 = some (.iShl w32 .i64 3 4 (.reg 5)) ∧
    decodeTableWord 32 0x30510300 = some (.iShr w32 .i64 3 4 (.reg 5)) ∧
    decodeTableWord 32 0x34510300 = some (.iSra w32 .i64 3 4 (.reg 5)) ∧
    decodeTableWord 32 0x38510300 = some (.iRol w32 .i64 3 4 (.reg 5)) ∧
    decodeTableWord 32 0x3C510300 = some (.iMin w32 .i64 3 4 (.reg 5)) ∧
    decodeTableWord 32 0x40510300 = some (.iMax w32 .i64 3 4 (.reg 5)) ∧
    decodeTableWord 64 0xA600000044010301 = some (.mov ⟨1, 5, false⟩ .n16 3 4) ∧
    decodeTableWord 32 0x48010300 = some (.clz w32 .i64 3 4) ∧
    decodeTableWord 32 0x4C010300 = some (.ctz w32 .i64 3 4) ∧
    decodeTableWord 32 0x50010300 = some (.popc w32 .i64 3 4) ∧
    decodeTableWord 64 0x400000054510301 = some (.bext w64 .n64 3 4 (.reg 5)) ∧
    decodeTableWord 32 0x58510300 = some (.bins w32 .i64 3 4 (.reg 5)) ∧
    decodeTableWord 64 0x30100005C010301 = some (.cvt w64 .i8 .i32 3 4) ∧
    decodeTableWord 32 0xFFB10304 = some (.addImm w32 .i64 3 4 (-5)) ∧
    decodeTableWord 64 0x800000010309 = some (.andImm w64 .i64 3 4 (-0x8000)) ∧
    decodeTableWord 32 0x7FF1030C = some (.orImm w32 .i64 3 4 0x7FF) ∧
    decodeTableWord 32 0x110310 = some (.xorImm w32 .i64 3 4 1) ∧
    decodeTableWord 32 0x3F10314 = some (.shlImm w32 .i64 3 4 63) ∧
    decodeTableWord 32 0x210318 = some (.shrImm w32 .i64 3 4 2) ∧
    decodeTableWord 32 0x31031C = some (.sraImm w32 .i64 3 4 3) ∧
    decodeTableWord 32 0x410320 = some (.rolImm w32 .i64 3 4 4) ∧
    decodeTableWord 32 0xFFD00824 = some (.movi w32 8 (-3)) ∧
    decodeTableWord 96 0x800000000000000000000826 = some (.movi w96 8 (-0x80000000)) ∧
    decodeTableWord 32 0x4018930 = some (.lea w32 9 6 64) ∧
    decodeTableWord 32 0x8510228 = some (.cmp w32 .i64 2 2 4 (.reg 5)) ∧
    decodeTableWord 32 0x2C51032C = some (.sel w32 3 true 3 4 5) := by decide +kernel
theorem test_decode_float :
    decodeTableWord 32 0x4510340 = some (.fadd w32 .i64 3 4 (.reg 5)) ∧
    decodeTableWord 64 0x900000008510341 = some (.fsub w64 .bf16 3 4 (.reg 5)) ∧
    decodeTableWord 96 0x3F800000080000000C010342 = some (.fmul w96 .f32 3 4 (.lit32 0x3F800000)) ∧
    decodeTableWord 32 0x10510340 = some (.fdiv w32 .i64 3 4 (.reg 5)) ∧
    decodeTableWord 32 0x14010340 = some (.fsqrt w32 .i64 3 4 0) ∧
    decodeTableWord 32 0x18510340 = some (.fmin w32 .i64 3 4 (.reg 5)) ∧
    decodeTableWord 32 0x1C510340 = some (.fmax w32 .i64 3 4 (.reg 5)) ∧
    decodeTableWord 32 0x20010340 = some (.fclass w32 .i64 3 4 0) ∧
    decodeTableWord 32 0x24010340 = some (.frnd w32 .i64 3 4 0) ∧
    decodeTableWord 64 0xA00180000510345 = some (.fma w64 .f16 3 4 5 6) ∧
    decodeTableWord 32 0x18510248 = some (.fcmp w32 .i64 6 2 4 (.reg 5)) ∧
    decodeTableWord 64 0xA0900000001034D = some (.fcvt w64 .f16 .bf16 3 4) := by decide +kernel
theorem test_decode_control :
    decodeTableWord 32 0xFFFC1C50 = some (.br 3 true 0x3FFF0) ∧
    decodeTableWord 32 0xFFFFFF54 = some (.jmp w32 0xFFFFFF) ∧
    decodeTableWord 64 0x2000000000001059 = some (.call ⟨1, 1, false⟩ 0x10) ∧
    decodeTableWord 32 0x1005C = some (.jmpReg w32 4) ∧
    decodeTableWord 32 0x401005C = some (.callReg w32 4) ∧
    decodeTableWord 32 0x800005C = some (.ret w32 0) ∧
    decodeTableWord 64 0x21001035D = some (.loop w64 3 4 2) ∧
    decodeTableWord 64 0x101410805D = some (.loopImm w64 0 66 0x10) ∧
    decodeTableWord 32 0x60 = some (.nop w32) ∧
    decodeTableWord 32 0x4000060 = some (.trap w32) ∧
    decodeTableWord 32 0xBFF8060 = some (.sys w32 0xFFE) ∧
    decodeTableWord 32 0xC210060 = some (.eret w32 2 4) ∧
    decodeTableWord 32 0x10000060 = some (.exit w32) ∧
    decodeTableWord 32 0x14000060 = some (.pause w32) ∧
    decodeTableWord 32 0x18010060 = some (.sleepns w32 4) ∧
    decodeTableWord 32 0x1C010060 = some (.waitns w32 4) ∧
    decodeTableWord 32 0x20010060 = some (.waitnsV w32 4) ∧
    decodeTableWord 32 0x24000360 = some (.rdtime w32 3) ∧
    decodeTableWord 32 0x8C010064 = some (.mts w32 0x23 4) ∧
    decodeTableWord 32 0xA8000368 = some (.mfs w32 0x2A 3) ∧
    decodeTableWord 32 0x510070 = some (.bsfill w32 4 5) ∧
    decodeTableWord 32 0x4500370 = some (.bsget w32 3 5) ∧
    decodeTableWord 32 0x8500370 = some (.bspeek w32 3 5) ∧
    decodeTableWord 32 0xC500070 = some (.bsskip w32 5) ∧
    decodeTableWord 32 0x17F00370 = some (.bsgetImm w32 3 63) ∧
    decodeTableWord 32 0x18000370 = some (.bspeekImm w32 3 0) ∧
    decodeTableWord 32 0x1C900070 = some (.bsskipImm w32 9) := by decide +kernel
theorem test_decode_memory :
    decodeTableWord 32 0xFF810380 = some (.ld w32 .i64 3 4 (-8)) ∧
    decodeTableWord 96 0x123456780600000000010386 = some (.st w96 .n16 3 4 0x12345678) ∧
    decodeTableWord 32 0x3FF10388 = some (.ldn w32 .i64 15 3 4 504) ∧
    decodeTableWord 64 0x300FFFF4C010389 = some (.stn w64 .i8 3 3 4 0xFFFF) ∧
    decodeTableWord 64 0x400051028D = some (.ldt w64 2 4 5 0x40) ∧
    decodeTableWord 64 0x401028D = some (.stt w64 2 4 0 0) ∧
    decodeTableWord 64 0xFFC00801028D = some (.ldtPost w64 2 4 0 (-0x40)) ∧
    decodeTableWord 64 0xC51028D = some (.sttPost w64 2 4 5 0) ∧
    decodeTableWord 64 0x800F18191 = some (.pref w64 15 6 true 8) ∧
    decodeTableWord 32 0x910094 = some (.pushm w32 4 9) ∧
    decodeTableWord 32 0x4910094 = some (.popm w32 4 9) ∧
    decodeTableWord 64 0x600003C0108A1 = some (.rst w64 true 7 8 4 (some 2)) ∧
    decodeTableWord 32 0x440108A0 = some (.rld w32 1 8 4 none) := by decide +kernel
theorem test_decode_atomic :
    decodeTableWord 32 0x405103B0 = some (.amoAdd w32 .acq .i64 3 4 5 0) ∧
    decodeTableWord 32 0x45103B0 = some (.amoMin w32 .rlx .i64 3 4 5 0) ∧
    decodeTableWord 32 0x85103B0 = some (.amoMax w32 .rlx .i64 3 4 5 0) ∧
    decodeTableWord 32 0xC5103B0 = some (.amoAnd w32 .rlx .i64 3 4 5 0) ∧
    decodeTableWord 32 0x105103B0 = some (.amoOr w32 .rlx .i64 3 4 5 0) ∧
    decodeTableWord 32 0x145103B0 = some (.amoXor w32 .rlx .i64 3 4 5 0) ∧
    decodeTableWord 32 0x985103B0 = some (.amoSwap w32 .rel .i64 3 4 5 0) ∧
    decodeTableWord 64 0x5002400DC5103B1 = some (.amoCas w64 .ar .n32 3 4 5 9) ∧
    decodeTableWord 32 0x205103B0 = some (.amoFadd w32 .rlx .i64 3 4 5 0) ∧
    decodeTableWord 64 0x8000000245100B1 = some (.amoXacc w64 .rlx .f32 4 5 0) ∧
    decodeTableWord 64 0x2002400000103B5 = some (.ldAcq w64 .i16 3 4 9) ∧
    decodeTableWord 32 0x40103B4 = some (.stRel w32 .i64 3 4 0) ∧
    decodeTableWord 32 0x100B8 = some (.fenceAcq w32 4) ∧
    decodeTableWord 32 0x40100B8 = some (.fenceRel w32 4) ∧
    decodeTableWord 32 0x80100B8 = some (.fenceFull w32 4) ∧
    decodeTableWord 32 0xC0000B8 = some (.fenceAck w32) ∧
    decodeTableWord 32 0x100100B8 = some (.fenceAcqAll w32 4) ∧
    decodeTableWord 32 0x140100B8 = some (.fenceRelAll w32 4) ∧
    decodeTableWord 32 0x180100B8 = some (.fenceFullAll w32 4) ∧
    decodeTableWord 32 0x5103BC = some (.bind w32 3 4 5) ∧
    decodeTableWord 32 0x45100BC = some (.unbind w32 4 5) ∧
    decodeTableWord 32 0x85100BC = some (.wbr w32 4 5) ∧
    decodeTableWord 32 0xC5100BC = some (.invr w32 4 5) := by decide +kernel
theorem test_decode_tile :
    decodeTableWord 64 0x9000000001002C1 = some (.tadd w64 .bf16 false 2 0 1) ∧
    decodeTableWord 64 0x3020000041002C1 = some (.tsub w64 .i8 true 2 0 1) ∧
    decodeTableWord 64 0x81002C1 = some (.tmul w64 .i64 false 2 0 1) ∧
    decodeTableWord 64 0x70000000C1002C1 = some (.tmin w64 .n8 2 0 1) ∧
    decodeTableWord 64 0xA000000101002C1 = some (.tmax w64 .f16 2 0 1) ∧
    decodeTableWord 64 0x141002C1 = some (.tand w64 .i64 2 0 1) ∧
    decodeTableWord 64 0x181002C1 = some (.tor w64 .i64 2 0 1) ∧
    decodeTableWord 64 0x1C1002C1 = some (.txor w64 .i64 2 0 1) ∧
    decodeTableWord 64 0x2000000201002C1 = some (.tshl w64 .i16 2 0 (.tile 1)) ∧
    decodeTableWord 64 0x20100C8240002C1 = some (.tshr w64 .i16 2 0 (.imm 200)) ∧
    decodeTableWord 64 0x1023000001002C9 = some (.tfma w64 .i32 true 2 0 1 3) ∧
    decodeTableWord 64 0xA060000041002C9 = some (.tcmp w64 .f16 6 2 0 1) ∧
    decodeTableWord 64 0x3000081002C9 = some (.tsel w64 .i64 2 0 1 3) ∧
    decodeTableWord 64 0x30800030C0002C9 = some (.tcvt w64 .i8 .f32 2 0 (.plain 3)) ∧
    decodeTableWord 64 0xB1930000C1002C9 = some (.tcvt w64 .e4m3 .bf16 2 0 (.enc 1 3)) ∧
    decodeTableWord 64 0xA1C34000C0002C9 = some (.tcvt w64 .f16 .e5m2 2 0 (.dec 3 4)) ∧
    decodeTableWord 64 0xD000000000042C5 = some (.tmov w64 .lut4 2 1) ∧
    decodeTableWord 64 0xB000000040002C5 = some (.tzero w64 .e4m3 2) ∧
    decodeTableWord 64 0x1000010080002C5 = some (.tiota w64 .i32 2 16) ∧
    decodeTableWord 64 0x3020000100042C5 = some (.tabs w64 .i8 true 2 1) ∧
    decodeTableWord 64 0x140042C5 = some (.tneg w64 .i64 false 2 1) ∧
    decodeTableWord 64 0x180042C5 = some (.texp2 w64 .i64 2 1) ∧
    decodeTableWord 64 0x1C0042C5 = some (.tlog2 w64 .i64 2 1) ∧
    decodeTableWord 64 0x200042C5 = some (.trcp w64 .i64 2 1) ∧
    decodeTableWord 64 0x240042C5 = some (.trsqrt w64 .i64 2 1) ∧
    decodeTableWord 64 0x280042C5 = some (.ttanh w64 .i64 2 1) ∧
    decodeTableWord 64 0x90000000C0542C5 = some (.tbcast w64 .bf16 2 (.reg 21)) ∧
    decodeTableWord 96 0x3F800900F01F000002D6 = some (.tset w96 .bf16 2 15 31 (.lit32 0x3F80)) ∧
    decodeTableWord 64 0x3050000000042CD = some (.trowred w64 .i8 1 true 2 1) ∧
    decodeTableWord 64 0x20000040042CD = some (.tcolred w64 .i64 2 false 2 1) ∧
    decodeTableWord 64 0x7000003080042CD = some (.ttrans w64 .n8 2 1 3) ∧
    decodeTableWord 64 0xC0000000C1002CD = some (.tperm w64 .e5m2 2 0 1) ∧
    decodeTableWord 64 0x40D1 = some (.tlutload w64 1) ∧
    decodeTableWord 64 0x2000003040042D1 = some (.tlut w64 .i16 2 1 3) ∧
    decodeTableWord 64 0x80042D1 = some (.tplanes w64 2 1) ∧
    decodeTableWord 64 0x800000C0042D1 = some (.tunplanes w64 8 2 1) ∧
    decodeTableWord 64 0x7000005100002D1 = some (.bsgetT w64 .n8 2 5) := by decide +kernel
theorem test_decode_matrix :
    decodeTableWord 64 0xE030001000040E1 = some (.mldw w64 .bpn 3 true 1) ∧
    decodeTableWord 64 0x3003000040042E1 = some (.mstrm w64 .i8 false 2 1 (some 3)) ∧
    decodeTableWord 64 0xA010001040042E1 = some (.mstrm w64 .f16 true 2 1 none) ∧
    decodeTableWord 64 0x1080002E1 = some (.mrd w64 true 2) ∧
    decodeTableWord 64 0xC0000E1 = some (.mclr w64 false) ∧
    decodeTableWord 64 0x20000100000E1 = some (.mwait w64 2) := by decide +kernel
theorem test_decode_objects :
    decodeTableWord 32 0x700003F8 = some (.ctxinfo w32 3 0) ∧
    decodeTableWord 32 0x742144F8 = some (.enrd w32 4 5 2) ∧
    decodeTableWord 32 0x605103F8 = some (.qpost w32 3 4 5) ∧
    decodeTableWord 64 0x1647106F9 = some (.qwait w64 true 6 4 7) ∧
    decodeTableWord 32 0x685103F8 = some (.kinfo w32 3 4 5) ∧
    decodeTableWord 32 0x402003F8 = some (.gid w32 3 2) ∧
    decodeTableWord 32 0x442000F8 = some (.gdom w32 2) ∧
    decodeTableWord 32 0x480240F8 = some (.sstep w32 9) ∧
    decodeTableWord 32 0x481000F8 = some (.sstepEnd w32) ∧
    decodeTableWord 32 0x4C8083F8 = some (.tsend w32 3 2 8) ∧
    decodeTableWord 32 0x240F8 = some (.kdecl w32 9) ∧
    decodeTableWord 32 0x40243F8 = some (.kacq w32 3 9) ∧
    decodeTableWord 32 0x80243F8 = some (.ktry w32 3 9) ∧
    decodeTableWord 32 0xC0240F8 = some (.krel w32 9) ∧
    decodeTableWord 32 0x102003F8 = some (.kquery w32 3 2) ∧
    decodeTableWord 32 0x2052C0F8 = some (.binit w32 11 5) ∧
    decodeTableWord 32 0x2402CCF8 = some (.barr w32 12 11 0) ∧
    decodeTableWord 32 0x28C2C3F8 = some (.bwait w32 3 11 12 0) ∧
    decodeTableWord 64 0x24002C02C3F9 = some (.barw w64 3 11 9) ∧
    decodeTableWord 32 0x3062C0F8 = some (.bpoison w32 11 6 0) ∧
    decodeTableWord 32 0x3412C3F8 = some (.bquery w32 3 11 1) ∧
    decodeTableWord 64 0x1000000A248FD = some (.xfer w64 1 0 8 9 10) ∧
    decodeTableWord 64 0x12000000A248FD = some (.xfer w64 2 2 8 9 10) ∧
    decodeTableWord 64 0x2400045100FD = some (.latch w64 4 5 9) ∧
    decodeTableWord 32 0x82103FC = some (.ptprobe w32 3 4 2) ∧
    decodeTableWord 32 0xC7185FC = some (.tlbinv w32 5 6 7) ∧
    decodeTableWord 32 0x250A4 = some (.msend w32 16 9) ∧
    decodeTableWord 32 0x41250A4 = some (.mrecv w32 true 16 9) ∧
    decodeTableWord 32 0x800103F8 = some (.lquery w32 3 4 0) := by decide +kernel
theorem test_decode_hinge :
    decodeTableWord 64 0x10006140F1 = some (.hopen w64 0 1 5 6) ∧
    decodeTableWord 64 0x2F246140F1 = some (.hjoin w64 15 2 5 6) ∧
    decodeTableWord 64 0x9000000040080F1 = some (.hload w64 .bf16 0 2 0) ∧
    decodeTableWord 64 0x8000003105080F1 = some (.hadd w64 .f32 3 2 5) ∧
    decodeTableWord 64 0xA0000030C5002F1 = some (.hread w64 .f16 3 2 5) ∧
    decodeTableWord 64 0x803D9F1 = some (.hpush w64 0 25 15) ∧
    decodeTableWord 64 0x12803D9F1 = some (.hleave w64 1 25 15) ∧
    decodeTableWord 64 0x2140003F1 = some (.hmass w64 2 3) ∧
    decodeTableWord 64 0x10002140100F1 = some (.hmassSet w64 2 4) ∧
    decodeTableWord 64 0x2180003F1 = some (.hdisag w64 2 3) ∧
    decodeTableWord 64 0x1C0000F1 = some (.hpause w64 0) ∧
    decodeTableWord 64 0x7200000F1 = some (.hresume w64 7) := by decide +kernel
theorem test_decode_witness :
    decodeTableWord 64 0x9310900000042F5 = some (.wredMax w64 .bf16 true false 3 2 9 1) ∧
    decodeTableWord 64 0x3020900040042F5 = some (.wredMin w64 .i8 false true 0 2 9 1) ∧
    decodeTableWord 64 0x5900084042F5 = some (.wredClamp w64 .i64 2 9 1 4 5) ∧
    decodeTableWord 64 0x4009000C0042F5 = some (.wredMed w64 .i64 false 4 2 9 1) ∧
    decodeTableWord 64 0xA020900100042F5 = some (.wredSsum w64 .f16 true 0 2 9 1) ∧
    decodeTableWord 64 0x90C6041203042F5 = some (.wadj w64 .bf16 true (some 6) 1 false false 2 2 1 3) ∧
    decodeTableWord 64 0x240502F5 = some (.wst w64 2 20) ∧
    decodeTableWord 64 0x280502F5 = some (.wld w64 2 20) := by decide +kernel
/-- No instruction: a reserved field or bit is set (R48, R49). -/
theorem test_no_instruction_reserved :
    decodeTableWord 32 0x48110300 = none ∧
    decodeTableWord 32 0x10164 = none ∧
    decodeTableWord 64 0x1000001002C1 = none ∧
    decodeTableWord 64 0x181042C5 = none ∧
    decodeTableWord 32 0xC0100B8 = none ∧
    decodeTableWord 64 0x10180003F1 = none ∧
    decodeTableWord 32 0x685003F8 = none ∧
    decodeTableWord 32 0x22003F50 = none := by decide +kernel
/-- No instruction: an op6, fn6, length or selector is not assigned (R48, R49). -/
theorem test_no_instruction_unassigned :
    decodeTableWord 32 0x0 = none ∧
    decodeTableWord 128 0xFFFFFFFFFFFFFFFFFFFFFFFFFFFFFFFF = none ∧
    decodeTableWord 32 0xC0 = none ∧
    decodeTableWord 32 0x60510300 = none ∧
    decodeTableWord 32 0xEC = none ∧
    decodeTableWord 64 0x51 = none ∧
    decodeTableWord 32 0x840000F8 = none ∧
    decodeTableWord 32 0xAC000368 = none ∧
    decodeTableWord 32 0x4C010064 = none := by decide +kernel
/-- No instruction: a value lies outside the range of its field (R48, R49). -/
theorem test_no_instruction_ranges :
    decodeTableWord 64 0x1000000000000061 = none ∧
    decodeTableWord 32 0x18510228 = none ∧
    decodeTableWord 64 0x30000100000E1 = none ∧
    decodeTableWord 64 0x11001005D = none ∧
    decodeTableWord 32 0x445000F8 = none ∧
    decodeTableWord 32 0x1C0139A0 = none ∧
    decodeTableWord 64 0x8000000201002C1 = none ∧
    decodeTableWord 64 0x3060000041002C9 = none ∧
    decodeTableWord 96 0x4510302 = none ∧
    decodeTableWord 64 0x3009000C0042F5 = none ∧
    decodeTableWord 64 0x1A000000A248FD = none := by decide +kernel

/-! ## States that meet the hypotheses of the statements -/

theorem witness_IntegerResults : Able demo w32 (.dst 3 :: .src 4 :: srcOps (.reg 63)) := by decide +kernel
theorem witness_ImmediateResults : Able demo w64 [.dst 0, .src 15] := by decide +kernel
theorem witness_ExtendedResultsAreWordArithmetic : Ty.isInt .i8 = true ∧ isSigned .i8 = true := by decide
theorem witness_MovesAndFields : Able demo w32 [.dst 3, .src 4] ∧ Able demo w128 (.dst 3 :: .src 4 :: srcOps (.lit64 0x4020)) ∧
    Able demo w32 [.src 3] ∧ Able demo w96 [.dst 3] ∧ Able demo w32 [.dst 3, .src 4, .src 5, .preds] := by decide +kernel
theorem witness_CompareSetsOnePredicate : Able demo w32 (.src 4 :: srcOps (.reg 5)) ∧ (5 : BitVec 3).toNat < 6 ∧ (0 : BitVec 3).toNat < 6 ∧
    (0x18000028 : BitVec 32).extractLsb' 2 6 = 0x0A ∧ 6 ≤ ((0x18000028 : BitVec 32).extractLsb' 26 3).toNat ∧
    (demoBare.strand demoBare.cur).guard w32 = true ∧ (demoBare.live demoBare.cur.core).perr = [] ∧
    (demoBare.strand demoBare.cur).holds 20 = false ∧ (demoBare.strand demoBare.cur).pendingReg 20 = false := by
  decide +kernel
theorem witness_RegisterWriteReadsBack : Able demo w32 [.dst 63] ∧ Able demo w128 [.dst 0] := by decide +kernel
theorem witness_RegisterOnlyFrame : registerOnly (.iMul w32 .i32 3 4 (.reg 5)) = some (w32, .dst 3 :: .src 4 :: srcOps (.reg 5), 3) ∧
    Able demo w32 (.dst 3 :: .src 4 :: srcOps (.reg 5)) ∧ (demo.strand demo.cur).loop0.count = 0 ∧ (demo.strand demo.cur).loop1.count = 0 ∧
    (demo.strand demo.cur).loop2.count = 0 ∧ (demo.strand demo.cur).loop3.count = 0 := by decide +kernel
theorem witness_FloatResults : Able demo w96 (.dst 3 :: .status 0 :: .src 4 :: srcOps (.lit32 0)) ∧ Able demo w32 [.dst 3, .src 4] ∧
    Able demo w64 [.dst 3, .status 0, .src 4, .src 5, .src 6] ∧ Able demo w32 (.status 0 :: .src 4 :: srcOps (.reg 5)) := by decide +kernel
theorem witness_FloatFrame : floatOnly (.fadd w32 .i64 3 4 (.reg 5)) = some (w32, .dst 3 :: .status 0 :: .src 4 :: srcOps (.reg 5), 3) ∧
    Able demo w32 (.dst 3 :: .status 0 :: .src 4 :: srcOps (.reg 5)) ∧ ((demo.strand demo.cur).fctl >>> 4).setWidth 5 = (0 : BitVec 5) := by
  decide +kernel
theorem witness_NotANumberResultsAreCanonical : (Num.nan true).isNan = true ∧ (Num.nan true).sigFlag = 16 ∧ (Num.nan false).sigFlag = 0 ∧
    (∀ a b : Bool, ¬ ((Num.nan true) = .zero a ∧ (Num.nan false) = .inf b) ∧ ¬ ((Num.nan true) = .inf a ∧ (Num.nan false) = .zero b)) := by decide
theorem witness_JumpsAndBranches : Able demo ⟨0, 0, false⟩ [] ∧ ((demo.strand demo.cur).pred 0 ^^ false) = true ∧
    ((demo.strand demo.cur).pred 1 ^^ false) = false ∧ Able demo w32 [.src 4, .dst 15] ∧ (demo.reg demo.cur 4).toNat % 4 = 0 ∧
    Able demo w32 [.src 5] ∧ (demo.reg demo.cur 5).toNat % 4 ≠ 0 := by decide +kernel
theorem witness_LoopStepAfterRetirement : Able demo w32 [] ∧ Able (demoLoop 2 1) w32 [] ∧
    ((demoLoop 2 1).strand demo.cur).loop1.count.toNat = 2 ∧ ((demoLoop 2 1).strand demo.cur).loop1.stop = (demo.strand demo.cur).pc ∧
    (demo.strand demo.cur).loop3.count = 0 := by decide +kernel
theorem witness_LoopSetsUpALevel : Able demo w64 [.src 4] ∧ demo.reg demo.cur 4 ≠ 0 ∧ Able (joined demo) w64 [.src 0] ∧ Able demo w64 [.src 0] ∧ demo.reg demo.cur 0 = 0 ∧
    (match (joined demo).fetchWord demo.cur ((demo.strand demo.cur).pc + 8) with | .word _ _ => true | _ => false) = true ∧
    (match demo.fetchWord demo.cur 2 with | .trap _ => true | _ => false) = true := by decide +kernel
theorem witness_TimedWaitsAndPause : Able demo w32 [.src 4] ∧ (demo.reg demo.cur 0).toNat ≤ demo.time.toNat ∧
    demo.time.toNat < (demo.reg demo.cur 4).toNat ∧ ((demoWait .pause).strand ⟨0, 0⟩).wait = some (demoW .pause) ∧
    ((demoWait .timed).strand ⟨0, 0⟩).wait = some (demoW .timed) ∧ ((demoWait .timed).core 0).st = .active ∧
    ((demoWait .vtimed).strand ⟨0, 0⟩).wait = some (demoW .vtimed) := by decide +kernel
theorem witness_TrapEntryAndRecord : inHbm ((demo.trec (dieOf 0) (demo.ctxPart (demo.ctxOf 0)) 0).toNat) 128 = true ∧
    (Trap.align 3).hurt.2 = 0 ∧ (Trap.align 3).cause < 256 ∧ demo.cur.strand < 4 ∧ demo.cur.core < 2 ^ 15 ∧ demo.ctxOf 0 < 2 ^ 16 := by
  decide +kernel
theorem witness_SystemCallEntry : Able demo w32 [] ∧
    inHbm ((demo.trec (dieOf 0) (demo.ctxPart (demo.ctxOf 0)) 0).toNat) 128 = true := by decide +kernel
theorem witness_ReturnFromException : Able demoSys w32 [.sys, .src 4] ∧ (demoSys.reg demoSys.cur 4).toNat % 4 = 0 ∧
    (demoSys.reg demoSys.cur 5).toNat % 4 ≠ 0 ∧ (demoSys.strand demoSys.cur).priv = .sv ∧ Able demo w32 [] ∧
    demo.relWaits demo.cur (demo.strand demo.cur).hold.counts = false ∧ (demoJob.strand demoJob.cur).job = some (0, 0) ∧
    ((demoJob.kernel 0).group 0).state = .running ∧ (demoJob.strand demoJob.cur).hold ≠ .none_ := by decide +kernel
theorem witness_StatusRegistersWriteAndRead : Able demo w32 ([] ++ [.src 4]) ∧ Able demoSys w32 ([Opnd.sys] ++ [.src 4]) ∧
    selWritable 0x02 = true ∧ (demo.reg demo.cur 6) = 0x1080 ∧ (demo.reg demo.cur 0) &&& statusReserved 0x02 = 0 ∧
    Able demo w32 [.dst 3, .status 0x13] := by decide +kernel
theorem witness_StatusRegisterContents : (32767 : Nat) < 32768 ∧ (3 : Nat) < 4 ∧ (demo.hslot 0 3).state = .closed := by decide +kernel
theorem witness_UserPrivilegeTraps : (demo.strand demo.cur).guard w32 = true ∧ (demo.live demo.cur.core).perr = [] ∧
    (demo.strand demo.cur).loads = [] ∧ (demo.strand demo.cur).priv = .user := by decide +kernel
theorem witness_UnheldRegisterTraps : registerOnly (.mov w32 .i64 3 20) = some (w32, [.dst 3, .src 20], 3) ∧
    (demoBare.strand demoBare.cur).guard w32 = true ∧ (demoBare.strand demoBare.cur).holds 20 = false ∧
    (demoBare.strand demoBare.cur).pendingReg 3 = false ∧ ((demoLoad).strand demo.cur).pendingReg 3 = true ∧
    (demo.strand demo.cur).regPlace 0 4 = some 4 ∧ PErr.reg 4 ∈ (demoBad.live 0).perr ∧ (demoBad.strand demo.cur).holds 4 = true := by
  decide +kernel
theorem witness_FalseGuardOnlyMovesOn : ((Instr.iAdd ⟨1, 3, false⟩ .i64 3 4 (.reg 5)).toRaw.map (fun r => (demo.strand demo.cur).guard r.form)) =
    some false ∧ (demo.live demo.cur.core).perr = [] := by decide +kernel


theorem witness_LoadsWriteTheirRegister : Able demo w32 [.mem, .dst 3, .src 4] ∧ Able demo w32 [.mem, .dst 3, .src 5] ∧
    (demo.reg demo.cur 5 + 0).toNat % 8 ≠ 0 ∧ (demo.reg demo.cur 7 + 0).toNat % 8 = 0 ∧
    ((demo.reg demo.cur 7).setWidth 57).signExtend 64 ≠ demo.reg demo.cur 7 := by decide +kernel
theorem witness_LoadFromLm : ∃ p x, demoMap.pieces demoMap.cur .load .all [(0x4000, 8)] = .ok [p] ∧ p.at_ = .lm x ∧
    demoMap.mustWait demoMap.cur false p.at_.flat 8 = false ∧
    (demoMap.useXlat demoMap.cur p.x).eccCause 0 x 8 = none ∧ Able demoMap w32 [.mem, .dst 3, .src 4] ∧
    demoMap.reg demoMap.cur 4 + 0 = 0x4000 := ⟨_, _, rfl, rfl, by decide +kernel, by decide +kernel, by decide +kernel, by decide +kernel⟩
theorem witness_LoadFromHbm : ∃ p x sy, demo.pieces demo.cur .load .all [(0x2040, 8)] = .ok [p] ∧ p.at_ = .hbm x sy ∧
    demo.mustWait demo.cur false p.at_.flat 8 = false ∧ demo.reg demo.cur 8 + 0 = 0x2040 :=
  ⟨_, _, _, rfl, rfl, by decide +kernel, by decide +kernel⟩
theorem witness_LoadReturns : ∃ l, (demoLoad.strand ⟨0, 0⟩).loads[0]? = some l ∧ l.pkt = none ∧ l.n = 0 ∧ l.val = none ∧ isLm l.flat = false ∧
    isHbm l.flat = true ∧ l.sync = false ∧ demoLoad.eccCause 0 l.flat l.bytes true = none ∧
    (joined demoLoad).missCut ⟨0, 0⟩ l.va (.hbm l.flat false) = false ∧ ((joined demoLoad).strand ⟨0, 0⟩).loads = (demoLoad.strand ⟨0, 0⟩).loads :=
  ⟨_, rfl, by decide +kernel, by decide +kernel, by decide +kernel, by decide +kernel, by decide +kernel, by decide +kernel, by decide +kernel, by decide +kernel, by decide +kernel⟩
theorem witness_StoreToLm : ∃ p x, Able demoMap w32 [.mem, .src 3, .src 4] ∧ demoMap.reg demoMap.cur 4 + 0 = 0x4000 ∧
    demoMap.pieces demoMap.cur .store .all [(0x4000, 8)] = .ok [p] ∧ p.at_ = .lm x ∧ demoMap.mustWaitAt demoMap.cur p.at_ 8 = false ∧
    demoMap.narrowBad p.at_.flat 8 = false ∧ p.x.claim = false :=
  ⟨_, _, by decide +kernel, by decide +kernel, rfl, rfl, by decide +kernel, by decide +kernel, by decide +kernel⟩
/-- Pages with SYNC, of another core's LM, of module 1, of the host, of control registers, at 0x8000. -/
def stSync : State := mapped (joined demo) 0x1000_0000_0000_803F
def stAway : State := mapped demoPair 0x2001_0000_0000_401F
def stPeer : State := mapped (demoMod .up) 0x3000_0100_0000_801F
def stHost : State := mapped (joined demo) 0x4000_0000_0000_801F
def stMmio : State := mapped demo 0x500F_0000_0000_001F
def storeGoes (s : State) (at_ : Place → Bool) : Bool :=
  okIs (s.pieces s.cur .store .all [(0x8038, 8)]) (fun ps => match ps with
    | [p] => at_ p.at_ && !s.mustWaitAt s.cur p.at_ 8 && !s.narrowBad p.at_.flat 8 && !p.x.claim
    | _ => false)
theorem witness_StoresElsewhere : storeGoes stSync (fun p => p == .hbm 0x8038 true) = true ∧ (stSync.strand stSync.cur).late = false ∧
    stSync.line 0 (0x8038 / 64) = none ∧
    storeGoes (stSync.setLate ⟨0, 0⟩ true) (fun p => p == .hbm 0x8038 true) = true ∧
    storeGoes stAway (fun p => match p with | .away 1 _ => true | _ => false) = true ∧
    storeGoes stPeer (fun p => match p with | .peer 1 _ _ => true | _ => false) = true ∧
    storeGoes stHost (fun p => match p with | .host x => x % 8 == 0 | _ => false) = true ∧
    storeGoes stMmio (fun p => match p with | .mmio _ => true | _ => false) = true := by decide +kernel
theorem witness_StoreToHbm : (joined demoMap).reg demoMap.cur 9 + 0 = 0x8038 ∧
    storeGoes (joined demoMap) (fun p => match p with | .hbm x false => x % 8 == 0 | _ => false) = true := by decide +kernel
theorem witness_NearAccesses : Able demo w32 [.mem, .dst 3, .src 8] ∧ Able demo w32 [.mem, .src 3, .src 8] ∧
    (demo.reg demo.cur 8 + 0).toNat % 8 = 0 ∧ (demo.reg demo.cur 8 + 0).toNat + 8 ≤ 0x30000 ∧
    demo.inAllot (demo.ctxOf 0) (clusterCore (clusterOf 0) 0) = true ∧ clusterCore (clusterOf 0) 0 = demo.cur.core ∧
    lmPhys (demo.strand demo.cur).hold 0x2040 = some 0x2040 ∧ demo.mustWait demo.cur true (lmFlat 0 0x2040) 8 = false ∧
    (demo.live 0).hingeCovers 0x2040 8 = false ∧ demo.inAllot (demo.ctxOf 0) (clusterCore (clusterOf 0) 1) = false ∧
    demoPair.inAllot (demoPair.ctxOf 0) 1 = true ∧ demoPair.isActive (demoPair.ctxOf 0) 1 = true ∧
    (0x2FFF8 : Word).toNat + 8 ≤ 0x30000 ∧ 0x30000 < (0x2FFFC : Word).toNat + 8 ∧ demo.reg demo.cur 5 = 0x2001 := by decide +kernel
theorem witness_TileRowAccesses : ∃ ps vs s1, demoMap.rowPieces demoMap.cur .store ((demoMap.strand demoMap.cur).rowVas 0x4000 64) = .ok ps ∧
    ps.any (fun p => demoMap.pieceWaits demoMap.cur p 64) = false ∧
    demoMap.rowPieces demoMap.cur .load ((demoMap.strand demoMap.cur).rowVas 0x4000 64) = .ok ps ∧ demoMap.rowAway demoMap.cur ps = false ∧
    (demoMap.useAll demoMap.cur ps).readRows demoMap.cur ps = .ok (vs, s1) ∧ Able demoMap w64 ([.status 2, .status 3] ++ [.mem, .tsrc 2, .src 4, .dst 4, .src 0]) ∧
    Able demoMap w64 ([.twhole 2] ++ [.status 2, .status 3] ++ [.mem, .tdst 2, .src 4, .dst 4, .src 0]) ∧ demoMap.reg demoMap.cur 4 = 0x4000 :=
  ⟨_, _, _, rfl, by decide +kernel, rfl, by decide +kernel, rfl, by decide +kernel, by decide +kernel, by decide +kernel⟩
theorem witness_SpillsAndPrefetch : Able demoSpill w32 (.status 0x10 :: .mem :: srcRange 3 2) ∧ Able demoSpill w32 (.status 0x10 :: .mem :: dstRange 3 2) ∧
    Able demo w32 (.status 0x10 :: .mem :: srcRange 3 2) ∧ (demo.strand demo.cur).spill.toNat = 0 ∧
    (demoSpill.strand demo.cur).spill.toNat % 2 ^ 18 = 0x110 ∧ (demoSpill.strand demo.cur).spill.toNat / 2 ^ 18 % 2 ^ 18 = 0x100 ∧
    (demoSpill.strand demo.cur).spill.toNat / 2 ^ 36 % 2 ^ 18 = 0x120 ∧ Able demo w32 [.mem, .src 4] ∧
    (∃ ps, demoSpill.spillSlots demo.cur .store 0x100 2 = .ok ps ∧ ps.any (fun p => demoSpill.mustWait demo.cur true (lmFlat 0 p) 8) = false) ∧
    (∃ ps, demoSpill.spillSlots demo.cur .load 0x110 2 = .ok ps ∧ ps.any (fun p => demoSpill.mustWait demo.cur false (lmFlat 0 p) 8) = false ∧
      ps.findSome? (fun p => demoSpill.eccCause (clusterOf 0) (lmFlat 0 p) 8) = none) :=
  ⟨by decide +kernel, by decide +kernel, by decide +kernel, by decide +kernel, by decide +kernel, by decide +kernel, by decide +kernel,
   by decide +kernel, ⟨_, rfl, by decide +kernel⟩, ⟨_, rfl, by decide +kernel, by decide +kernel⟩⟩
theorem witness_RemoteOperationsLeaveAndLand : Able demo w32 (.mem :: .src 5 :: srcRange 3 1) ∧ Able demo w32 (.mem :: .src 5 :: dstRange 3 1) ∧
    (demo.reg demo.cur 5).toNat % 8 ≠ 0 ∧ (demoLoad.strand ⟨0, 0⟩).run = .running ∧ (demoLoad.strand ⟨0, 0⟩).wait = none ∧
    (∃ p, demoMap.pieces demoMap.cur .store .remote [(0x4000, 16)] = .ok [p] ∧ demoMap.mustWaitSend demoMap.cur p.remote.flat p.n = false) ∧
    (∃ p, demoMap.pieces demoMap.cur .load .remote [(0x4000, 16)] = .ok [p] ∧ demoMap.mustWait demoMap.cur false p.at_.flat p.n = false) :=
  ⟨by decide +kernel, by decide +kernel, by decide +kernel, by decide +kernel, by decide +kernel, ⟨_, rfl, by decide +kernel⟩,
   ⟨_, rfl, by decide +kernel⟩⟩
theorem witness_PacketLands : (demoPkt (.store false) false false).pkt 0 = some (aPkt (.store false) false false) ∧
    (isLm (aPkt (.store false) false false).flat && !(demoPkt (.store false) false false).isActive 0 0) = false ∧
    (demoPkt (.store false) false false).storeBad (aPkt (.store false) false false) = false ∧
    (demoPkt (.store false) false false).blocked (aPkt (.store false) false false) false = false ∧
    (demoPkt (.store false) false false).carried (aPkt (.store false) false false) = true ∧
    (demoPkt .load false false).carried (aPkt .load false false) = true ∧ (aPkt (.store false) true false).path = some 1 ∧ (demoPkt (.store false) true false).module_.toNat = (aPkt (.store false) true false).smodule ∧
    ((demoPkt (.store false) true false).core 0).ctx = some 0 ∧ (demoPkt (.store false) true false).drooping 0 = false ∧
    (demoPkt (.store false) false false).pktPhys (aPkt (.store false) false false) = some 0x40 ∧
    ((demoPkt (.store false) false false).live 0).hingeCovers 0x40 8 = false ∧ ((demoPkt (.store false) true false).strand ⟨0, 0⟩).birth = 0 ∧
    (demoPkt .load false false).pktPhys (aPkt .load false false) = some 0x40 ∧
    (demoPkt .load false false).eccCause 0 (lmFlat 0 0x40) 8 = none ∧ isLm (lmFlat 0 0x40) = true ∧
    (aPkt (.store false) false true).refused = true := by decide +kernel
theorem witness_StoreIsDiverted : (isLm (aPkt (.store false) false false).flat && !demoAwayPkt.isActive 0 0) = true ∧
    demoAwayPkt.sqAbsent 0 = false ∧ demoAwayPkt.sqFull 0 = false ∧ (demoAwayPkt.ctxRec 0).desc + 256 ≤ demoAwayPkt.sqAddr 0 (demoAwayPkt.sqTail 0) ∧ demoAwayPkt.blocked (aPkt (.store false) false false) false = false ∧
    demoAwayPkt.carried (aPkt (.store false) false false) = true ∧ demoAwayFull.sqFull 0 = true ∧ demoAwayFull.sqAbsent 0 = false ∧
    demoAwayFull.carried (aPkt (.store false) false false) = true := by decide +kernel
theorem witness_AtomicIsRefused : demoFarAmo.pkt 0 = some aFarAmo ∧ aFarAmo.kind = .amo 0 .i64 ∧ aFarAmo.ret = false ∧
    aFarAmo.module_.isSome = true ∧ aFarAmo.module_.any (fun m => (demoFarAmo.modEnt m).state == .failed) = false ∧
    aFarAmo.landed = false ∧ aFarAmo.refused = false ∧ demoFarAmo.carried aFarAmo = true ∧
    demoFarAmo.blocked aFarAmo false = false := by decide +kernel
theorem witness_LoadDataMeetsAnError : (demoEcc.strand ⟨0, 0⟩).loads[0]?.isSome = true ∧ demoEcc.eccCause 0 0x2040 8 true = some 31 := by
  decide +kernel
theorem witness_AtomicAtTheLmPort : ∃ p x, demoMap.pieces demoMap.cur .atomic .amo [(0x4000, 8)] = .ok [p] ∧ p.at_ = .lm x ∧
    demoMap.mustWaitHome demoMap.cur p.at_ 8 = false ∧ p.x.claim = false ∧ demoMap.takeCut demoMap.cur (.object (demoMap.objFlat demoMap.cur p.at_)) = false ∧
    demoMap.relBusy demoMap.cur (.object (demoMap.objFlat demoMap.cur p.at_)) .package = false ∧
    demoMap.readsBusy demoMap.cur = false ∧ demoMap.reg demoMap.cur 4 = 0x4000 ∧
    Able demoMap w32 ([Opnd.src 3, .dst 3] ++ [.mem, .src 4, .src 5, .scope 0]) ∧ (demoMap.useXlat demoMap.cur p.x).eccCause 0 x 8 = none :=
  ⟨_, _, rfl, rfl, by decide +kernel, by decide +kernel, by decide +kernel, by decide +kernel, by decide +kernel, by decide +kernel, by decide +kernel,
   by decide +kernel⟩
theorem witness_AtomicOnAQuietLine : ∃ p x sy, (joined demo).pieces demo.cur .atomic .amo [(0x2040, 16)] = .ok [p] ∧ p.at_ = .hbm x sy ∧
    (joined demo).contested 0 x = false ∧ (joined demo).cut demo.cur p.at_ = false ∧ demo.reg demo.cur 8 = 0x2040 ∧
    (joined demo).mustWaitHome demo.cur p.at_ 16 = false ∧ ((joined demo).strand demo.cur).late = false ∧ Able (joined demo) w32 ([Opnd.feat 3] ++ [.mem, .src 8, .src 5, .scope 0]) :=
  ⟨_, _, _, rfl, rfl, by decide +kernel, by decide +kernel, by decide +kernel, by decide +kernel, by decide +kernel, by decide +kernel⟩
theorem witness_AtomicOnAWornWord : ∃ p x, ({ demoMap with poisoned := [lmFlat 0 0x4000] } : State).pieces demoMap.cur .atomic .amo [(0x4000, 8)] =
    .ok [p] ∧ p.at_ = .lm x ∧ (({ demoMap with poisoned := [lmFlat 0 0x4000] } : State).useXlat demoMap.cur p.x).eccCause 0 x 8 = some 31 :=
  ⟨_, _, rfl, rfl, by decide +kernel⟩
theorem witness_AtomicOnAContestedLine : ∃ p x sy, demoHot.pieces demoHot.cur .atomic .amo [(0x2040, 8)] = .ok [p] ∧ p.at_ = .hbm x sy ∧
    (demoHot.useXlat demoHot.cur p.x).contested 0 x = true := ⟨_, _, _, rfl, rfl, by decide +kernel⟩
theorem witness_AcquireFromHbm : ∃ p x sy, demo.pieces demo.cur .load .all [(0x2040, 8)] = .ok [p] ∧ p.at_ = .hbm x sy ∧
    demo.readsBusy demo.cur = false ∧ demo.mustWait demo.cur false p.at_.flat 8 = false ∧ Able demo w32 [.mem, .dst 3, .src 8, .scope 0] ∧
    demo.reg demo.cur 8 = 0x2040 := ⟨_, _, _, rfl, rfl, by decide +kernel, by decide +kernel, by decide +kernel, by decide +kernel⟩
theorem witness_AcquireFromLm : ∃ p x, demoMap.pieces demoMap.cur .load .all [(0x4000, 8)] = .ok [p] ∧ p.at_ = .lm x ∧
    (demoMap.useXlat demoMap.cur p.x).eccCause 0 x 8 = none ∧ demoLoad.readsBusy demo.cur = true :=
  ⟨_, _, rfl, rfl, by decide +kernel, by decide +kernel⟩
theorem witness_ReleaseToHbm : ∃ p x sy, (joined demoMap).pieces demoMap.cur .store .all [(0x8038, 8)] = .ok [p] ∧ p.at_ = .hbm x sy ∧
    (joined demoMap).mustWaitHome demoMap.cur p.at_ 8 = false ∧ demoMap.narrowBad p.at_.flat 8 = false ∧ (joined demoMap).cut demoMap.cur p.at_ = false ∧
    (joined demoMap).relBusy demoMap.cur (.object (demoMap.objFlat demoMap.cur p.at_)) .package = false ∧
    demoMap.cut demoMap.cur p.at_ = true ∧ Able (joined demoMap) w32 [.mem, .src 3, .src 9, .scope 0] ∧ demoMap.reg demoMap.cur 9 = 0x8038 :=
  ⟨_, _, _, rfl, rfl, by decide +kernel, by decide +kernel, by decide +kernel, by decide +kernel, by decide +kernel, by decide +kernel, by decide +kernel⟩
theorem witness_FencesPublishAndTakeIn : Able demo w32 [.scope 0] ∧ Able demo w32 [.status 0x1F, .status 0x20, .status 0x21, .status 0x22] ∧ demo.readsBusy demo.cur = false ∧
    demoCut.takeCut demo.cur .bound = true ∧ demo.takeCut demo.cur .all = false ∧ demo.takeCut demo.cur .bound = false ∧ demoLine.takeCut demo.cur .all = true ∧
    demo.relBusy demo.cur .all .package = false ∧ demo.relBusy demo.cur .bound .package = false ∧ demoLoad.readsBusy demo.cur = true ∧
    demoLoad.relBusy demo.cur .bound .package = true ∧ (demoLine.line 0 0x80).isSome = true ∧ Scope.package.beyond 0 = true ∧
    [0, 1, 2, 3].all (fun n => packOut ((demo.strand demo.cur).pack n) == 0) = true ∧
    demoLine.covers 0 .all (64 * 0x80) 64 = true ∧ demoLine.covers 0 .bound (64 * 0x80) 64 = false := by decide +kernel
theorem witness_BindsAndCacheRanges : Able demoMap w32 [.mem, .src 4, .src 4, .src 8] ∧ Able demoMap w32 [.mem, .src 4, .src 8] ∧
    (demoMap.reg demoMap.cur 4).toNat % 64 = 0 ∧ (demoMap.reg demoMap.cur 8).toNat % 64 = 0 ∧ 0 < (demoMap.reg demoMap.cur 8).toNat ∧
    (demoMap.reg demoMap.cur 5).toNat % 64 ≠ 0 ∧ (demoMap.reg demoMap.cur 0).toNat = 0 ∧ demoMap.readsBusy demoMap.cur = false ∧
    (demoLine.line 0 0x80).isSome = true ∧ inRanges [(0x2000, 64)] (64 * 0x80) 64 = true ∧
    demoMap.anyCut demoMap.cur (inRanges (demoMap.lineRanges demoMap.cur 0x2000 64)) = false ∧ demoLoad.readsBusy demo.cur = true ∧
    demoCut.anyCut demo.cur (inRanges (demoCut.lineRanges demo.cur 0x8000 64)) = true ∧
    (demoWbr.mine demo.cur).any (fun e => e.2.kind.writes && inRanges (demoWbr.lineRanges demo.cur 0x8000 64) e.2.flat e.2.bytes) = true := by
  decide +kernel
theorem witness_BindToLm : ∃ x, demoMap.translate demoMap.cur 0x4000 .load .object = .ok x ∧ x.tgt = .lm 0 0x4000 ∧
    (lmPhys (demoMap.strand demoMap.cur).hold 0x4000).map (lmFlat 0) = some (lmFlat 0 0x4000) := ⟨_, rfl, by decide +kernel, by decide +kernel⟩
/-- n ranges of 64 bytes, apart from each other; and a bind table at its limit, with one of 192 before them. -/
def farBinds : Nat → Nat → List (Nat × Nat × Nat)
  | 0, _ => []
  | n + 1, b => (b, 64, 0x40) :: farBinds n (b + 128)
def fullBinds : List (Nat × Nat × Nat) := (0, 192, 0x40) :: farBinds 4095 256
theorem farBinds_length (n b : Nat) : (farBinds n b).length = n := by
  induction n generalizing b with
  | zero => rfl
  | succ n ih => simp [farBinds, ih]
theorem farBinds_cut (n b a k : Nat) (h : a + k ≤ b) : ((farBinds n b).map (cutBind a k)).flatten = farBinds n b := by
  induction n generalizing b with
  | zero => rfl
  | succ n ih => simp [farBinds, cutBind, h, ih (b + 128) (by omega)]
theorem farBinds_merged (n b : Nat) : mergeBinds (farBinds n b) = farBinds n b := by
  induction n generalizing b with
  | zero => rfl
  | succ n ih => cases n <;> simp_all [farBinds, mergeBinds]
theorem farBinds_after (n : Nat) : mergeBinds ((128, 64, 0x40) :: farBinds n 256) = (128, 64, 0x40) :: farBinds n 256 := by
  rw [mergeBinds, farBinds_merged]
  cases n <;> simp [farBinds]
theorem witness_BindTableFull : fullBinds.length = 4096 ∧
    4096 < (mergeBinds (insBind (0x40, 64, 0x80) ((fullBinds.map (cutBind 0x40 64)).flatten))).length ∧
    4096 < ((fullBinds.map (cutBind 0x40 64)).flatten).length ∧ ((fullBinds.map (cutBind 0 192)).flatten).length ≤ 4096 := by
  have hc : cutBind 0x40 64 (0, 192, 0x40) = [(0, 64, 0x40), (128, 64, 0x40)] := rfl
  have ha : cutBind 0 192 (0, 192, 0x40) = [] := rfl
  refine ⟨?_, ?_, ?_, ?_⟩ <;> simp [fullBinds, hc, ha, farBinds_length, farBinds_cut, insBind]
  rw [mergeBinds, mergeBinds, farBinds_after]
  simp [farBinds_length]
theorem witness_TileElementResults : Able demo w64 (.tdst 2 :: [Opnd.tsrc 0, .tsrc 1, .tsrc 2]) ∧ Able demo w64 (.tdst 2 :: [Opnd.feat 1, .tsrc 0]) ∧
    (demo.strand demo.cur).fctl = 0 ∧ (demo.strand demo.cur).rows = 16 ∧ (demo.strand demo.cur).cols = 128 ∧
    ((demoFctl.strand demo.cur).fctl >>> 4).setWidth 5 = fDZ ∧
    (rounded (fmtOf .f32) 0x80 (special 2 (readF (fmtOf .f32) 0x80 ((demoFctl.tile demo.cur 0).elem 32 0 0)))).2 &&& fDZ ≠ 0 := by decide +kernel
theorem witness_TileSetConvertAndReduce : Able demo w64 (.tdst 2 :: srcOps (.reg 5)) ∧ (15 : BitVec 8).toNat < 512 / Ty.tileWidth .f32 ∧
    Able demo w64 [.tdst 2, .tsrc 2] ∧ Able demo w64 [.tdst 2, .tdst 3, .tsrc 0, .tsrc 1] ∧
    (demo.strand demo.cur).poolTile 2 ≠ (demo.strand demo.cur).poolTile 3 ∧ (demo.strand demo.cur).fctl = 0 := by decide +kernel
theorem witness_TileMovesTablesAndPlanes : Able demo w64 [.tdst 2, .tsrc 2] ∧ (1 : BitVec 8).toNat < 512 / Ty.tileWidth .bf16 / 16 ∧
    Able demo w64 [.feat 1, .tsrc 0] ∧ Able demo w64 [.tdst 2, .tsrc 0, .feat 0] ∧ Able demoBits w64 ([Opnd.twhole 2] ++ [.mem, .tdst 2]) ∧
    Able demoBits w64 ([] ++ [.mem, .tdst 2]) := by decide +kernel
theorem witness_BitsForATile : ∃ x lm s1, demoBits.stream demoBits.cur (demoBits.strand demoBits.cur).bitbuf (4 * (1 * 4)) = .bits x lm s1 ∧
    (s1.strand demoBits.cur).hold = (demoBits.strand demoBits.cur).hold ∧ x = 0x3CB5 ∧
    ((List.range 16).filter (fun r => decide (r < (demoBits.strand demoBits.cur).rows) && (demoBits.strand demoBits.cur).mask.getLsbD r)).length = 1 ∧
    min (demoBits.strand demoBits.cur).cols 64 = 4 := ⟨_, _, _, rfl, by decide +kernel, by decide +kernel, by decide +kernel, by decide +kernel⟩
theorem witness_NoBitsForATile : ∃ e, demo.stream demo.cur 0x800000 8 = .trap e := ⟨_, rfl⟩
theorem witness_BitStreamReads : Able demoBits w32 [.src 4, .src 5] ∧ Able demoBits w32 [.src 4] ∧ Able demoBits w32 [] ∧
    Able demoBits w32 [.mem, .dst 3, .src 4] ∧ Able demoBits w32 [.mem, .dst 3] := by decide +kernel
theorem witness_BitsOfAStream : ∃ x lm s1, demoBits.stream demoBits.cur (demoBits.strand demoBits.cur).bitbuf 12 = .bits x lm s1 ∧ x = 0xCB5 :=
  ⟨_, _, _, rfl, by decide +kernel⟩
/-- The first byte of that stream reads, and a last byte may fail where the first is read (witness of each clause). -/
theorem witness_BytesOfAStream : ∃ ps vs s1, demoBits.pieces demoBits.cur .load .all [(0x2000, 1)] = .ok ps ∧ demoBits.rowAway demoBits.cur ps = false ∧
    ps.any (fun z => demoBits.mustWait demoBits.cur false z.at_.flat 1) = false ∧
    (demoBits.useAll demoBits.cur ps).readRows demoBits.cur ps = .ok (vs, s1) ∧ vs = [0xB5] ∧
    (∃ e, s1.pieces demoBits.cur .load .all [(0x100000, 1)] = .error e) :=
  ⟨_, _, _, rfl, by decide +kernel, by decide +kernel, rfl, by decide +kernel, _, rfl⟩
theorem witness_MatrixInstructionsIssue : Able demo w64 ([Opnd.feat 0] ++ [.slot false, .tname 3, .mxq]) ∧
    (AMap.get MxaSlot.empty (demo.live 0).slots 0).loaded = false ∧ Able demo w64 (([Opnd.feat 1] ++ []) ++ [] ++ [.slot false, .tname 2, .tname 3, .mxq]) ∧
    (AMap.get MxaSlot.empty (demoMx.live 0).slots 0).loaded = true ∧ mxPair (AMap.get MxaSlot.empty (demoMx.live 0).slots 0).ty .bf16 = true ∧
    mxPair (AMap.get MxaSlot.empty (demoMx.live 0).slots 0).ty .f16 = false ∧
    Able demoMx w64 (([] ++ []) ++ [Opnd.tname 5] ++ [.slot false, .tname 2, .tname 3, .mxq]) ∧ Able demoMx w64 [.slot false, .tname 2, .mxq] ∧
    Able demoMx w64 [.slot false, .mxq] := by decide +kernel
theorem witness_MatrixArrayRuns : ((demoMx.live 0).queue[0]?).isSome = true ∧ mxaMayStart (demoMx.live 0).queue 0 = true ∧
    mxaMayFinish (demoMxOn.live 0).queue 0 = true ∧
    ((demoMx.live 0).queue.getD 0 (demo.mxaOp ⟨0, 0⟩ .clr false .i64 0)).d = some 2 ∧
    ((demoMxHot.live 0).held.map (·.flags)) = [fNV] ∧ (demoMxHot.live 0).perr = [] := by decide +kernel
theorem witness_MatrixWait : Able demo w32 [] ∧ (demo.core 0).st = .active ∧ (demo.live 0).queue = [] ∧ (demoMx.live 0).queue.length = 1 ∧
    ((demoWait .mwait).strand ⟨0, 0⟩).wait = some (demoW .mwait) ∧ (demoW .mwait).obj = BitVec.ofNat 64 (0 : BitVec 2).toNat ∧
    ((demoHeld fNX (some (0x100, 0, 16))).live 0).held[0]? = some (aHeld fNX (some (0x100, 0, 16))) ∧ Able (demoHeld fNX none) w32 [] ∧
    ((demoHeld fNX none).core 0).st = .active ∧ fNX &&& ((aHeld fNX none).fctl >>> 4).setWidth 5 ≠ 0 ∧
    fUF &&& ((aHeld fUF none).fctl >>> 4).setWidth 5 = 0 := by decide +kernel
theorem witness_PostingToAQueue : let demoQ := joined demoQ
    ∃ q x ps vs s1 r pa sy, demoQ.descAt demoQ.cur .atomic 0x8040 = .ok (q, x) ∧
    demoQ.pieces demoQ.cur .load .tile [(0x8080, 64)] = .ok ps ∧ demoQ.rowAway demoQ.cur ps = false ∧
    ps.any (fun p => demoQ.mustWait demoQ.cur false p.at_.flat p.n) = false ∧ demoQ.mustWait demoQ.cur true q 64 = false ∧
    (demoQ.useAll demoQ.cur ps).readRows demoQ.cur ps = .ok (vs, s1) ∧ demoQ.qFieldsBad q = false ∧ demoQ.relBusy demoQ.cur .all .package = false ∧
    demoQ.pieces demoQ.cur .store .tile [(0x8140, 64)] = .ok [r] ∧ r.at_ = .hbm pa sy ∧ r.n = 64 ∧ q + 64 ≤ pa ∧ r.x.claim = false ∧
    x.claim = false ∧ vs = [0] ∧ q % 64 = 0 ∧ pa % 64 = 0 ∧ demoQ.descEcc demoQ.cur .atomic 0x8040 q = none ∧
    demoQ.readsBusy demoQ.cur = false ∧ demoQ.cut demoQ.cur (.hbm q true) = false ∧ demoQ.cut demoQ.cur r.at_ = false := by
  refine ⟨_, _, _, _, _, _, _, _, rfl, rfl, ?_, ?_, ?_, rfl, ?_, ?_, rfl, rfl, rfl, ?_, ?_, ?_, ?_, ?_, ?_, ?_, ?_, ?_, ?_⟩ <;> decide +kernel
theorem witness_QueuePostAndWait : demoQ.reg demoQ.cur 10 = 0x8040 ∧ demoQ.reg demoQ.cur 11 = 0x8080 ∧ Able demoQ w32 [.mem, .dst 3, .src 10, .src 11] ∧
    demoQ.read 0x8040 8 = 5 ∧ demoQ.read 0x8048 8 = 2 ∧ demoQ.read 0x8068 8 = 4 ∧ Able demoQ w32 [.mem, .dst 3, .src 5, .src 11] ∧
    ((demoWait .qwait).strand ⟨0, 0⟩).wait = some (demoW .qwait) ∧ demoQ.isQueue 0x8040 = true ∧ demoQ.net = [] ∧ demoQ.takeCut demoQ.cur .all = false ∧ demoCut.takeCut demo.cur .all = true ∧
    (demoQ.queue 0x8040).published.contains 3 = false ∧ (demoQ.queue 0x8040).taken.contains 3 = false := by decide +kernel
theorem witness_InformationReads : Able demo w32 [.dst 3] ∧ Able demo w32 [.dst 3, .status 0x26] ∧ (demo.strand demo.cur).job = none ∧ Able demoSys w32 [.sys, .dst 3, .src 0] ∧ Able demoWorn w32 [.sys, .dst 3, .src 5] ∧
    demoWorn.inAllot 0 1 = true ∧ demoWorn.resident 0 1 = true ∧ PErr.status 0 0x15 ∈ (demoWorn.live 1).perr ∧ (demoWorn.reg demoWorn.cur 5).toNat = 1 ∧ demoPair.inAllot 0 1 = true ∧ demoPair.resident 0 1 = false ∧
    (demoSys.ctxRec 0).alive = true ∧ demoSys.ctxPart 0 = demoSys.ctxPart (demoSys.ctxOf 0) ∧ demoSys.inAllot 0 0 = true ∧ demoSys.resident 0 0 = true ∧
    demoSys.inAllot 0 1 = false ∧ Able demoSys w32 [.sys, .dst 3, .src 5] ∧ (demoSys.ctxRec 4).alive = false ∧
    (demoJob.strand demoJob.cur).job = some (0, 0) ∧ Able demoJob w32 [.dst 3] := by decide +kernel
theorem witness_StatusOfAQueue : ∃ q x, (joined demoQ).descAt demoQ.cur .load 0x8040 = .ok (q, x) ∧ demoQ.reg demoQ.cur 10 = 0x8040 ∧
    Able (joined demoQ) w64 [.mem, .dst 3, .src 10, .src 0] ∧ demoQ.read (q + 0x30) 8 / 2 ^ 16 % 2 ^ 16 = 0 ∧
    demoQ.mustWait demoQ.cur false q 64 = false ∧ (joined demoQ).cut demoQ.cur (.hbm q true) = false ∧ demoQ.descEcc demoQ.cur .load 0x8040 q = none := by
  refine ⟨_, _, rfl, ?_, ?_, ?_, ?_, ?_, ?_⟩ <;> decide +kernel
theorem witness_SuperstepsOfADomain : Able demoJob w32 [] ∧ (demoJob.strand ⟨0, 0⟩).job = some (0, 0) ∧ (demoJob.strand ⟨0, 0⟩).phase.inPhase = false ∧
    demoJob.neverResident ⟨0, 0⟩ 1 = false ∧ demoJob.blockUp ⟨0, 0⟩ 1 = true ∧ Able demoJob w32 [.mem, .src 0, .status 0x24] ∧ Able demoJob w32 [.mem, .status 0x24] ∧
    demoJob.relBusy ⟨0, 0⟩ .all (.rect ((demoJob.strand ⟨0, 0⟩).domain.toNat % 2 ^ 32)) = false ∧ (demoPhase.strand ⟨0, 0⟩).phase.inPhase = true ∧
    Able demoPhase w32 [.mem, .status 0x24] ∧ demoLeave.takeCut ⟨0, 0⟩ .all = false := by decide +kernel
theorem witness_StepWithoutAMap : demoJob.readMap ⟨0, 0⟩ 0 = .ok 0 ∧ demoJob.mustWait ⟨0, 0⟩ false 0 0 = false := ⟨rfl, by decide +kernel⟩
theorem witness_PhaseEnds : demoEnd.domain 0 1 (0, 0) 1 = some (demoDomain none) ∧ (demoDomain none).tc = none ∧
    demoEnd.allMembers 0 1 ((demoEnd.kernel 0).blockGroup 1 0 0) (fun m => m.phase.past 1 1) = true ∧
    demoEnd.rowsOut 0 ((demoEnd.kernel 0).block 1 ((demoEnd.kernel 0).blockGroup 1 0 0)) = false := by decide +kernel
theorem witness_StrandLeavesAPhase : (demoLeave.strand ⟨0, 0⟩).wait = some (demoW .sstep) ∧ (demoLeave.core 0).st = .active ∧
    demoLeave.domain 0 (demoLeave.strand ⟨0, 0⟩).phase.level ((demoLeave.kernel 0).blockAt (demoLeave.strand ⟨0, 0⟩).phase.level 0)
      (AMap.get 0 (demoLeave.strand ⟨0, 0⟩).phase.counts (demoLeave.strand ⟨0, 0⟩).phase.level) = some (demoDomain (some 0)) := by decide +kernel
theorem witness_TimedSends : Able demoPhase w32 [.mem, .tsrc 1, .src 8, .status 0x24, .status 0x13] ∧ (demoPhase.reg ⟨0, 0⟩ 8).toNat % 2 ^ 18 % 64 = 0 ∧
    (demoPhase.strand ⟨0, 0⟩).phase.inPhase = true ∧ mapGrants (demoPhase.strand ⟨0, 0⟩).phase.map 0 = true ∧
    mapDest (demoPhase.strand ⟨0, 0⟩).phase.map 0 = 0 ∧ inRect ((demoPhase.strand ⟨0, 0⟩).domain.toNat % 2 ^ 32) 0 = true ∧
    demoPhase.inAllot (demoPhase.ctxOf 0) 0 = true ∧ demoPhase.time.toNat < (demoPhase.strand ⟨0, 0⟩).phase.slotStart 0 ∧
    (demoPhase.strand ⟨0, 0⟩).phase.slotStart 0 = 64 ∧ (demoPhase.strand ⟨0, 0⟩).phase.slotStart 1 = 68 ∧
    (demoPkt .row false false).pkt 0 = some (aPkt .row false false) ∧ (demoPkt .row false false).isActive 0 0 = true ∧
    (demoPkt .row false false).storeBad (aPkt .row false false) = false ∧ (demoPkt .row false false).carried (aPkt .row false false) = true ∧
    (demoPkt .row false false).rowTurn (aPkt .row false false) = true ∧
    (demoPkt .row false false).blocked (aPkt .row false false) false = false := by decide +kernel
theorem witness_RowWaitsForItsSlot : (demoRow.strand ⟨0, 0⟩).wait = some (demoW .tsend) ∧ (demoRow.core 0).st = .active ∧
    (demoRow.strand ⟨0, 0⟩).phase.tsRow = some (0, 0, 0x40) ∧ (demoRow.strand ⟨0, 0⟩).phase.slotStart 0 ≤ demoRow.time.toNat := by decide +kernel
theorem witness_KeyringInstructions : Able demoBare w32 [.src 4] ∧ Able demo w32 [.src 12] ∧ Able demo w32 [.dst 3, .src 12] ∧
    (demo.reg demo.cur 4).toNat / 2 ^ 13 % 8 ≠ 0 ∧ (demo.reg demo.cur 12).toNat = 0x0001_0101 ∧
    (⟨1, 1, 1, 0⟩ : Counts).le (demo.strand demo.cur).hold.counts = true ∧ demo.relWaits demo.cur ⟨1, 1, 1, 0⟩ = false ∧
    ((demo.tumble 0).live 0).evaluate 0 ⟨1, 1, 1, 0⟩ = 3 ∧ ((demoClaim.tumble 0).live 0).evaluate 0 ⟨1, 1, 1, 0⟩ = 0 ∧
    ((demoShort.tumble 0).live 0).evaluate 0 ⟨1, 1, 1, 0⟩ = 1 ∧ Able demo w32 [.dst 3] ∧
    (demoQueued.live 0).kqueue = [⟨0, ⟨1, 1, 1, 0⟩⟩] ∧ (demoQueued.live 0).limbo = [] ∧ (demoQueued.live 0).evaluate 0 ⟨1, 1, 1, 0⟩ = 0 ∧
    (demoQueued.strand ⟨0, 0⟩).wait = some (demoW .kacq) ∧ (demoQueued.core 0).st = .active ∧
    ((demoQueued.live 0).kqueue.map (·.strand)).Nodup := by decide +kernel
theorem witness_GrantsAreSafe : (demoClaim.live 0).evaluate 0 ⟨1, 1, 1, 0⟩ = 0 ∧ ((demoClaim.live 0).taken .reg).Nodup ∧
    ((demoClaim.live 0).free .reg).take 1 = [7] ∧ ((demoClaim.live 0).free .lmg).take 1 = [0x2F] := by decide +kernel
theorem witness_BarrierInstructions : let demoBar := joined demoBar
    ∃ o s1, demoBar.barObj demoBar.cur 0x8040 = .obj o s1 ∧ demoBar.reg demoBar.cur 10 = 0x8040 ∧
    demoBar.relBusy demoBar.cur (.object o.flat) .package = false ∧ (s1.readW o.flat).toNat = 2 ^ 48 * 7 + 2 ^ 46 + 2 ^ 45 + 2 ∧
    (s1.publish demoBar.cur (.object o.flat) .package).readW o.flat = s1.readW o.flat ∧ demoBar.readsBusy demoBar.cur = false ∧
    demoBar.takeCut demoBar.cur (.object o.flat) = false := by
  refine ⟨_, _, rfl, ?_, ?_, ?_, ?_, ?_, ?_⟩ <;> decide +kernel
theorem witness_BarrierOperands : Able demoBar w32 [.mem, .src 10, .src 5] ∧ Able demoBar w32 [.dst 3, .scope 0, .mem, .src 10] ∧
    Able demoBar w32 [.dst 3, .src 5, .scope 0, .mem, .src 10] ∧ Able demoBar w32 [.src 5, .scope 0, .mem, .src 10] ∧
    Able demoBar w32 [.dst 3, .mem, .src 10] ∧ (demoBar.reg demoBar.cur 5).toNat % 64 ≠ 0 ∧
    ((demoAsleep demoBar .barrier).strand ⟨0, 0⟩).wait = some (demoW .barrier) ∧ demoBar.barAway (demoBar.ctxOf 0) (demoW .barrier).flat = false ∧
    demoBar.drooping 0 = false ∧ demoBar.takeCut ⟨0, 0⟩ (.ranges []) = false ∧
    demoCut.takeCut demo.cur (.object 0x8040) = true ∧ demoCut.takeCut demo.cur (.ranges [(0x8000, 64, 0x8040)]) = true ∧
    demoBar.eccCause 0 (demoW .barrier).flat 16 = none := by decide +kernel
theorem witness_TransferElements : fIsNan (fmtOf .bf16) 0x7FC0 = true ∧ fIsNan (fmtOf .bf16) 0x4040 = false ∧ fIsInf (fmtOf .bf16) 0x4040 = false ∧
    (List.replicate 16 0x4040).length = 16 ∧ (0x4040 : Nat) < 2 ^ 16 ∧ (List.replicate 32 0x40C0).length = 32 ∧
    readF (fmtOf .bf16) 0 0x40C0 = .fin false 192 (-5) false ∧ readF (fmtOf .bf16) 0 0 = .zero false ∧
    (mxQuantise (fmtOf .e4m3) 0 ((List.replicate 32 0x40C0).map (readF (fmtOf .bf16) 0))).1 = 0x79 ∧
    (mxQuantise (fmtOf .e4m3) 0 ((List.replicate 32 0x40C0).map (readF (fmtOf .bf16) 0))).2.1.headD 0 = 0x7C := by decide +kernel
theorem witness_TransfersRun : ∃ sr dr, demoXf.readLrec demoXf.cur 0x100 = .ok sr ∧ demoXf.readLrec demoXf.cur 0x140 = .ok dr ∧
    demoXf.lrecBusy demoXf.cur 0x100 = false ∧ demoXf.lrecBusy demoXf.cur 0x140 = false ∧ lrecTrap sr 0x100 = none ∧ lrecTrap dr 0x140 = none ∧ xformOk 0 0 (LRec.of sr) (LRec.of dr) = true ∧
    xformOk 2 0 (LRec.of sr) (LRec.of dr) = false ∧ demoXf.reg demoXf.cur 13 = 0x100 ∧ demoXf.reg demoXf.cur 14 = 0x140 ∧
    demoXf.reg demoXf.cur 10 = 0x8040 ∧ demoXf.xferRec 0 0 = none ∧ lrecTrap 0 0 = some .illop ∧
    Able demoXf w32 [.mem, .src 13, .src 14] ∧ Able demoXf w32 [.mem, .src 13, .src 14, .src 10] := by
  refine ⟨_, _, rfl, rfl, ?_⟩
  decide +kernel
theorem witness_TransferRecords : (∀ k, k < 4 → demoFull.xferRec 0 k ≠ none) ∧ (demoXfQ.core 0).st = .active ∧
    demoXfQ.xferRec 0 1 = some (aXfer false 1) ∧ demoXfQ.xferRec 0 0 = none ∧ demoXfQ.xferRec 0 2 = none ∧ demoXfQ.xferRec 0 3 = none ∧
    (demoXfOn.core 0).st = .active ∧ demoXfOn.xferRec 0 1 = some (aXfer true 1) ∧ (demoXfOn.runXfer 0 1 (aXfer true 1) none).2.2 = none ∧
    (demoXfBad.core 0).st = .active ∧ demoXfBad.xferRec 0 1 = some (aXfer true 1) := by decide +kernel
theorem witness_TransferCompletes : ∃ t, (demoXfOn.runXfer 0 1 (aXfer true 1) none).1.engArrive 0
    (demoXfOn.runXfer 0 1 (aXfer true 1) none).2.1 = .arrived t := ⟨_, if_pos (by decide +kernel)⟩
theorem witness_TransferFaults : (demoXfBad.runXfer 0 1 (aXfer true 1) none).2.2 = some (.fault ⟨5, 6, 0, 0x1000_0000_0000_801F, 0x8001⟩) := by decide +kernel
theorem witness_TransferReadsAgain : demoXfStale.xferRec 0 1 = some { aXfer true 1 with fault := some ⟨4, 5, 0, 0, 0⟩, stale := true } ∧
    lmPhys (demoXfStale.engHold 0 (aXfer true 1)) 0x100 = some 0x100 ∧ lmPhys (demoXfStale.engHold 0 (aXfer true 1)) 0x140 = some 0x140 ∧
    demoXfStale.eccCause 0 (lmFlat 0 0x100) 64 = none ∧ demoXfStale.eccCause 0 (lmFlat 0 0x140) 64 = none ∧
    ({ demoXfStale with poisoned := [lmFlat 0 0x100] } : State).eccCause 0 (lmFlat 0 0x100) 64 = some 31 := by decide +kernel
theorem witness_TransferWrites : demoXf.meshCarries 0 0 (stackEntry (stackOf 0x9000)) = true ∧ frameAddr (demoXf.shadowWord xfPage.slot) = 0x9000 ∧
    demoXf.leafFor 0 0x8000 = .ok xfPage ∧ demoXf.engCause 0 (aXfer true 1) xfPage 0x8000 = none ∧
    pteTT (demoXf.shadowWord xfPage.slot) = 1 ∧ pteSw (demoXf.shadowWord xfPage.slot) = true := ⟨by decide +kernel, by decide +kernel, rfl, by decide +kernel, by decide +kernel, by decide +kernel⟩
theorem witness_PublishingPages : ∃ ps vs s1 pages, demoLatch.pieces demoLatch.cur .load .all [(0x8000, 8)] = .ok ps ∧
    demoLatch.rowAway demoLatch.cur ps = false ∧ ps.any (fun p => demoLatch.mustWait demoLatch.cur false p.at_.flat 8) = false ∧
    (demoLatch.useAll demoLatch.cur ps).readRows demoLatch.cur ps = .ok (vs, s1) ∧
    s1.latchSet demoLatch.cur (vs.map (BitVec.ofNat 64)) = .ok pages ∧ pages.any (s1.live 0).xferOn = false ∧
    s1.relBusy demoLatch.cur .bound .package = false := by
  obtain ⟨ps, h1, h⟩ := ok_of (x := demoLatch.pieces demoLatch.cur .load .all [(0x8000, 8)])
    (p := fun ps => !demoLatch.rowAway demoLatch.cur ps && !ps.any (fun p => demoLatch.mustWait demoLatch.cur false p.at_.flat 8) &&
      okIs ((demoLatch.useAll demoLatch.cur ps).readRows demoLatch.cur ps) (fun r =>
        okIs (r.2.latchSet demoLatch.cur (r.1.map (BitVec.ofNat 64))) (fun pages =>
          !pages.any (r.2.live 0).xferOn && !r.2.relBusy demoLatch.cur .bound .package))) (by decide +kernel)
  simp only [Bool.and_eq_true, Bool.not_eq_true'] at h
  obtain ⟨⟨ha, hb⟩, hc⟩ := h
  obtain ⟨⟨vs, s1⟩, h2, h3⟩ := ok_of hc
  obtain ⟨pages, h4, h5⟩ := ok_of h3
  simp only [Bool.and_eq_true, Bool.not_eq_true'] at h5
  exact ⟨ps, vs, s1, pages, h1, ha, hb, h2, h4, h5.1, h5.2⟩
theorem witness_ProbesAndDrops : Able demoLatch w32 [.mem, .src 15, .src 3, .scope 0] ∧ demoLatch.reg demoLatch.cur 15 = 0x8000 ∧
    (demoLatch.reg demoLatch.cur 3).toNat = 1 ∧ Able demo w32 [.dst 3, .src 10] ∧ replicas 1 = 4 ∧
    Able demoSys w32 ([.sys, .src 10, .src 3] ++ if (0 : Reg) = 0 then [] else [.src 0]) ∧
    demoSys.entsBusy (fun _ => true) = false := by decide +kernel
theorem witness_WalkStops : walk demo (demo.ctxOf demo.cur.core) (demo.reg demo.cur 10) = .stop 2 4 0 ∧
    walk demoWalk (demoWalk.ctxOf demoWalk.cur.core) (demoWalk.reg demoWalk.cur 10) = .leaf 0x1000_0000_0000_801F 0 0x14040 0 := by decide +kernel
theorem witness_MessagesAreSentAndReceived : Able demoPair w32 (.mem :: .src 0 :: srcRange 4 8) ∧ demoPair.inAllot 0 0 = true ∧
    Able demoPair w32 (.mem :: .src 8 :: srcRange 4 8) ∧ demoPair.inAllot 0 (256 * 0x20 + 0x40) = false ∧
    Able demoPair w32 (.mem :: .src 7 :: srcRange 4 8) ∧ Able demoPair w32 (.mem :: .src 12 :: srcRange 4 8) ∧
    Able demoMsg w32 (.dst 3 :: dstRange 4 8) ∧ (demoMsg.live 0).inbox = [⟨5, sourceWord 0 1, [9]⟩] ∧ (demoMsg.live 0).receivers = [] ∧
    demoMsg.sqPending 0 0 true = [] ∧ (demo.live 0).inbox.length ≤ (demo.live 0).receivers.length ∧
    Able demo w32 (.dst 3 :: dstRange 4 8) ∧ ((demoAsleep demoMsg .inbox).strand ⟨0, 0⟩).wait = some (demoW .inbox) ∧
    (∀ e ∈ ((demoAsleep demoMsg .inbox).live 0).receivers, (demoW .inbox).gen.toNat ≤ e.2) ∧
    (demoSpilled.live 0).inbox = [⟨5, sourceWord 0 1, [9]⟩] ∧ demoSpilled.sqPending 0 0 true = [0] ∧
    Able demoFar w32 (.mem :: .src 4 :: srcRange 4 8) ∧ (demoFar.reg demoFar.cur 4).toNat / 2 ^ 32 % 2 ^ 16 = 1 ∧ demoFar.modUp 1 = false := by decide +kernel
theorem witness_AnOfferArrives : (demoPkt .msg false false).pkt 0 = some (aPkt .msg false false) ∧
    (demoPkt .msg false false).carried (aPkt .msg false false) = true ∧ demoFullBox.carried (aPkt .msg false false) = true ∧
    demoAwayMsg.carried (aPkt .msg false false) = true ∧ demoRefuse.carried (aFar .msg) = false ∧
    (demoPkt .msg false false).msgCtx (aPkt .msg false false) = some 0 ∧ (demoPkt .msg false false).isActive 0 0 = true ∧
    (demoPkt .msg false false).sqPending 0 0 true = [] ∧ ((demoPkt .msg false false).live 0).inbox.length < 16 ∧
    16 ≤ (demoFullBox.live 0).inbox.length ∧ demoFullBox.sqPending 0 0 true = [] ∧ demoAwayMsg.isActive 0 0 = false ∧
    demoAwayMsg.sqAbsent 0 = false ∧ demoAwayMsg.sqFull 0 = false ∧
    (demoRefuse.strand ⟨0, 0⟩).wait = some (demoW .msend) ∧ demoRefuse.home (aFar .msg) = true ∧ demoRefuse.pkt 0 = some (aFar .msg) := by decide +kernel
theorem witness_OffersWaitInOrder : (demoPkt .msg false false).msgAhead (aPkt .msg false false) = false ∧
    demoFullBox.msgAhead (aPkt .msg false false) = false ∧ demoAwayMsg.msgAhead (aPkt .msg false false) = false ∧
    ({ demoPkt .msg false false with net := [(0, aPkt .msg false false), (1, { aPkt .msg false false with hseq := 1 })] } : State).msgAhead
      (aPkt .msg false false) = true := by decide +kernel
theorem witness_AnAnswerReturns : ∃ s : State, s.carried (aFarMsg) = true ∧ s.wayUp 1 = true ∧ s.pkt 0 = some aFarMsg :=
  ⟨{ demoFarAmo with net := [(0, aFarMsg)] }.setCtl (moduleBlock + 0x108) 0x8000_0001_0000_0000, by decide +kernel⟩
theorem witness_ARefusalTraps : ∃ u, (demoRefuse.msgWithdraw ⟨0, 0⟩ 0).takeTrap ⟨0, 0⟩ { code := .access, cause := 10 } 0x2000 0x2004 = .next u := ⟨_, rfl⟩
theorem witness_HingeSetsOpen : Able demoHrec w64 [.feat 4, .mem, .src 15, .src 13] ∧ demoHrec.reg demoHrec.cur 15 = 0x8000 ∧
    demoHrec.reg demoHrec.cur 13 = 0x100 ∧ demoHrec.readW 0x60000 = 0x8000_0000_0000_0001 ∧ (demoHrec.descW 0 0x18).toNat = 0x60000 ∧
    (demoHrec.hslot 0 1).state = .closed ∧ (demoHrec.live 0).hfind 0 = none ∧ lmPhys (demoHrec.strand ⟨0, 0⟩).hold 0x100 = some 0x100 ∧
    demoHrec.eccCause 0 (lmFlat 0 0x100) 64 = none ∧ partBad (BitVec.ofNat 512 (demoHrec.read (lmFlat 0 0x100) 64)) (0, 0) = false ∧
    Able demo w64 [.feat 4, .mem, .tsrc 1, .src 3] ∧ Able demo w64 (.feat 4 :: .mem :: (ldtWhole demo 1 ++ [.tdst 1, .src 3])) ∧
    Able demo w64 [.feat 4, .mem, .dst 3, .src 3] ∧ (demo.live 0).hfind 0 = none ∧ (demoHinge.hslot 0 1).state = .opened ∧
    partBad 0x8000_0000 (0, 0) = true ∧ (demo.readW 0x60000) = 0 := by decide +kernel
theorem witness_HingeBlockAccess : (demoHinge.live demoHinge.cur.core).hfind 0 = some 1 ∧ Able demoHinge w64 [.feat 4, .mem, .tsrc 1, .src 3] ∧
    (demoHinge.hslot 0 1).n = 16 ∧ (demoHinge.reg demoHinge.cur 3).toNat = 0 ∧ (demoHinge.reg demoHinge.cur 4).toNat % 16 = 0 ∧
    16 ≤ (demoHinge.reg demoHinge.cur 4).toNat ∧ demoHinge.hHeld (lmFlat 0 0x8000) = 0 ∧ demoHalf.hHeld (lmFlat 0 0x8000) = 1 ∧
    Able demoHinge w64 (.feat 4 :: .mem :: (ldtWhole demoHinge 1 ++ [.tdst 1, .src 3])) ∧ (demoHinge.strand ⟨0, 0⟩).fctl = 0 ∧
    Able demoHinge w64 [.feat 4, .mem, .dst 3] ∧ Able demoHinge w64 [.feat 4, .mem] ∧ (demoHinge.hslot 0 1).state = .opened ∧
    (demoPaused.hslot 0 1).state = .paused ∧ (demoPaused.live 0).hfind 0 = some 1 ∧
    (demoLeaving.hslot 0 1).state = .leaving ∧ (demoLeaving.live 0).hfind 0 = some 1 ∧
    (∀ j, j < 4 → (demoHinge.strand ⟨0, j⟩).wait.map (·.kind) ≠ some .hinge) ∧
    demoHinge.blockErr 0 (demoHinge.hslot 0 1) [(0, 0x80 + 24 * 16)] = none ∧
    ({ demoHinge with badUnits := [lmFlat 0 0x8020, lmFlat 0 0x8000] } : State).blockErr 0 (demoHinge.hslot 0 1) [(0x20, 8)] = some (27, 0x8020) := by decide +kernel
theorem witness_HingePushes : (demoHinge.live 0).hfind 0 = some 1 ∧ Able demoHinge w64 [.feat 4, .mem, .dst 3, .src 15] ∧
    partIndex (demoHinge.hslot 0 1).part (0, 256 * 0x20 + 0) = none ∧ partIndex (demoHinge.hslot 0 1).part (0, 1) = some 0 ∧
    (demoHinge.reg demoHinge.cur 15).toNat = 1 ∧ (demoHinge.reg demoHinge.cur 15).toNat / 2 ^ 8 % 2 ^ 7 = 0 ∧
    (demoHinge.hslot 0 1).state = .opened ∧ (demoHinge.readW (lmFlat 0 0x8000)).toNat = 0x100 ∧ (demoPaused.hslot 0 1).state = .paused ∧
    demoHinge.hHeld (lmFlat 0 0x8000) = 0 ∧ demoHalf.hHeld (lmFlat 0 0x8000) = 1 ∧ (demoHinge.hslot 0 1).background = true ∧
    (demoHinge.core 0).st = .active ∧ (demoHinge.hslot 0 1).nextTick.toNat ≤ demoHinge.time.toNat ∧
    ((List.range 16).map (fun j => ((demoHinge.hslot 0 1).nextPart.toNat + j) % 16)).find? (partUsed (demoHinge.hslot 0 1).part) = some 0 ∧
    partName (demoHinge.hslot 0 1).part 0 = (0, 1) ∧ (demoHinge.blockErr 0 (demoHinge.hslot 0 1) [(0, 0x80 + 24 * 16)]).isNone = true := by decide +kernel
theorem witness_HingeReceipt : (demoArrive 3).pkt 0 = some (aPush 3) ∧ (demoArrive 3).msgCtx (aPush 3) = some 0 ∧ (demoArrive 3).isActive 0 0 = true ∧
    (aPush 3).landed = false ∧ (demoArrive 3).carried (aPush 3) = true ∧ (demoArrive 3).resident 0 0 = true ∧ ((demoArrive 3).core 0).fenced = false ∧ ((demoArrive 3).live 0).hfind 0 = some 1 ∧
    partIndex ((demoArrive 3).hslot 0 1).part (0, 1) = some 0 ∧ ((demoArrive 3).hslot 0 1).knows 0 3 = false ∧
    (aPush 3).vals.length = ((demoArrive 3).hslot 0 1).n ∧ (aPush 3).expo = ((demoArrive 3).hslot 0 1).e ∧
    (demoArrive 3).time.toNat ≤ (aPush 3).expiry.toNat ∧
    (((demoArrive 3).hslot 0 1).mark 0 3).knows 0 3 = true ∧
    (demoArrive 3).blockErr 0 ((demoArrive 3).hslot 0 1) [(0, 0x80 + 24 * ((demoArrive 3).hslot 0 1).n)] = none ∧
    ({ demoArrive 3 with badUnits := [lmFlat 0 0x8020] } : State).blockErr 0 ((demoArrive 3).hslot 0 1) [(0, 0x48)] = some (27, 0x8000) ∧
    (aPush 3).held = false := by decide +kernel
theorem witness_HingeSettlement : (demoSettle 1).pkt 0 = some (aReply 1) ∧ (demoSettle 1).home (aReply 1) = true ∧ (demoSettle 1).drooping 0 = false ∧ demoLeft.drooping 0 = false ∧
    ((demoSettle 1).live 0).hfind 0 = some 1 ∧ (demoSettle 1).halfUsed (lmFlat 0 0x8000) 0 = true ∧
    (demoSettle 1).halfSeq (lmFlat 0 0x8000) 0 = (aReply 1).hseq ∧ 0 < (demoSettle 1).hHeld (lmFlat 0 0x8000) ∧
    ((demoSettle 1).hslot 0 1).state ≠ .leaving ∧ (∀ j, j < 4 → ((demoSettle 1).strand ⟨0, j⟩).wait.map (·.kind) ≠ some .hinge) ∧
    (demoLeft.pkt 0) = some (aReply 0) ∧ demoLeft.home (aReply 0) = true ∧ (demoLeft.live 0).hfind 0 = some 1 ∧
    (demoLeft.hslot 0 1).state = .leaving ∧
    (demoLeft.strand ⟨0, 0⟩).wait = some { demoW .hinge with flat := 2, gen := 1 } ∧ (demoLeft.strand ⟨0, 0⟩).birth = (aReply 0).birth ∧
    (demoSettle 1).blockErr 0 ((demoSettle 1).hslot 0 1) [(0, 0x80 + 24 * ((demoSettle 1).hslot 0 1).n)] = none ∧ (aReply 1).held = false := by decide +kernel
theorem witness_WitnessReductions : Able demo w64 ([.feat 5, .tdst 2, .tdst 3, .twhole 3] ++ [(0 : Tile), 1].map .tsrc) ∧
    Able demo w64 ([.feat 5, .tdst 2, .tdst 3, .twhole 3] ++ [(0 : Tile), 1, 4].map .tsrc) ∧
    (demo.strand demo.cur).poolTile 2 ≠ (demo.strand demo.cur).poolTile 3 ∧ (demo.strand demo.cur).fctl = 0 ∧
    [5, 0xFFFFFFFE, 5].map (fun x => (witIn .i32 0 x).1) = [5, 0xFFFFFFFE, 5] ∧
    [5, 0xFFFFFFFE, 5].map (witKey .i32) = [(5 : Int), -2, 5].map some ∧
    (witDecide 0 .f32 false 0x10000 [0x7F800001, 0]).2.2 = fNV := by decide +kernel
theorem witness_WitnessRoutes : Able demoTag w64 ([.feat 5] ++ [(2 : Tile)].map .tdst ++ [.tsrc 0, .tsrc 3] ++ []) ∧
    (demoTag.strand demoTag.cur).poolTile 3 = some 3 ∧ ((demoTag.live 0).tag 3).toNat = 0x801E ∧
    ([(2 : Tile)].map (demoTag.strand demoTag.cur).poolTile).Nodup ∧ (demoTag.strand demoTag.cur).rows = 16 ∧ ((demo.live 0).tag 3).toNat = 0 ∧
    some 3 ∉ [(2 : Tile)].map (demoTag.strand demoTag.cur).poolTile ∧
    Able demoTag w64 [.feat 5, .mem, .tsrc 3, .src 5] ∧ (demoTag.reg demoTag.cur 5).toNat % 64 ≠ 0 ∧
    Able demoTag w64 [.feat 5, .mem, .tdst 3, .twhole 3, .src 5] := by decide +kernel
theorem witness_WitnessRecords : ∃ ps qs vs s1, demoMap.pieces demoMap.cur .store .tile ((List.range 17).map (fun n => (0x4000 + BitVec.ofNat 64 (64 * n), 64))) = .ok ps ∧
    ps.any (fun p => demoMap.pieceWaits demoMap.cur p 64) = false ∧
    demoMap.pieces demoMap.cur .load .tile ((List.range 17).map (fun n => (0x4000 + BitVec.ofNat 64 (64 * n), 64))) = .ok qs ∧
    demoMap.rowAway demoMap.cur qs = false ∧ qs.any (fun p => demoMap.mustWait demoMap.cur false p.at_.flat 64) = false ∧
    (demoMap.useAll demoMap.cur qs).readRows demoMap.cur qs = .ok (vs, s1) := by
  obtain ⟨ps, h1, ha⟩ := ok_of (x := demoMap.pieces demoMap.cur .store .tile ((List.range 17).map (fun n => (0x4000 + BitVec.ofNat 64 (64 * n), 64))))
    (p := fun ps => !ps.any (fun p => demoMap.pieceWaits demoMap.cur p 64)) (by decide +kernel)
  obtain ⟨qs, h2, hb⟩ := ok_of (x := demoMap.pieces demoMap.cur .load .tile ((List.range 17).map (fun n => (0x4000 + BitVec.ofNat 64 (64 * n), 64))))
    (p := fun qs => !demoMap.rowAway demoMap.cur qs && !qs.any (fun p => demoMap.mustWait demoMap.cur false p.at_.flat 64) &&
      okIs ((demoMap.useAll demoMap.cur qs).readRows demoMap.cur qs) (fun _ => true)) (by decide +kernel)
  simp only [Bool.and_eq_true, Bool.not_eq_true'] at ha hb
  obtain ⟨⟨vs, s1⟩, h3, -⟩ := ok_of hb.2
  exact ⟨ps, qs, vs, s1, h1, ha, h2, hb.1.1, hb.1.2, h3⟩
theorem witness_ContextsOnCores : demoDesc.descOk 0x60000 = true ∧ (demoDesc.readW 0x60000).toNat % 2 ^ 16 = 5 ∧ demo.descOk 0x60001 = false ∧
    (demoAway.ctxRec 0).alive = true ∧ (demoAway.ctxRec 0).running = false ∧ (demo.ctxRec 0).running = true ∧
    demo.scans.lookup (clusterOf 0) = none ∧ demo.resident 0 0 = true ∧ (demo.core 0).st = .active ∧ demo.resident 3 0 = false ∧
    (demoSaving.core 0).ctx = some 0 ∧ (demoSaving.core 0).st = .saving ∧ demoSaving.drained 0 = true ∧ (demoSaving.live 0).xferList = [] ∧
    inHbm (demoSaving.slotBase 0 0) 0x40000 = true ∧ (demoSaving.ctxRec 0).desc + 4 ≤ demoSaving.slotBase 0 0 ∧
    demoAway.mayRestore 0 0 = true ∧ demoAway.planWaits 0 = false ∧ (demoAway.core 0).asked = [] ∧ (demoSaving.core 0).asked = [] ∧
    demoTaken.coreSt 0 0 = .away ∧ (demoTaken.ctxRec 0).alive = true ∧ demoTaken.inAllot 0 0 = true ∧ (demoTaken.core 0).ctx ≠ none ∧
    demo.coreSt 0 0 ≠ .away ∧ demoScan.scans.lookup (clusterOf 0) ≠ none ∧
    (demoRestoring.core 0).ctx = some 0 ∧ (demoRestoring.core 0).st = .restoring ∧ (∀ n, n < 4 → (demoRestoring.strand ⟨0, n⟩).phase.tsRow = none) := by
  decide +kernel
theorem witness_SaveSlots : demoAway.slotOk (demoAway.slotBase 0 0) (demoAway.readSlot (demoAway.slotBase 0 0) CoreCtx.fresh) = true ∧
    demoBadSlot.slotOk (demoBadSlot.slotBase 0 0) (demoBadSlot.readSlot (demoBadSlot.slotBase 0 0) CoreCtx.fresh) = false := by decide +kernel
theorem witness_Plans : demoPlans.planTail 0 = 0 ∧ (1 : Word).toNat ≤ demoPlans.planHead 0 + demoPlans.planCap 0 ∧ demoPlans.planOk 0 0 = true ∧
    demoPlans.planHead 0 + demoPlans.planCap 0 < (17 : Word).toNat ∧
    (demoPlan demo 0xFFFF0000).plans.find? (fun q => q.die == 0 && q.n == 0) = some ⟨0, 0, false, []⟩ ∧
    (demoPlan demo 0xFFFF0000).readW 0x70000 ≤ (demoPlan demo 0xFFFF0000).time ∧ inRect ((demoPlan demo 0xFFFF0000).planRect 0 0) 0 = true ∧
    ((demoPlan demo 0xFFFF0000).readW 0x70008).toNat = 0xFFFF0000 ∧ (demoPlan demoAway 0xFFFF).mayRestore 0 0 = true ∧
    ((demoPlan demoAway 0xFFFF).readW 0x70008).toNat = 0xFFFF ∧
    ({ demoPlan demo 0 with time := 0 } : State).readW 0x70000 = 0 ∧ (0 : Word) < (1 : Word) := by decide +kernel
theorem witness_QueuesOfADie : demoHostQ.isQueue 0x8040 = true ∧ demoHostQ.qHost 0x8040 = true ∧ demoHostQ.qDie 0x8040 = 0 ∧ demoHostQ.qState 0x8040 = 0 ∧
    demoHostQ.qWrite 0x8040 = 5 ∧ demoHostQ.qRead 0x8040 = 2 ∧ demoHostQ.qLogcap 0x8040 = 4 ∧ demoFaultQ.isQueue 0x8040 = true ∧
    demoFaultQ.qState 0x8040 = 2 ∧ demoFaultQ.untaken 0x8040 = false ∧ (demo.ctl (dieBlock 0)).toNat = 50000 ∧ demo.tslice = [] ∧
    demo.time.toNat % 50000 = 0 ∧ (AMap.get Patience.none_ demo.patience 0).seen = none ∧ demoHostQ.nextWaiter 0 = some 0x8040 ∧
    demo.queuesIn 0 1 = [] ∧ demoMapped.queuesIn 0 1 = [0x8040] ∧ demoMapped.qState 0x8040 = 1 ∧ demoMapped.considered 0x8040 = [2] ∧
    demoMapped.candidate 0x8040 = .bad 2 ⟨2, 0x8080, 4, 0⟩ ∧ demoQ.considered 0x8040 = [] ∧
    ({ demo with time := 1 } : State).time.toNat % 50000 ≠ 0 := by decide +kernel
theorem witness_QueueStands : walk demoSyncWalk 0 0x8000 = .leaf 0x1000_0000_0000_803F 0 0x14040 0 ∧
    leafTarget 0x1000_0000_0000_803F 0 = .hbm 0x8000 true ∧ (demoSyncWalk.ctxRec 0).alive = true ∧ demoSyncWalk.allot 0 0 ≠ 0xFFFFFFFF ∧
    demoSyncWalk.isQueue 0x8000 = false ∧ demoSyncWalk.queues = [] := by decide +kernel
theorem witness_APacketIsTaken : demoTake.qState 0x8040 = 1 ∧ (match demoTake.candidate 0x8040 with | .take k => k.kseq == 2 | _ => false) = true ∧
    demoTake.ringReady 0 = false ∧ demoTakeRing.ringReady 0 = true ∧ demoTakeRing.qState 0x8040 = 1 ∧
    demoTakeRing.candidate 0x8040 = .bad 2 ⟨2, 0x8080, 4, 0⟩ := by decide +kernel
theorem witness_GroupsOfAKernel : (AMap.get Patience.none_ demoPlace.patience 0).holding = none ∧ (demoPlace.kernel 0).turnOf 0 = true ∧
    ((demoPlace.kernel 0).group 0).state = .pending ∧ demoPlace.mayPlace 0 0 0 = true ∧ demoPlace.mayPlace 0 1 0 = false ∧
    (demoPlace.kernel 0).turnOf 1 = false ∧ ((demoStart.kernel 0).group 0).state = .starting ∧ (demoStart.kernel 0).state = .pending ∧
    (((demoStart.kernel 0).group 0).members.map (·.who)).Nodup ∧ (∀ m ∈ ((demoStart.kernel 0).group 0).members, m.who.strand < 4) ∧
    (demoStart.kernel 0).ordered = false ∧ (∀ m ∈ ((demoStart.kernel 0).group 0).members, demoStart.isActive 0 m.who.core = true ∧ demoStart.takeCut m.who .all = false) ∧
    (∃ m ∈ ((demoAwayStart.kernel 0).group 0).members, demoAwayStart.isActive 0 m.who.core = false) ∧
    demoStart2.cut ⟨0, 1⟩ (homeOf 0x2000) = true ∧ demoStart2.takeCut ⟨0, 1⟩ .all = true := by decide +kernel
theorem witness_KernelsEndAndReplay : ((demoKernelOf .draining).kernel 0).state = .draining ∧ (demoKernelOf .draining).busy 0 = false ∧
    ((demoKernelOf .draining).kernel 0).cores.any (fun c => (demoKernelOf .draining).anyCut ⟨c, 0⟩ (fun _ _ => true)) = false ∧
    (demoKernelOf .replaying).anyCtxState (fun l => l.held.any (fun h => h.err.isSome && ofKernel 0 h.job)) = false ∧
    (demoKernelOf .running).hasKernel 1 = false ∧ ((demoErrAfter .faulted).kernel 0).state = .faulted ∧ (demoErrAfter .faulted).ringReady 0 = true ∧
    ((demoErrAfter .faulted).faultWhy 0 (.held 0 0)).isSome = true ∧
    (demoErrAfter .replaying).anyCtxState (fun l => l.held.any (fun h => h.err.isSome && ofKernel 0 h.job)) = true ∧
    (demoKernelOf .running).hasKernel 0 = true ∧ (demoRing.kernel 0).state = .running ∧ demoRing.ringReady 0 = true ∧
    (demoRing.faultWhy 0 (.memory 0x2040)).isSome = true ∧ (demoKernelOf .running).ringReady 0 = false ∧
    ((demoKernelOf .faulted).kernel 0).state = .faulted ∧ ((demoKernelOf .replaying).kernel 0).state = .replaying ∧
    ((demoKernelOf .confirmed).kernel 0).state = .confirmed ∧ (demoKernelOf .confirmed).hasKernel 0 = true := by decide +kernel
theorem witness_BarriersOfAStoppedKernel : (⟨0x8040, some 7⟩ : BarRec) ∈ (demoNamed.kernel 0).bars ∧ (∀ x ∈ (demoNamed.kernel 0).bars, x.flat % 64 = 0) ∧
    demoNamed.hasKernel 0 = true ∧ demoNamed.barAway (demoNamed.kernel 0).ctx 0x8040 = false ∧ isLm 0x8040 = false ∧
    (demoNamed.bar0 0x8040).toNat / 2 ^ 46 % 4 = 1 ∧ (demoNamed.bar0 0x8040).toNat / 2 ^ 16 % 2 ^ 16 < (demoNamed.bar0 0x8040).toNat % 2 ^ 16 ∧
    (demoNamed.bar0 0x8040).toNat / 2 ^ 48 = 7 ∧ (4 * (demoNamed.kernel 0).die + 3) < 2 ^ 15 := by decide +kernel
theorem witness_LinksChangeState : (demo.link 0).state = .down ∧ demo.links.lookup 0 = none ∧ isMeshKey 0 = true ∧ isPortKey 0 = false ∧
    ((linkAt demo 0 .training 0).link 0).state = .training ∧ ((linkAt demo 0 .training 2).link 0).fails = 2 ∧
    ((linkAt demo 0 .up 0).link 0).state = .up ∧ ((linkAt demo 0 .retraining 0).link 0).state = .retraining ∧
    isPortKey (portKey 3) = true ∧ portKey 3 = portKey (3 : BitVec 5).toNat ∧
    ((linkAt demo (portKey 3) .training 0).link (portKey 3)).state = .training ∧
    ((linkAt demo (portKey 3) .up 8).link (portKey 3)).state = .up ∧ ((linkAt demo (portKey 3) .disabled 0).link (portKey 3)).state = .disabled ∧
    ((linkAt demo (portKey 3) .absent 0).link (portKey 3)).state = .absent ∧
    ((linkAt demo (portKey 3) .down 0).link (portKey 3)).since = some 0 ∧
    0 + 100000000 ≤ ({ linkAt demo (portKey 3) .down 0 with time := 100000000 } : State).time.toNat ∧
    ((linkAt demo (portKey 3) .retraining 0).link (portKey 3)).state = .retraining ∧ demo.time.toNat < 0 + 100000000 := by decide +kernel
theorem witness_PacketsChangePorts : (demoPorts.link (portKey 3)).state = .disabled ∧ (demoPorts.link (portKey 4)).state = .up ∧
    demoPorts.route 1 = some 0x8001_0001_0000_0083 ∧ demoPorts.portsTo 1 = [3, 4] ∧ { aFar .load with port := some 3, ports := [3, 4] }.port = some 3 ∧ isMeshKey 300000 = false ∧ isPortKey 300000 = false ∧
    ((linkAt demo (portKey 3) .down 0).setLink (portKey 3) { ((linkAt demo (portKey 3) .down 0).link (portKey 3)) with since := none }).released = false ∧
    ({ demo with released := true }.setLink (portKey 3) { (demo.link 0) with state := .down, since := none }).released = true ∧ ([3, 4] : List Nat)[0]? = some 3 ∧ ([3, 4] : List Nat)[(0 + 1) % 2]? = some 4 ∧
    (List.range ((0x8001_0001_0000_0083 : Word).toNat / 2 ^ 48 % 4 + 1)).map (fun j => (0x8001_0001_0000_0083 : Word).toNat / 2 ^ (5 * j) % 2 ^ 5) = [3, 4] := by
  decide +kernel
theorem witness_LinkInformation : Able demo w32 [.dst 3, .src 4] ∧ (demo.reg demo.cur 4).toNat / 2 ^ 62 = 0 ∧
    meshKey (256 * 0x40 + 0) 0 = some (4 * 0x4000) ∧ meshKey 255 0 = none ∧ (demoFar.reg demoFar.cur 4).toNat / 2 ^ 62 = 2 ∧
    Able demoFar w32 [.dst 3, .src 4] ∧ (demoFar.reg demoFar.cur 5).toNat / 2 ^ 62 = 1 ∧ Able demoFar w32 [.dst 3, .src 5] ∧
    (demoFar.reg demoFar.cur 6).toNat / 2 ^ 62 = 3 ∧ Able demoFar w32 [.dst 3, .src 6] := by decide +kernel
theorem witness_ModulesOfThePod : (demo.modEnt 1).state = .unknown ∧ demo.timeSource = demo.module_.toNat ∧
    demo.time.toNat < demo.lastFlit.toNat + 100000 ∧ ({ demo with time := 100000 } : State).lastFlit.toNat + 100000 ≤ 100000 ∧
    ((linkAt demo (portKey 3) .up 0).link (portKey 3)).state = .up ∧ demo.route 1 = none ∧
    (demo.setCtl (moduleBlock + 0x108) 0x8000_0001_0000_0003).route 1 = some 0x8000_0001_0000_0003 ∧
    (demoMod .joining).modEnt 1 = ⟨.joining, 4, true, some 0⟩ ∧ (demoMod .up).timeSource ≠ (demoMod .up).module_.toNat ∧
    (demoMod .up).routeUp 1 = true ∧ ((demoMod .failed).modEnt 1).state = .failed ∧
    ((demoMod .up).modEnt 1).downAt = some 0 ∧ (demoMod .up).net = [] ∧
    0 + ((demoMod .up).ctl moduleBlock).toNat ≤ ({ demoMod .up with time := 10000000 } : State).time.toNat ∧
    (demoMod .up).time.toNat < 0 + ((demoMod .up).ctl moduleBlock).toNat := by decide +kernel
theorem witness_TrafficOfAFailedModule : demoLost.net.filter (fun x => x.2.module_ == some 1 && x.2.smodule == demoLost.module_.toNat) = [(0, aFar .load)] ∧
    demoLost.pkt 0 = some (aFar .load) ∧ (demoLost.modEnt 1).state = .up ∧ ((aFar .load).landed && (aFar .load).refused) = false ∧ (aFar .near).kind = .near ∧ demo.ringReady (dieOf (aFar .near).src.core) = false ∧
    (ringOf demo).ringReady (dieOf (aFar .near).src.core) = true ∧ demo.hostSees (moduleBlock + 0x108) = false ∧ (aFar (.amo 0 .i64)).ret = false ∧
    ({ demo with hostWindows := [(BitVec.ofNat 64 moduleBlock, 0x1000)] } : State).hostSees (moduleBlock + 0x108) = true := by decide +kernel
theorem witness_MessagesToAFailedModule : demoLostMsg.pkt 0 = some (aFar .msg) ∧ demoLostMsg.home (aFar .msg) = true ∧ (demoLostMsg.waitOf ⟨0, 0⟩ [.msend]).isSome = true ∧
    (demoLostMsg.modEnt 1).state = .up ∧ ((aFar .msg).landed && (aFar .msg).refused) = false ∧
    demoLostMsg.net.filter (fun x => x.2.module_ == some 1 && x.2.smodule == demoLostMsg.module_.toNat) = [(0, aFar .msg)] := by decide +kernel
theorem witness_FaultRingsAndScans : (ringOf demo).ringHead 0 = 0 ∧ (ringOf demo).ringTail 0 = 0 ∧ (0 : Nat) < (5 : Word).toNat ∧
    (64 : Word).toNat = 2 ^ 6 ∧ AMap.get [] demo.reports 0 = [] ∧ demo.ringTail 0 = demo.ringHead 0 + demo.ringCap 0 ∧
    (ringOf demo).ringTail 0 ≠ (ringOf demo).ringHead 0 + (ringOf demo).ringCap 0 ∧
    inHbm ((ringOf demo).ringBase 0) (128 * (ringOf demo).ringCap 0) = true ∧
    ((ringOf demo).report 0 { kind := 11 }).ringHead 0 ≠ ((ringOf demo).report 0 { kind := 11 }).ringTail 0 ∧
    demoWornLm.badUnits.filter (fun x => isLm x && lmCore x == 0) = [lmFlat 0 0x40] ∧ demo.badUnits = [] ∧
    demo.feature2.getLsbD 7 = true ∧ demo.scanns 0 = 31250 ∧ demo.time.toNat = 31250 * (256 * 0 + 0) ∧ demo.scans.lookup (dieCluster 0 0) = none ∧
    (∀ c ∈ clusterCores (dieCluster 0 0), (demo.core c).st ≠ .restoring) ∧ (demo.core 0).st = .active ∧ 0 ∈ clusterCores (dieCluster 0 0) ∧
    demoScan.scans.lookup (dieCluster 0 0) = some ⟨0, []⟩ ∧ (0 : Nat) < demoScan.time.toNat ∧ demo.time.toNat ≤ (0 : Nat) ∧ (∀ c ∈ clusterCores (dieCluster 0 0), (demoScan.core c).ctx = none) ∧
    demoScan.plans = [] ∧ demoScan.kernels = [] ∧ (∀ c ∈ clusterCores (dieCluster 0 0), (demoScan.core c).fenced = false ∧ (demoScan.core c).asked = []) ∧
    ({ demo with scans := [(dieCluster 0 0, ⟨0, []⟩)] } : State).scans.lookup (dieCluster 0 0) = some ⟨0, []⟩ := by decide +kernel
theorem witness_ScansWithKernels : demoScanRan.scans.lookup (dieCluster 0 0) = some ⟨0, []⟩ ∧ (0 : Nat) < demoScanRan.time.toNat ∧
    (∀ c ∈ clusterCores (dieCluster 0 0), (demoScanRan.core c).ctx = none ∧ (demoScanRan.core c).asked = []) ∧ demoScanRan.plans = [] ∧
    demoScanRan.kernels.length = 1 ∧ ((demoScan.setCore 0 { demoScan.core 0 with fenced := true }).core (0 / 2 ^ 16)).fenced = true := by decide +kernel
theorem witness_KernelsAndScans : ((demoRan .retired).kernel 0).state = .retired ∧ ((demoRan .retired).kernel 0).retiredAt.toNat < 5 ∧
    (∀ c ∈ ((demoRan .retired).kernel 0).unscanned, c = 0) ∧ (∃ c ∈ ((demoRan .retired).kernel 0).unscanned, c ≠ 1) ∧
    (demoRan .retired).kernels = [(0, (demoRan .retired).kernel 0)] ∧ clusterCore 0 0 ∈ ((demoRan .retired).kernel 0).sinceScan ∧
    ((demoRan .retired).kernel 0).die ≠ dieOf (clusterCore 0 0) ∧ (demoRan .retired).ringReady ((demoRan .retired).kernel 0).die = true ∧
    (demoRan .running).inWindow ((demoRan .running).kernel 0) = true ∧ (demoRan .running).ringReady 0 = true ∧ demo.ringReady 0 = false ∧
    (demoRan .retired).inWindow ((demoRan .retired).kernel 0) = false ∧ clusterCore 0 1 ∉ ((demoRan .retired).kernel 0).sinceScan ∧
    ((linkAt (ringOf demo) 0 .failed 3).link 0).state = .failed ∧ (linkAt (ringOf demo) 0 .failed 3).kernels = [] ∧
    (linkAt (ringOf demo) 0 .failed 3).ringReady (dieOf (meshEnds 0).1) = true ∧ demo.ringReady (dieOf (meshEnds 0).1) = false := by decide +kernel
theorem witness_ClockAndVoltage : isCluster 0 = true ∧ (demo.powerOf 0).stepEnd = none ∧ demo.vnow 0 = 850 ∧
    (∀ k, k < 16 → demo.vnow 0 ≠ 840 ∧ (850 : Word).toNat = demo.vnow 0) ∧ demo.ctl (clusterBlock 0 + 0x20) = 0 ∧ 700 % 10 = 0 ∧
    (demoRamp.powerOf 0).stepEnd = some 1000 ∧ demoRamp.vnow 0 = 660 ∧ (demoRamp.powerOf 0).volts = 700 ∧ (demoRamp.powerOf 0).next = none ∧
    1000 ≤ ({ demoRamp with time := 1000 } : State).time.toNat ∧ demoRamp.time.toNat < 1000 ∧
    (∀ k, k < 16 → (demoRamp.ctl (clusterBlock 0 + 0x20)).toNat / 2 ^ (4 * k) % 16 + 1 = 2) ∧
    demoCool.vnow 0 ≠ (700 : Word).toNat ∧ (demoCool.powerOf 0).stepEnd = none ∧
    (demo.powerOf 0).droop = none ∧ (demoRamp.powerOf 0).droop = some 0 ∧ isCore 0 = true ∧ demoRamp.time.toNat < 0 + 64 ∧
    (0 : Word).toNat + 64 ≤ ({ demoRamp with time := 64 } : State).time.toNat ∧ (demoReplaced.powerOf 0).next = some (0x1111_1111_1111_1111, 660) ∧
    demoReplaced.vnow 0 = 660 ∧ (demoReplaced.powerOf 0).stepEnd = some 1000 ∧
    (∀ k, k < 16 → (0x1111_1111_1111_1111 : Word).toNat / 2 ^ (4 * k) % 16 + 1 = 2) ∧
    (∀ k, k < 16 → (demoRamp.divNow 0).toNat / 2 ^ (4 * k) % 16 + 1 = 2 ∧ (demoRamp.powerOf 0).divs.toNat / 2 ^ (4 * k) % 16 + 1 = 2) := by decide +kernel
theorem witness_BootAndRegisters : demo.booted = false ∧ demo.recovery = false ∧ demoUp.booted = true ∧ 1 ∈ demoUp.partsUp ∧ 2 ∉ demoUp.partsUp ∧
    (List.replicate 32 (0 : Byte)).length = 32 ∧ (∃ e ∈ demo.contexts, e.2.alive = true ∧ ∃ c ∈ e.2.cores, c.2 ≠ .away) ∧
    demoUp.contexts = [] ∧ (0xF0 : Word).toNat < 2 ^ 8 ∧ (BitVec.ofNat 64 (dieBlock 0 + 8)).toNat = dieBlock (0 : BitVec 3).toNat + 8 ∧
    (BitVec.ofNat 64 (dieBlock 0 + 0x1010)).toNat = dieBlock (0 : BitVec 3).toNat + (0x1000 + 0x10 * 1) ∧
    (BitVec.ofNat 64 (dieBlock 7 + 0x200018)).toNat = dieBlock (7 : BitVec 3).toNat + 0x200018 ∧
    (BitVec.ofNat 64 moduleBlock).toNat = moduleBlock ∧ demoUp.hostSees (dieBlock 0 + 8) = false ∧
    ({ demoUp with hostWindows := [(BitVec.ofNat 64 (dieBlock 0), 0x1000)] } : State).hostSees (dieBlock 0 + 8) = true ∧ (demo.core 0).st = .active ∧ (demo.live 0).energy.toNat + 15 < 2 ^ 48 ∧
    (demo.core 1).st ≠ .active ∧ ({ demo with time := 1 } : State).overdue = none ∧ ({ demo with time := 1 } : State).overduePod = none ∧ demo.overdue ≠ none ∧
    ((linkAt demo (portKey 3) .down 0).links.lookup (portKey 3)).isSome = true ∧
    ({ linkAt demo (portKey 3) .down 0 with time := 100000000 } : State).overduePod = some (.train 3) ∧
    ({ demo with lock := true, time := 100000 } : State).overduePod = some .unlock ∧
    (demoMod .up).modules.lookup 1 = some ⟨.up, 4, true, some 0⟩ ∧ (match ({ demoMod .up with time := 10000000 } : State).overduePod with | some (.fail 1 _) => true | _ => false) = true ∧
    0 ∈ rectCores ((demoPlan demo 0xFFFF0000).planRect 0 0) ∧ (demoPlan demo 0xFFFF0000).planDue ⟨0, 0, false, []⟩ 0 = true ∧
    demo.tslice.lookup 0 = none ∧ (demo.ctl (dieBlock 0)).toNat = 50000 := by decide +kernel
theorem witness_MoviWritesItsImmediate : (Instr.movi w32 8 (-3)).wf = true ∧ encode (.movi w32 8 (-3)) = some [0xFFD00824] ∧
    (Instr.movi w64 8 (-3)).wf = true ∧ (Instr.movi w96 8 0x1234567).wf = true ∧ (Instr.movi w128 7 0x123456789ABCDEF0).wf = true ∧
    encode (.movi w128 7 0x123456789ABCDEF0) = some [0x00000727, 0, 0x9ABCDEF0, 0x12345678] ∧ Able demo w32 [.dst 8] ∧ Able demo w128 [.dst 7] ∧
    (demoBare.strand demoBare.cur).guard w32 = true ∧ (demoBare.live demoBare.cur.core).perr = [] ∧
    (demoBare.strand demoBare.cur).pendingReg 8 = false ∧ (demoBare.strand demoBare.cur).holds 20 = false := by decide +kernel
theorem witness_SelectByPredicate : (Instr.sel w32 1 true 3 4 5).wf = true ∧ (encode (.sel w32 1 true 3 4 5)).isSome = true ∧ Able demo w32 [.dst 4, .src 4, .src 5, .preds] ∧ (demoBare.strand demoBare.cur).guard w32 = true ∧
    (demoBare.live demoBare.cur.core).perr = [] ∧ (∀ r ∈ [(3 : Reg), 4, 20], (demoBare.strand demoBare.cur).pendingReg r = false) ∧
    (∃ r ∈ [(3 : Reg), 4, 20], (demoBare.strand demoBare.cur).holds r = false) := by decide +kernel
theorem witness_StepRunsDecoded : demo.candidates 0 = [0] ∧ demo.agenda = [] ∧ demo.cur.core = 0 ∧ demo.cur = ⟨0, 0⟩ ∧ demoAway.candidates demoAway.cur.core = [] ∧
    demoAway.due demoAway.cur.core = none ∧ demoAway.agenda = [] ∧ demoAway.overdue ≠ none ∧ ({ demoAway with time := 1 } : State).overdue = none ∧
    ({ demoAway with time := 1 } : State).overduePod = none ∧ ({ demoAway with time := 100001, lock := true } : State).overduePod = some .unlock ∧
    ({ demoAway with time := 100001, lock := true } : State).overdue = none ∧
    okIs (demo.translate demo.cur (demo.strand demo.cur).pc .fetch .all) (fun x => (demo.place demo.cur x.tgt).isSome) = true ∧
    demo.fetchCut ⟨0, 0⟩ (.hbm 0x2000 false) = true ∧ (joined demo).fetchCut ⟨0, 0⟩ (.hbm 0x2000 false) = false ∧ inHbm 0x2000 4 = true ∧
    demo.eccCause 0 0x2000 4 true = none ∧ (demo.strand demo.cur).icache = [] := by decide +kernel
theorem witness_AProgramRunsFromReset : ∃ t, step (State.reset.withFetchWord 32 0x60) = .next t := next_of (by decide +kernel)
theorem witness_AStepIsAnInstruction : step (demo.withFetchWord 32 0x04510300) =
    exec (.iAdd w32 .i64 3 4 (.reg 5)) ((demo.withFetchWord 32 0x04510300).setStrand ⟨0, 0⟩
      { (demo.withFetchWord 32 0x04510300).strand ⟨0, 0⟩ with icache := [(0x2000, [(0x04510300, false)])] }) := same_of (by decide +kernel)
theorem witness_DecodeUndoesEncode : (Instr.addImm ⟨1, 2, true⟩ .i32 3 4 (-5)).wf = true ∧
    encode (.addImm ⟨1, 2, true⟩ .i32 3 4 (-5)) = some [0x00010305, 0x5100FFFB] ∧
    decode [0x60, 0, 0, 0, 9] = some (.nop w32, [9]) := by decide +kernel
theorem witness_StepKeepsInv : Inv demo ∧ ∃ t, step (demo.withFetchWord 32 0x60) = .next t :=
  ⟨by show Memory.wf demo.mem; decide +kernel, next_of (by decide +kernel)⟩

end Sys2Proof.Tests
end

-- Proofs of the statements of spec/00_scope.md.
section
/-!
SUPPORT. Every instruction that has an encoding runs in one frame (R7, R48), and everything the machine does answers a next state (R9).
-/
namespace Sys2Proof.Machine

/-! ## Outcomes that are a next state -/

/-- A next state: neither a fault nor a refusal. -/
def Answers (o : Host.Outcome State Fault Refusal) : Prop := ∃ t, o = .next t

section
variable {s : State} {o a b : Host.Outcome State Fault Refusal}

@[simp] theorem answers_next : Answers (.next s) := ⟨s, rfl⟩
theorem Answers.ite {c : Prop} [Decidable c] (ha : Answers a) (hb : Answers b) : Answers (if c then a else b) := by
  split
  · exact ha
  · exact hb
@[simp] theorem answers_wakeAfter : Answers (wakeAfter o) ↔ Answers o := by
  cases o <;> simp [wakeAfter, Answers]
@[simp] theorem answers_issued {w : Who} : Answers (issued w o) ↔ Answers o := by
  cases o <;> simp [issued, Answers]
@[simp] theorem answers_takeTrap {w : Who} {t : Trap} {pc npc : Word} : Answers (s.takeTrap w t pc npc) := ⟨_, rfl⟩
@[simp] theorem answers_trapNow {w : Who} {t : Trap} {pc npc : Word} : Answers (s.trapNow w t pc npc) :=
  answers_issued.mpr answers_takeTrap
@[simp] theorem answers_lateTrap {w : Who} {l : PLoad} {t : Trap} : Answers (s.lateTrap w l t) := answers_takeTrap

theorem answers_andThen {k : State → Host.Outcome State Fault Refusal} (ho : Answers o) (hk : ∀ t, Answers (k t)) :
    Answers (andThen o k) := by
  obtain ⟨t, rfl⟩ := ho
  exact hk t
theorem answers_foldl_andThen {α : Type} {k : α → State → Host.Outcome State Fault Refusal} (hk : ∀ x t, Answers (k x t))
    (l : List α) (ho : Answers o) : Answers (l.foldl (fun o x => andThen o (k x)) o) := by
  induction l generalizing o with
  | nil => exact ho
  | cons x l ih => exact ih (answers_andThen ho (hk x))
end

theorem answers_runInstr (f : Form) (ops : List Opnd) (body : State → Who → Except Trap Ans) (s : State) :
    Answers (runInstr f ops body s) := by
  refine .ite answers_trapNow (.ite answers_next (.ite answers_next ?_))
  cases s.opTrap s.cur ops with
  | some t => exact answers_trapNow
  | none =>
    cases body s s.cur with
    | error t => exact answers_trapNow
    | ok a => cases a <;> exact answers_next

theorem answers_mwaitDone (s : State) (w : Who) (cover len : Nat) : Answers (s.mwaitDone w cover len) := by
  unfold State.mwaitDone
  cases s.collect w cover with
  | error t => exact answers_takeTrap
  | ok s1 => exact answers_next

/-! ## The frame of every instruction -/

/-- An outcome of an instruction of form f in s: that of the frame `runInstr`, with some operand checks and some body; or, where the
guard reads true, that of an mwait whose operations are over, which collects what they left at once (R200). -/
def Framed (f : Form) (s : State) (o : Host.Outcome State Fault Refusal) : Prop :=
  (∃ ops body, o = runInstr f ops body s) ∨
  ((s.strand s.cur).guard f = true ∧ ∃ cover, o = issued s.cur (s.mwaitDone s.cur cover (lenBytes f.len)))

theorem framed_runInstr (f : Form) (ops : List Opnd) (body : State → Who → Except Trap Ans) (s : State) :
    Framed f s (runInstr f ops body s) := .inl ⟨ops, body, rfl⟩

/-- A guard that reads false: the outcome only moves past, for 1 eu (R7). -/
theorem Framed.unguarded {f : Form} {s : State} {o : Host.Outcome State Fault Refusal} (h : Framed f s o)
    (hp : (s.live s.cur.core).perr = []) (hg : (s.strand s.cur).guard f = false) :
    o = .next (s.retire s.cur (lenBytes f.len) 1) := by
  rcases h with ⟨ops, body, rfl⟩ | ⟨hg', -⟩
  · exact runInstr_unguarded body hp hg
  · rw [hg] at hg'
    cases hg'
theorem Framed.answers {f : Form} {s : State} {o : Host.Outcome State Fault Refusal} (h : Framed f s o) : Answers o := by
  rcases h with ⟨ops, body, rfl⟩ | ⟨-, cover, rfl⟩
  · exact answers_runInstr ..
  · exact answers_issued.mpr (answers_mwaitDone ..)

/-- The immediate leaves length and guard as they are. -/
theorem withImm_form (r : Raw) (v : Imm) : (r.withImm v).form = r.form := by
  unfold Raw.withImm; split <;> rfl
theorem Framed.withImm {r : Raw} {v : Imm} {s : State} {o : Host.Outcome State Fault Refusal} (h : Framed r.form s o) :
    Framed (r.withImm v).form s o := by
  rw [withImm_form]; exact h

section
variable (f : Form) (ty : Ty) (s : State)

/-! The shared operations that the meanings call. -/

theorem framed_intOp (d a : Reg) (b : Src) (r : Word → Word → Int) : Framed f s (intOp f ty d a b r s) := framed_runInstr ..
theorem framed_unaryOp (d a : Reg) (r : Word → Word) : Framed f s (unaryOp f d a r s) := framed_runInstr ..
theorem framed_fpOp (ops : List Opnd) (d : Reg) (r : State → Who → Fmt → Word → Nat × FFlags) :
    Framed f s (fpOp f ty ops d r s) := framed_runInstr ..
theorem framed_fpArith (d a : Reg) (b : Src) (g : Nat → Num → Num → Num × FFlags) :
    Framed f s (fpArith f ty d a b g s) := framed_fpOp ..
theorem framed_tileOp (d : Tile) (ops : List Opnd) (g : State → Who → Rows × FFlags) : Framed f s (tileOp f d ops g s) :=
  framed_runInstr ..
theorem framed_eltOp (width : Nat) (d : Tile) (ops : List Opnd) (g : State → Who → Nat → Nat → Nat × FFlags) :
    Framed f s (eltOp f width d ops g s) := framed_tileOp ..
theorem framed_tile1 (fp : Bool) (d a : Tile) (g : Word → Nat → Nat × FFlags) : Framed f s (tile1 f ty fp d a g s) :=
  framed_eltOp ..
theorem framed_tile2 (fp : Bool) (d a b : Tile) (g : Word → Nat → Nat → Nat × FFlags) :
    Framed f s (tile2 f ty fp d a b g s) := framed_eltOp ..
theorem framed_tileSpecial (fn : Nat) (d a : Tile) : Framed f s (tileSpecial f fn ty d a s) := framed_tile1 ..
theorem framed_rowOp (d a : Tile) (ops : List Opnd) (g : Row → Row) : Framed f s (rowOp f d a ops g s) := by
  unfold rowOp; exact framed_tileOp ..
theorem framed_execTcvt (dty sty : Ty) (d a : Tile) (k : TcvtForm) : Framed f s (execTcvt f dty sty d a k s) := by
  cases k with
  | plain p =>
    show Framed f s (tcvtPlain f dty sty d a p.toNat s)
    unfold tcvtPlain
    exact framed_tileOp ..
  | enc b sc =>
    show Framed f s (tcvtEnc f dty sty d a b sc s)
    exact framed_runInstr ..
  | dec sc e =>
    show Framed f s (tcvtDec f dty sty d a sc e s)
    exact framed_runInstr ..
theorem framed_amo (op : Nat) (ord : Ord) (d a b e : Reg) : Framed f s (amo f op ord ty d a b e s) := by
  unfold amo; exact framed_runInstr ..
theorem framed_fence (a : Reg) (rel acq : Bool) (c : Cover) : Framed f s (fence f a rel acq c s) := framed_runInstr ..
theorem framed_barInstr (ops : List Opnd) (a : Reg) (rel : Option Reg) (acq check : Bool)
    (go : State → Who → BarObj → Except Trap Ans) : Framed f s (barInstr f ops a rel acq check s go) := framed_runInstr ..
theorem framed_hingeOp (id : BitVec 4) (ops : List Opnd) (go : State → Who → Nat → HSlot → Except Trap Ans) :
    Framed f s (hingeOp f id ops s go) := framed_runInstr ..
theorem framed_openSet (join : Bool) (id : BitVec 4) (slot : BitVec 2) (a b : Reg) :
    Framed f s (openSet f join id slot a b s) := framed_runInstr ..
theorem framed_wred (op : Nat) (all row : Bool) (km1 : Nat) (d wt : Tile) (srcs : List Tile) :
    Framed f s (wred f op ty all row km1 d wt srcs s) := framed_runInstr ..

/-! Instructions whose meaning names a part of its operands before it enters the frame. -/

theorem framed_execRet (a : Reg) : Framed f s (execRet f a s) := by
  unfold execRet; exact framed_runInstr ..
theorem framed_execMts (ssel : BitVec 6) (a : Reg) : Framed f s (execMts f ssel a s) := by
  unfold execMts; exact framed_runInstr ..
theorem framed_execPushm (a b : Reg) : Framed f s (execPushm f a b s) := by
  unfold execPushm; exact framed_runInstr ..
theorem framed_execPopm (a b : Reg) : Framed f s (execPopm f a b s) := by
  unfold execPopm; exact framed_runInstr ..
theorem framed_execRst (of_ : Bool) (n1 : BitVec 3) (d a : Reg) (path : Option (BitVec 2)) :
    Framed f s (execRst f of_ n1 d a path s) := by
  unfold execRst; exact framed_runInstr ..
theorem framed_execRld (n1 : BitVec 3) (d a : Reg) (path : Option (BitVec 2)) :
    Framed f s (execRld f n1 d a path s) := by
  unfold execRld; exact framed_runInstr ..
theorem framed_execBsgetT (d : Tile) (n : BitVec 8) : Framed f s (execBsgetT f ty d n s) := by
  unfold execBsgetT; exact framed_runInstr ..
theorem framed_execMldw (k : BitVec 4) (slot : Bool) (a : Tile) : Framed f s (execMldw f ty k slot a s) := by
  unfold execMldw; exact framed_runInstr ..
theorem framed_execMstrm (slot : Bool) (d a : Tile) (c : Option Tile) : Framed f s (execMstrm f ty slot d a c s) := by
  unfold execMstrm; exact framed_runInstr ..
theorem framed_execXfer (xf : BitVec 3) (bud : BitVec 2) (d a b : Reg) : Framed f s (execXfer f xf bud d a b s) := by
  unfold execXfer; exact framed_runInstr ..
theorem framed_execWadj (once : Bool) (gen : Option (BitVec 4)) (op : BitVec 3) (all row : Bool) (km1 : BitVec 3) (d g wt : Tile) :
    Framed f s (execWadj f ty once gen op all row km1 d g wt s) := by
  unfold execWadj; exact framed_runInstr ..
theorem framed_execTrowred (op : BitVec 2) (wide : Bool) (d a : Tile) : Framed f s (execTrowred f ty op wide d a s) := by
  unfold execTrowred; exact framed_tileOp ..
theorem framed_execTcolred (op : BitVec 2) (wide : Bool) (d a : Tile) : Framed f s (execTcolred f ty op wide d a s) := by
  unfold execTcolred; exact framed_tileOp ..
theorem framed_execTtrans (d a : Tile) (h : BitVec 8) : Framed f s (execTtrans f ty d a h s) := by
  unfold execTtrans; exact framed_tileOp ..

/-- mwait stands outside the frame only where its guard reads true and the operations it covers are over. -/
theorem framed_execMwait (cover : BitVec 2) : Framed f s (execMwait f cover s) := by
  by_cases h : ((s.strand s.cur).guard f && !s.mxaBusy s.cur cover.toNat &&
      !(f.pg != 0 && (s.live s.cur.core).perr.contains (.pred s.cur.strand))) = true
  · refine .inr ⟨?_, cover.toNat, if_pos h⟩
    simp only [Bool.and_eq_true] at h
    exact h.1.1
  · exact .inl ⟨_, _, if_neg h⟩

theorem framed_execKinfo (d a b : Reg) : Framed f s (execKinfo f d a b s) := by
  by_cases h : a = 0
  · exact .inl ⟨_, _, if_pos h⟩
  · exact .inl ⟨_, _, if_neg h⟩
end

/-- Every instruction that some encoding stands for runs in the frame, at the form of its encoding: the constructors are taken by the
shared operation their meaning calls; those left over call `runInstr` themselves, or are steps, which have no encoding. -/
theorem exec_framed {i : Instr} {r : Raw} (h : i.toRaw = some r) (s : State) : Framed r.form s (exec i s) := by
  delta exec
  cases i with
  | iAdd | iSub | iMul | iMulh | iDiv | iRem | iAnd | iOr | iXor | iAndn | iShl | iShr | iSra | iRol | iMin | iMax =>
    cases h; exact framed_intOp ..
  | addImm | andImm | orImm | xorImm | shlImm | shrImm | sraImm | rolImm => cases h; exact .withImm (framed_intOp ..)
  | movi | lea | ld | st | ldt | stt | ldtPost | sttPost => cases h; exact .withImm (framed_runInstr ..)
  | mov | clz | ctz | popc | cvt => cases h; exact framed_unaryOp ..
  | fadd | fsub | fmul | fdiv => cases h; exact framed_fpArith ..
  | fsqrt | fmin | fmax | fclass | frnd | fma | fcvt => cases h; exact framed_fpOp ..
  | tadd | tsub | tmul | tmin | tmax | tand | tor | txor | tcmp => cases h; exact framed_tile2 ..
  | tmov | tabs | tneg => cases h; exact framed_tile1 ..
  | texp2 | tlog2 | trcp | trsqrt | ttanh => cases h; exact framed_tileSpecial ..
  | tshl | tshr | tfma | tsel | tzero | tiota | tbcast | tperm | tlut => cases h; exact framed_eltOp ..
  | tset => cases h; exact framed_tileOp ..
  | trowred => cases h; exact framed_execTrowred ..
  | tcolred => cases h; exact framed_execTcolred ..
  | ttrans => cases h; exact framed_execTtrans ..
  | ret => cases h; exact framed_execRet ..
  | mts => cases h; exact framed_execMts ..
  | pushm => cases h; exact framed_execPushm ..
  | popm => cases h; exact framed_execPopm ..
  | rst => cases h; exact framed_execRst ..
  | rld => cases h; exact framed_execRld ..
  | bsgetT => cases h; exact framed_execBsgetT ..
  | mldw => cases h; exact framed_execMldw ..
  | mstrm => cases h; exact framed_execMstrm ..
  | xfer => cases h; exact framed_execXfer ..
  | wadj => cases h; exact framed_execWadj ..
  | tcvt => cases h; exact framed_execTcvt ..
  | tplanes | tunplanes => cases h; exact framed_rowOp ..
  | amoAdd | amoMin | amoMax | amoAnd | amoOr | amoXor | amoSwap | amoCas | amoFadd | amoXacc => cases h; exact framed_amo ..
  | fenceAcq | fenceRel | fenceFull | fenceAcqAll | fenceRelAll | fenceFullAll => cases h; exact framed_fence ..
  | mwait => cases h; exact framed_execMwait ..
  | kinfo => cases h; exact framed_execKinfo ..
  | barr | bwait | barw | bpoison | bquery => cases h; exact framed_barInstr ..
  | hopen | hjoin => cases h; exact framed_openSet ..
  | hload | hadd | hread | hpush | hleave | hmass | hmassSet | hdisag | hpause | hresume => cases h; exact framed_hingeOp ..
  | wredMax | wredMin | wredClamp | wredMed | wredSsum => cases h; exact framed_wred ..
  | _ => cases h <;> exact framed_runInstr ..

/-- Settles O13: every instruction of an encoding runs in the frame, whose guard stands before every check but that of the
guard's own predicate for a parity error. -/
theorem falseGuardOnlyMovesOn : Obligations.FalseGuardOnlyMovesOn := by
  intro i r s hi hp hg
  exact (exec_framed hi s).unguarded hp hg

/-! ## The steps of the table

First the operations that several steps share, then the steps. -/

section
variable (s : State)

theorem answers_ackArrive (id : Nat) : Answers (s.ackArrive id) := by
  unfold State.ackArrive
  cases s.pkt id with
  | none => exact answers_next
  | some p =>
    refine .ite answers_next (.ite answers_next (.ite answers_next ?_))
    cases p.kind
    case load | nearLoad | amo =>
      dsimp only
      split
      · exact answers_next
      · split
        · exact answers_next
        · exact .ite answers_next (.ite (.ite answers_lateTrap answers_next) answers_next)
    all_goals exact answers_next
theorem answers_deferred (w : Who) (n : Nat) : Answers (s.deferred w n) := by
  unfold State.deferred
  dsimp only
  split
  · exact answers_next
  · split
    · exact answers_next
    · exact .ite answers_next answers_lateTrap
theorem answers_msgRefuse (id cause : Nat) : Answers (s.msgRefuse id cause) := by
  unfold State.msgRefuse
  cases s.pkt id with
  | none => exact answers_next
  | some p =>
    refine .ite answers_next ?_
    dsimp only
    split
    · exact answers_next
    · exact answers_takeTrap
theorem answers_resumeRow (w : Who) : Answers (s.resumeRow w) := by
  unfold State.resumeRow
  dsimp only
  split
  · exact .ite answers_next answers_takeTrap
  · exact answers_next
theorem answers_endRestore (core : Nat) : Answers (s.endRestore core) := by
  unfold State.endRestore
  cases (s.core core).ctx with
  | none => exact answers_next
  | some ctx =>
    exact .ite answers_next (answers_andThen
      (answers_foldl_andThen (fun n t => answers_resumeRow t ⟨core, n⟩) _ answers_next) fun t => answers_next)
theorem answers_planOut (core out : Nat) (hpause : Bool) : Answers (s.planOut core out hpause) := by
  unfold State.planOut
  exact .ite answers_next (.ite (answers_andThen (answers_endRestore s core) fun t => .ite answers_next answers_next)
    (.ite answers_next answers_next))
theorem answers_planAct (p : Plan) (core : Nat) : Answers (s.planAct p core) := by
  unfold State.planAct
  exact answers_andThen (.ite answers_next (answers_andThen (answers_planOut ..) fun t => answers_next))
    fun t => .ite answers_next answers_next
theorem answers_settlePkt (cc id : Nat) : Answers (s.settlePkt cc id) := by
  unfold State.settlePkt
  cases s.pkt id with
  | none => exact answers_next
  | some p =>
    dsimp only
    cases p.kind
    case msg => exact answers_msgRefuse ..
    all_goals exact answers_next
theorem answers_settlePkts (cc : Nat) (ids : List Nat) : Answers (s.settlePkts cc ids) := by
  induction ids generalizing s with
  | nil => exact answers_next
  | cons id ids ih =>
    obtain ⟨t, ht⟩ := answers_settlePkt s cc id
    unfold State.settlePkts
    rw [ht]
    exact ih t
theorem answers_failModule (m cc : Nat) : Answers (s.failModule m cc) := answers_settlePkts ..
theorem answers_unlessDead (pkt : Nat) {go : Host.Outcome State Fault Refusal} (h : Answers go) :
    Answers (s.unlessDead pkt go) := by
  unfold State.unlessDead
  cases s.pkt pkt with
  | none => exact h
  | some p => exact .ite (answers_wakeAfter.mpr (answers_settlePkt ..)) h
theorem answers_scanSave (cl core : Nat) : Answers (s.scanSave cl core) := by
  unfold State.scanSave
  exact .ite (answers_andThen (answers_endRestore s core) fun t => answers_next) answers_next
theorem answers_scanBack (saved : List (Nat × Nat)) (core : Nat) : Answers (s.scanBack saved core) := by
  unfold State.scanBack
  exact answers_andThen (answers_foldl_andThen (fun (p : Plan) t => answers_planAct t { p with late := true } core) _ answers_next)
    fun t => answers_next

/-! Steps that first look up what they act on: a wait of a strand, a packet, a record. One case for each thing the look-up finds. -/

theorem answers_execPauseEnd (core strand : Nat) : Answers (execPauseEnd core strand s) := by
  unfold execPauseEnd
  dsimp only
  split <;> exact answers_next
theorem answers_execTimedWaitDeadline (core strand : Nat) : Answers (execTimedWaitDeadline core strand s) := by
  unfold execTimedWaitDeadline
  dsimp only
  split <;> exact answers_next
theorem answers_execBarrierWaiterLeave (core strand : Nat) : Answers (execBarrierWaiterLeave core strand s) := by
  unfold execBarrierWaiterLeave
  dsimp only
  split
  · exact answers_next
  · refine .ite answers_next ?_
    split
    · exact answers_wakeAfter.mpr answers_takeTrap
    · refine .ite (answers_wakeAfter.mpr answers_takeTrap) ?_
      split
      · exact answers_next
      · exact .ite answers_next answers_next
theorem answers_execMrecvWaitEnd (core strand : Nat) : Answers (execMrecvWaitEnd core strand s) := by
  unfold execMrecvWaitEnd
  dsimp only
  split
  · exact answers_next
  · exact .ite answers_next answers_next
theorem answers_execSpillQueueSpaceFree (pkt : Nat) : Answers (execSpillQueueSpaceFree pkt s) := by
  unfold execSpillQueueSpaceFree
  split
  · exact answers_next
  · exact .ite answers_next (.ite answers_next answers_next)
theorem answers_execKernelFault (kernel : Nat) (why : FaultWhy) (cc : BitVec 2) : Answers (execKernelFault kernel why cc s) := by
  unfold execKernelFault
  dsimp only
  split
  case h_5 =>
    split
    · exact .ite answers_next (by split <;> exact answers_next)
    · exact answers_next
  all_goals exact .ite answers_next (by split <;> exact answers_next)
theorem answers_execQwaitEnd (core strand : Nat) : Answers (execQwaitEnd core strand s) := by
  unfold execQwaitEnd
  dsimp only
  split
  · exact answers_next
  · exact .ite answers_next answers_next
theorem answers_execQueueCreate (va ring : Word) (ctx qid : BitVec 16) (hostq : Bool) (qprio : BitVec 4) (die : BitVec 3)
    (logcap : BitVec 5) : Answers (execQueueCreate va ring ctx qid hostq qprio die logcap s) := by
  unfold execQueueCreate
  dsimp only
  split
  · exact answers_next
  · split
    · exact .ite answers_next answers_next
    · exact answers_next
theorem answers_execGdomWaitEnd (core strand : Nat) : Answers (execGdomWaitEnd core strand s) := by
  unfold execGdomWaitEnd
  dsimp only
  split <;> exact answers_next
theorem answers_execStaggeredRelease (core strand : Nat) : Answers (execStaggeredRelease core strand s) := by
  unfold execStaggeredRelease
  dsimp only
  split
  · exact answers_next
  · exact .ite answers_next answers_next
theorem answers_execTsendSlotStart (core strand : Nat) : Answers (execTsendSlotStart core strand s) := by
  unfold execTsendSlotStart
  dsimp only
  split
  · exact .ite answers_next answers_next
  · exact answers_next
theorem answers_execHingePushArrive (pkt : Nat) : Answers (execHingePushArrive pkt s) := by
  unfold execHingePushArrive
  split <;> exact answers_next
theorem answers_execHingeReplyArrive (pkt : Nat) (code : BitVec 3) : Answers (execHingeReplyArrive pkt code s) := by
  unfold execHingeReplyArrive
  split
  · exact answers_next
  · split <;> exact answers_next
theorem answers_execXferResume (core : Nat) (slot : BitVec 2) : Answers (execXferResume core slot s) := by
  unfold execXferResume
  split
  · exact .ite answers_next (.ite answers_next answers_next)
  · exact answers_next
theorem answers_execMeshInterruptMessage (core ctx : Nat) : Answers (execMeshInterruptMessage core ctx s) := by
  unfold execMeshInterruptMessage
  split <;> exact answers_next
theorem answers_execGangSwitchTime (die : BitVec 3) (n core : Nat) : Answers (execGangSwitchTime die n core s) := by
  unfold execGangSwitchTime
  split
  · exact answers_next
  · exact .ite answers_next (answers_wakeAfter.mpr (answers_planAct ..))
theorem answers_execPortTrainRetry (port : BitVec 5) : Answers (execPortTrainRetry port s) := by
  unfold execPortTrainRetry
  dsimp only
  split
  · exact .ite answers_next answers_next
  · exact answers_next
theorem answers_execModuleFailTimeout (m : BitVec 16) (cc : BitVec 2) : Answers (execModuleFailTimeout m cc s) := by
  unfold execModuleFailTimeout
  split
  · exact .ite (answers_wakeAfter.mpr (answers_failModule ..)) answers_next
  · exact answers_next
theorem answers_execScanStart (die : BitVec 3) (i : BitVec 8) : Answers (execScanStart die i s) := by
  unfold execScanStart
  exact .ite answers_next (answers_wakeAfter.mpr
    (answers_foldl_andThen (fun c t => answers_scanSave t (dieCluster die.toNat i.toNat) c) _ answers_next))
theorem answers_execScanEnd (die : BitVec 3) (i : BitVec 8) (bad : BitVec 16) : Answers (execScanEnd die i bad s) := by
  unfold execScanEnd
  dsimp only
  split
  · exact answers_next
  · exact .ite answers_next (answers_wakeAfter.mpr
      (answers_foldl_andThen (fun c t => answers_scanBack t _ c) _ answers_next))
theorem answers_execMachineCheck (die : BitVec 3) (why : CheckWhy) (cc : BitVec 2) : Answers (execMachineCheck die why cc s) := by
  cases why <;> exact .ite answers_next answers_next
theorem answers_execMwaitEnd (core strand : Nat) : Answers (execMwaitEnd core strand s) := by
  unfold execMwaitEnd
  dsimp only
  split
  · exact answers_next
  · exact .ite answers_next (answers_wakeAfter.mpr (answers_mwaitDone ..))
end

/-- Every step of the table answers a next state. -/
theorem answers_of_step {i : Instr} (h : i.toRaw = none) (s : State) : Answers (exec i s) := by
  delta exec
  cases i with
  | nonreturningServiced | loadDataReturn | predictorDecay | tumblerCycle | msendAccept | kernelRetire | kernelService |
    packetPublished | schedulerPass | groupPlace | groupStart | sliceBoundary | phaseEnd | tsendLand | hingeBgTick |
    xferOpStart | xferComplete | xferFault | savecoreEnd | plantailWrite | contextCreate | linkResetRelease |
    routeTableWrite | lmSweep | tsliceWrite | faultRingHeadWrite | faultRingConfigWrite | featreqWrite | mxaOpStart |
    timeNsAdvance =>
    exact answers_next
  | queueReset | queueClose | hostDoorbell | kernelAbandon | replayDiscardComplete | resumeRequest | contextDestroy |
    trainingSuccess | flitCrcError | retrainSuccess | portDisable | portEnable | timeFlit | timeFlitTimeout | moduleAdd | moduleClear |
    mmioRegisterWrite | vreqCommit | voltageStepEnd | clockHopEnd | droopDetect | droopClear | mxaOpFinish | attestationRequest =>
    exact .ite answers_next answers_next
  | moduleResetBoot | partitionImageVerify | retrainFailure => exact .ite answers_next (.ite answers_next answers_next)
  | trainingFailure =>
    exact .ite answers_next (.ite answers_next (.ite (.ite answers_next answers_next) answers_next))
  | pauseEnd => exact answers_execPauseEnd ..
  | timedWaitDeadline => exact answers_execTimedWaitDeadline ..
  | deferredEcc => exact answers_wakeAfter.mpr (answers_deferred ..)
  | barrierWaiterLeave => exact answers_execBarrierWaiterLeave ..
  | msendRefused => exact answers_wakeAfter.mpr (answers_msgRefuse ..)
  | mrecvWaitEnd => exact answers_execMrecvWaitEnd ..
  | spillQueueSpaceFree => exact answers_execSpillQueueSpaceFree ..
  | kernelFault => exact answers_execKernelFault ..
  | qwaitEnd => exact answers_execQwaitEnd ..
  | queueCreate => exact answers_execQueueCreate ..
  | gdomWaitEnd => exact answers_execGdomWaitEnd ..
  | staggeredRelease => exact answers_execStaggeredRelease ..
  | tsendSlotStart => exact answers_execTsendSlotStart ..
  | hingePushArrive => exact answers_execHingePushArrive ..
  | hingeReplyArrive => exact answers_execHingeReplyArrive ..
  | xferResume => exact answers_execXferResume ..
  | restorecoreEnd => exact answers_wakeAfter.mpr (answers_endRestore ..)
  | meshInterruptMessage => exact answers_execMeshInterruptMessage ..
  | gangSwitchTime => exact answers_execGangSwitchTime ..
  | portTrainRetry => exact answers_execPortTrainRetry ..
  | moduleFailTimeout => exact answers_execModuleFailTimeout ..
  | moduleDeclareFailed => exact .ite (answers_wakeAfter.mpr (answers_failModule ..)) answers_next
  | remoteStoreArrive => exact answers_unlessDead _ _ answers_next
  | remoteLoadArrive => exact answers_unlessDead _ _ answers_next
  | remoteAckArrive => exact answers_wakeAfter.mpr (answers_ackArrive ..)
  | scanStart => exact answers_execScanStart ..
  | scanEnd => exact answers_execScanEnd ..
  | machineCheck => exact answers_execMachineCheck ..
  | mwaitEnd => exact answers_execMwaitEnd ..
  | unassignedEncoding => exact answers_trapNow
  | _ => cases h

/-! ## Every instruction, and every step of the machine -/

theorem exec_answers (i : Instr) (s : State) : Answers (exec i s) := by
  cases h : i.toRaw with
  | none => exact answers_of_step h s
  | some r => exact (exec_framed h s).answers

section
variable (s : State)

theorem answers_runWords (ws : List (BitVec 32)) : Answers (s.runWords ws) := by
  unfold State.runWords
  split
  · exact exec_answers ..
  · exact answers_trapNow
theorem answers_runStrand (w : Who) : Answers (s.runStrand w) := by
  unfold State.runStrand
  dsimp only
  split
  · exact answers_trapNow
  · exact answers_next
  · exact .ite answers_trapNow (answers_runWords ..)
theorem answers_issueOn (core : Nat) : Answers (s.issueOn core) := by
  unfold State.issueOn
  split
  · exact answers_runStrand ..
  · exact answers_next
theorem answers_turn (t : Turn) : Answers (s.turn t) := by
  cases t with
  | issue core => exact answers_issueOn ..
  | event i => exact .ite (exec_answers i s) answers_next
  | _ => exact answers_next
theorem answers_podStep (d : PodDue) : Answers (s.podStep d) := by
  cases d with
  | train port => exact answers_execPortTrainRetry ..
  | unlock => exact exec_answers .timeFlitTimeout s
  | fail m cc => exact answers_execModuleFailTimeout ..
theorem answers_idle : Answers s.idle := by
  unfold State.idle
  split
  · exact answers_runStrand ..
  · split
    · exact exec_answers ..
    · split
      · exact exec_answers ..
      · split
        · exact answers_podStep ..
        · exact answers_next
theorem step_answers : Answers (step s) := by
  show Answers s.oneStep
  unfold State.oneStep
  split
  · exact answers_idle s
  · exact answers_turn ..
end

/-- Settles O14: an instruction of an encoding answers as the frame does, a step of the table by its own case, and a step of the
machine is an instruction, a step of the table or a trap. -/
theorem everyInstructionAnswers : Obligations.EveryInstructionAnswers := by
  refine ⟨exec_answers, fun i s r h => ?_, step_answers⟩
  obtain ⟨t, ht⟩ := exec_answers i s
  rw [ht] at h
  cases h

end Sys2Proof.Machine
end

-- Proofs of the statements of spec/01_vrelyon_at_a_glance.md.
section
/-!
SUPPORT. Memory keeps its canonical form (R19, R311) through every operation of the machine, in the order of the model's files; at the
end through every instruction, every step of the table and every turn of the environment.
-/
namespace Sys2Proof
open Machine
/-! ## What keeps the form -/

/-- Every next state that an outcome may be has its memory in form. -/
def InvOut (o : Host.Outcome State Fault Refusal) : Prop := ∀ ⦃t⦄, o = .next t → Inv t

/-- Every state that a result may hold, at a place of what it answers, has its memory in form. -/
def InvOk {ε α : Type} (st : α → State) (x : Except ε α) : Prop := ∀ ⦃a⦄, x = .ok a → Inv (st a)

/-- The state that the body of an instruction leaves. -/
def Machine.Ans.after : Ans → State
  | .retire s _ | .jump s _ _ | .sysEntry s _ _ | .hold s => s

variable {s a b : State} {o o1 o2 : Host.Outcome State Fault Refusal} {c : Prop} [Decidable c]

/-- The form is about memory alone: an update of anything else keeps it. -/
theorem Inv.of_mem (h : Inv a) (e : s.mem = a.mem) : Inv s := by
  rw [Inv, e]
  exact h
theorem Inv.ite (ha : Inv a) (hb : Inv b) : Inv (if c then a else b) := by
  split
  · exact ha
  · exact hb
theorem Inv.foldl {α : Type} {f : State → α → State} (hf : ∀ t x, Inv t → Inv (f t x)) (l : List α) (h : Inv s) :
    Inv (l.foldl f s) := by
  induction l generalizing s with
  | nil => exact h
  | cons x l ih => exact ih (hf s x h)

theorem InvOut.next (h : Inv s) : InvOut (.next s) := fun t e => by
  cases e
  exact h
theorem InvOut.ite (h1 : InvOut o1) (h2 : InvOut o2) : InvOut (if c then o1 else o2) := by
  split
  · exact h1
  · exact h2
theorem InvOut.foldl {α : Type} {f : Host.Outcome State Fault Refusal → α → Host.Outcome State Fault Refusal}
    (hf : ∀ o x, InvOut o → InvOut (f o x)) (l : List α) (h : InvOut o) : InvOut (l.foldl f o) := by
  induction l generalizing o with
  | nil => exact h
  | cons x l ih => exact ih (hf o x h)

section
variable {ε α : Type} {st : α → State} {x y : Except ε α}

theorem InvOk.error {e : ε} : InvOk st (.error e) := nofun
theorem InvOk.ok {v : α} (h : Inv (st v)) : InvOk st (.ok v : Except ε α) := fun t e => by
  cases e
  exact h
theorem InvOk.ite (h1 : InvOk st x) (h2 : InvOk st y) : InvOk st (if c then x else y) := by
  split
  · exact h1
  · exact h2
end
theorem InvOk.retire {eu} (h : Inv s) : InvOk Ans.after (.ok (.retire s eu) : Except Trap Ans) := .ok h
theorem InvOk.jump {pc eu} (h : Inv s) : InvOk Ans.after (.ok (.jump s pc eu) : Except Trap Ans) := .ok h
theorem InvOk.sysEntry {code eu} (h : Inv s) : InvOk Ans.after (.ok (.sysEntry s code eu) : Except Trap Ans) := .ok h
theorem InvOk.hold (h : Inv s) : InvOk Ans.after (.ok (.hold s) : Except Trap Ans) := .ok h

/-! ## The named operations of the state -/

theorem Inv.write {a n v} (h : Inv s) : Inv (s.write a n v) := wf_memWrite _ _ _ h
theorem Inv.setCore {c v} (h : Inv s) : Inv (s.setCore c v) := h
theorem Inv.setLive {c v} (h : Inv s) : Inv (s.setLive c v) := h.setCore
theorem Inv.setStrand {w v} (h : Inv s) : Inv (s.setStrand w v) := h.setLive
theorem Inv.setReg {w r v} (h : Inv s) : Inv (s.setReg w r v) := by
  refine .ite h ?_
  split
  · exact h.setLive
  · exact h
theorem Inv.setRegs {w r vs} (h : Inv s) : Inv (s.setRegs w r vs) := by
  induction vs generalizing s r with
  | nil => exact h
  | cons v vs ih => exact ih h.setReg
theorem Inv.setPred {w p v} (h : Inv s) : Inv (s.setPred w p v) := .ite h h.setStrand
theorem Inv.setTile {w t rows tag} (h : Inv s) : Inv (s.setTile w t rows tag) := by
  unfold State.setTile
  split
  · exact h.setLive
  · exact h
theorem Inv.retire {w len eu} (h : Inv s) : Inv (s.retire w len eu) := h.setCore
theorem Inv.jumpTo {w pc eu} (h : Inv s) : Inv (s.jumpTo w pc eu) := h.setCore
theorem Inv.keepLast {w k} (h : Inv s) : Inv (s.keepLast w k) := h.setCore
theorem Inv.finish {w len eu} (h : Inv s) : Inv (s.finish w len eu) := h.retire.keepLast
theorem Inv.waiting {w v} (h : Inv s) : Inv (s.waiting w v) := h.setCore
theorem Inv.setCtl {pa v} (h : Inv s) : Inv (s.setCtl pa v) := h
theorem Inv.setLine {cl ln v} (h : Inv s) : Inv (s.setLine cl ln v) := h
theorem Inv.delLine {cl ln} (h : Inv s) : Inv (s.delLine cl ln) := h
theorem Inv.setHeads {ids keep flat n} (h : Inv s) : Inv (s.setHeads ids keep flat n) := .ite h h
theorem Inv.writeBack {cl ln} (h : Inv s) : Inv (s.writeBack cl ln) := by
  unfold State.writeBack
  split
  · exact .ite h (.setLine (.ite (wf_writeDirty _ _ _ h) (.ite (wf_writeDirty _ _ _ h) (wf_writeDirty _ _ _ h))))
  · exact h
theorem Inv.dropLine {cl ln} (h : Inv s) : Inv (s.dropLine cl ln) := h.writeBack.delLine
theorem Inv.makeRoom {cl} (h : Inv s) : Inv (s.makeRoom cl) := by
  unfold State.makeRoom
  split
  · exact h.dropLine
  · exact h
theorem Inv.holdLine {cl ln} (h : Inv s) : Inv (s.holdLine cl ln) := by
  unfold State.holdLine
  split
  · exact h
  · exact h.makeRoom.setLine
theorem Inv.cachedRead {cl flat n} (h : Inv s) : Inv (s.cachedRead cl flat n).2 := h.holdLine
theorem Inv.cachedWrite {cl flat n v ids via} (h : Inv s) : Inv (s.cachedWrite cl flat n v ids via) := h.holdLine.setLine
theorem Inv.homeWrite {cl flat n v} (h : Inv s) : Inv (s.homeWrite cl flat n v) := by
  unfold State.homeWrite
  dsimp only
  split
  · exact h.write.setHeads.setLine
  · exact h.write.setHeads
theorem Inv.mapEarly {f} (h : Inv s) : Inv (s.mapEarly f) := .ite h h
theorem Inv.forgetRange {lo n} (h : Inv s) : Inv (s.forgetRange lo n) := h.mapEarly
theorem Inv.keepEarly {w keep} (h : Inv s) : Inv (s.keepEarly w keep) := .ite h h.setStrand
theorem Inv.forget {w flat n} (h : Inv s) : Inv (s.forget w flat n) := h.keepEarly
theorem Inv.missed {b via flat n} (h : Inv s) : Inv (s.missed b via flat n) := h.mapEarly
theorem Inv.poisonRead {flat n} (h : Inv s) : Inv (s.poisonRead flat n) := .ite h h
theorem Inv.wroteHome {w flat n} (h : Inv s) : Inv (s.wroteHome w flat n) := h.forget.missed
theorem Inv.putRecord {w at_ head tail} (h : Inv s) : Inv (s.putRecord w at_ head tail) :=
  .ite h.homeWrite.homeWrite.wroteHome h
theorem Inv.enter {w t tcode pc nextpc isSys} (h : Inv s) : Inv (s.enter w t tcode pc nextpc isSys) := h.putRecord.setStrand
theorem Inv.takeTrap {w t pc nextpc} (h : Inv s) : InvOut (s.takeTrap w t pc nextpc) := .next (.enter (.ite h h.poisonRead))
theorem Inv.returnTo {w pc p} (h : Inv s) : Inv (s.returnTo w pc p) := h.setStrand

/-! ## Operand forms and the frame of an instruction -/

theorem Inv.clearErrs {w ops} (h : Inv s) : Inv (s.clearErrs w ops) := .ite h h.setLive
theorem Inv.clearStatus {w sel} (h : Inv s) : Inv (s.clearStatus w sel) := .ite h h.setLive
theorem InvOut.issued {w} (ho : InvOut o) : InvOut (issued w o) := by
  cases o with
  | next t => exact .next (ho rfl).keepLast
  | _ => exact ho
theorem Inv.trapNow {w t pc nextpc} (h : Inv s) : InvOut (s.trapNow w t pc nextpc) := h.takeTrap.issued
theorem Inv.heldOff {w k} (h : Inv s) : Inv (s.heldOff w k) := h.setStrand
theorem Inv.notReady {w ops} (h : Inv s) : Inv (s.notReady w ops) := h.heldOff
/-- The frame of every instruction: what its body leaves, retired, or a trap, or a wait. -/
theorem Inv.runInstr {f ops} {body : State → Who → Except Trap Ans} (h : Inv s) (hb : InvOk Ans.after (body s s.cur)) :
    InvOut (runInstr f ops body s) := by
  refine .ite h.trapNow (.ite (.next h.retire) (.ite (.next h.notReady) ?_))
  split
  · exact h.trapNow
  · split
    · exact h.trapNow
    · next e => exact .next (Inv.clearErrs (hb e)).retire
    · next e => exact .next (Inv.clearErrs (hb e)).jumpTo
    · next e => exact .next (Inv.jumpTo (hb e)).enter
    · next e => exact .next (hb e)
theorem Inv.done {eu} (h : Inv s) : InvOk Ans.after (done s eu) := .retire h

/-! ## Integer and address instructions -/

theorem Inv.intOp {f ty d a b r} (h : Inv s) : InvOut (intOp f ty d a b r s) := h.runInstr h.setReg.done
theorem Inv.unaryOp {f d a r} (h : Inv s) : InvOut (unaryOp f d a r s) := h.runInstr h.setReg.done

/-! ## Clock and voltage -/

theorem Inv.setPower {cl p} (h : Inv s) : Inv (s.setPower cl p) := h
theorem Inv.setPow {cl hi lo v} (h : Inv s) : Inv (s.setPow cl hi lo v) := h.setCtl
theorem Inv.switchDivs {cl test} (h : Inv s) : Inv (s.switchDivs cl test) := h.setCtl.setPower
theorem Inv.rampFrom {cl t} (h : Inv s) : Inv (s.rampFrom cl t) := .ite h.setPower.setPow h.setPower.setPow
theorem Inv.fasten {cl} (h : Inv s) : Inv (s.fasten cl) := h.switchDivs
theorem Inv.startRequest {cl divs volts t} (h : Inv s) : Inv (s.startRequest cl divs volts t) :=
  .rampFrom (.ite h.setPower.switchDivs.fasten h.setPower.switchDivs)
theorem Inv.voltStep {cl} (h : Inv s) : Inv (s.voltStep cl) := by
  unfold State.voltStep
  dsimp only
  split
  · exact h
  · refine .ite h ?_
    split
    · exact h.setPow.startRequest
    · exact h.setPow.fasten.rampFrom
theorem Inv.commitVolts {cl volts} (h : Inv s) : Inv (s.commitVolts cl volts) :=
  .ite h.voltStep.setPow (.ite h.voltStep.setPower.setPow h.voltStep.startRequest)
theorem Inv.hopEnd {core} (h : Inv s) : Inv (s.hopEnd core) := h.setPower
theorem Inv.droopOn {cl} (h : Inv s) : Inv (s.droopOn cl) := h.setPower.setPow
theorem Inv.droopOff {cl} (h : Inv s) : Inv (s.droopOff cl) := .ite h.setPower h

/-! ## Translation -/

theorem Inv.setKernel {k v} (h : Inv s) : Inv (s.setKernel k v) := h
theorem Inv.setShadow {slot z v} (h : Inv s) : Inv (s.setShadow slot z v) := .foldl (fun _ _ ht => ht.write) _ h
theorem Inv.dropFrame {lo n} (h : Inv s) : Inv (s.dropFrame lo n) :=
  .forgetRange (.foldl (fun _ _ ht => .foldl (fun _ _ hu => .ite hu.dropLine hu) _ ht) _ h)
theorem Inv.copyFrame {src dst n} (h : Inv s) : Inv (s.copyFrame src dst n) :=
  .ite (wf_memCopy _ _ _ h) (wf_memCopy _ _ _ h)
theorem Inv.claimFrame {kid live slot} (h : Inv s) : Inv (s.claimFrame kid live slot) :=
  .ite h h.dropFrame.dropFrame.copyFrame.setShadow.setKernel
theorem Inv.holdXlat {core t va} (h : Inv s) : Inv (s.holdXlat core t va) := h
theorem Inv.useXlat {w x} (h : Inv s) : Inv (s.useXlat w x) := by
  unfold State.useXlat
  dsimp only
  split
  · exact .claimFrame (.ite h h.holdXlat)
  · exact .ite h h.holdXlat

/-! ## Links and modules as state -/

theorem Inv.setLink {k l} (h : Inv s) : Inv (s.setLink k l) := h
theorem Inv.setMod {m e} (h : Inv s) : Inv (s.setMod m e) := h
theorem Inv.settleModules (h : Inv s) : Inv (s.settleModules) := h

/-! ## Control registers and fault rings -/

theorem Inv.ringWrite {d es} (h : Inv s) : Inv (s.ringWrite d es).1 := by
  induction es generalizing s with
  | nil => exact h
  | cons e es ih =>
    unfold State.ringWrite
    split
    · exact h
    · exact ih h.write.write.setCtl
theorem Inv.drainRing {d} (h : Inv s) : Inv (s.drainRing d) := h.ringWrite
theorem Inv.report {die r} (h : Inv s) : Inv (s.report die r) := .drainRing h
theorem Inv.refuse {die pa} (h : Inv s) : Inv (s.refuse die pa) := h.report
theorem Inv.advancePlan {d n} (h : Inv s) : Inv (s.advancePlan d n) := by
  induction n generalizing s with
  | zero => exact h
  | succ n ih => exact .ite (ih h.setCtl) h
theorem Inv.postPlans {d n k} (h : Inv s) : Inv (s.postPlans d n k) := by
  induction k generalizing s n with
  | zero => exact h
  | succ k ih => exact ih (.ite h h.refuse)
theorem Inv.ranged {ring pa v ok} (h : Inv s) : Inv (s.ranged ring pa v ok) := .ite h.setCtl h.refuse
theorem Inv.featReq {ring pa v} (h : Inv s) : Inv (s.featReq ring pa v) := .ite h.refuse h
theorem Inv.writePlanTail {ring d pa v} (h : Inv s) : Inv (s.writePlanTail ring d pa v) :=
  .ite h.refuse h.setCtl.postPlans.advancePlan
theorem Inv.ringConfig {ring d pa v ok} (h : Inv s) : Inv (s.ringConfig ring d pa v ok) :=
  .ite h.refuse h.setCtl.setCtl.setCtl.drainRing
theorem Inv.ringHeadWrite {ring d pa v} (h : Inv s) : Inv (s.ringHeadWrite ring d pa v) := .ite h.refuse h.setCtl.drainRing
theorem Inv.mmioWrite {ring wdie pa v} (h : Inv s) : Inv (s.mmioWrite ring wdie pa v) := by
  unfold State.mmioWrite
  split
  · split
    · exact .ite h h.refuse
    · exact h.ranged
    · exact h.ranged
    · exact h.ranged
    · exact h.ringConfig
    · exact h.ringConfig
    · exact h.ringHeadWrite
    · exact h.setCtl
    · exact h.ranged
    · exact h.writePlanTail
    · exact h
  · exact h.ranged
  · exact h.ranged
  · split
    · exact .ite h.refuse h
    · exact .ite h.refuse h.setCtl
    · exact h.setCtl
    · exact .ite h.setCtl.commitVolts h.refuse
    · exact .ite h.refuse (.ite h h.setPow)
    · exact h
  · exact h.report
  · split
    · exact h.ranged
    · exact h.ranged.settleModules
    · exact h.featReq
    · exact h.ranged.settleModules
  · exact h.refuse
theorem Inv.mmioFrom {die host pa v} (h : Inv s) : Inv (s.mmioFrom die host pa v) := .ite (.ite h.mmioWrite h) h.mmioWrite
theorem Inv.mmioPut {core pa n v} (h : Inv s) : Inv (s.mmioPut core pa n v) := h.mmioWrite

/-! ## Accesses of strands -/

theorem Inv.clearUnits {flat n} (h : Inv s) : Inv (s.clearUnits flat n) := .ite h h
theorem Inv.useAll {w ps} (h : Inv s) : Inv (s.useAll w ps) := .foldl (fun _ _ ht => ht.useXlat) _ h
theorem Inv.packUp {w n} (h : Inv s) : Inv (s.packUp w n) := h.setStrand
theorem Inv.packDown {w n} (h : Inv s) : Inv (s.packDown w n) := h.setStrand
theorem Inv.packBack {w n} (h : Inv s) : Inv (s.packBack w n) := h.setStrand
theorem Inv.send {w p} (h : Inv s) : Inv (s.send w p) := by
  unfold State.send
  dsimp only
  split
  · exact .packUp (.setStrand h)
  · exact .setStrand h
theorem Inv.bypass {cl flat n} (h : Inv s) : Inv (s.bypass cl flat n) := .ite h (.foldl (fun _ _ ht => ht.dropLine) _ h)
theorem Inv.recall {cl flat} (h : Inv s) : Inv (s.recall cl flat) := by
  unfold State.recall
  split
  · exact .ite h h
  · exact h
theorem Inv.learnIds {w ids} (h : Inv s) : Inv (s.learnIds w ids) := .ite h h.setStrand
theorem Inv.learn {w flat n} (h : Inv s) : Inv (s.learn w flat n) := h.learnIds
theorem Inv.wrote {w via flat n} (h : Inv s) : Inv (s.wrote w via flat n) := h.forget.setHeads.missed
theorem Inv.farRelease {p} (h : Inv s) : Inv (s.farRelease p) := .ite h h.mapEarly
theorem Inv.wroteFor {p flat n} (h : Inv s) : Inv (s.wroteFor p flat n) := h.farRelease.setHeads.missed
theorem Inv.readAt {core p n} (h : Inv s) : Inv (s.readAt core p n).2 := by
  unfold State.readAt
  split
  · exact h
  · exact h.cachedRead
  · exact h.bypass.recall
  · exact h.cachedRead
  · exact h
  · exact h
  · exact h
theorem Inv.earlyUsed {w p} (h : Inv s) : Inv (s.earlyUsed w p) := by
  unfold State.earlyUsed
  split
  · exact h.keepEarly
  · exact h
theorem Inv.loadAt {w va p n} (h : Inv s) : Inv (s.loadAt w va p n).2 := by
  unfold State.loadAt
  split
  · exact h.learnIds.earlyUsed
  · split
    · exact h.forget.readAt.learn
    · exact h.forget.readAt.learn
    · exact h.forget.readAt.learnIds
    · exact h.forget.readAt.learnIds
    · exact h.forget.readAt.learn
    · exact h.forget.readAt
theorem Inv.setLate {w b} (h : Inv s) : Inv (s.setLate w b) := .ite h h.setStrand
theorem Inv.sendStore {w p n v va ent path} (h : Inv s) : Inv (s.sendStore w p n v va ent path) := h.send
theorem Inv.writeHome {w flat n v va} (h : Inv s) : Inv (s.writeHome w flat n v va) := h.wrote.bypass.recall.write.clearUnits
theorem Inv.writeAt {w p n v va ent} (h : Inv s) : Inv (s.writeAt w p n v va ent) := by
  unfold State.writeAt
  split
  · exact h.wrote.write.clearUnits
  · exact h.forget.missed.cachedWrite
  · exact h.forget.missed.cachedWrite
  · exact .ite h.forget.sendStore h.writeHome
  · exact h.mmioPut
  · exact h.forget.sendStore
  · exact h.sendStore
theorem Inv.storedWithFill {v} (h : Inv s) : Inv (s.storedWithFill v) := by
  unfold State.storedWithFill
  split
  · exact h
  · exact h.write.clearUnits.wroteFor
theorem Inv.storeAt {w p v} (h : Inv s) : Inv (s.storeAt w p v) := by
  refine .ite ?_ h.writeAt
  split
  · exact h.writeAt.storedWithFill
  · exact h.writeAt.writeBack
theorem Inv.markEarly {w c sc} (h : Inv s) : Inv (s.markEarly w c sc) := .ite (.setStrand h.mapEarly) h
theorem Inv.sendHome {w c sc} (h : Inv s) : Inv (s.sendHome w c sc) := .foldl (fun _ _ ht => .ite ht.writeBack ht) _ h
theorem Inv.publish {w c sc} (h : Inv s) : Inv (s.publish w c sc) := h.sendHome.markEarly
theorem Inv.dropCovered {w c} (h : Inv s) : Inv (s.dropCovered w c) := .foldl (fun _ _ ht => .ite ht.dropLine ht) _ h
theorem Inv.takes {w own taken} (h : Inv s) : Inv (s.takes w own taken) := h.keepEarly.mapEarly
theorem Inv.takeIn {w c} (h : Inv s) : Inv (s.takeIn w c) := h.dropCovered.takes
theorem Inv.takeScoped {w c sc} (h : Inv s) : Inv (s.takeScoped w c sc) := h.dropCovered.takes
theorem Inv.readEarly {w va} (h : Inv s) : Inv (s.readEarly w va) := by
  unfold State.readEarly
  split
  · exact h
  · split
    · exact .ite h (.ite h h.useXlat.dropLine.setStrand)
    · exact h
theorem Inv.holdBack {w kind} (h : Inv s) : InvOk Ans.after (s.holdBack w kind) := .hold h.waiting
theorem Inv.wake (h : Inv s) : Inv (s.wake) := h
theorem Inv.pushLoad {w l} (h : Inv s) : Inv (s.pushLoad w l) := h.setStrand
theorem Inv.putLoad {w d m ty n v} (h : Inv s) : Inv (s.putLoad w d m ty n v) := .ite h.setReg h.setRegs
theorem Inv.sendLoad {w kind a l path} (h : Inv s) : Inv (s.sendLoad w kind a l path) := h.send.pushLoad
theorem Inv.startLoad {w d m ty p path} (h : Inv s) : Inv (s.startLoad w d m ty p path) := by
  unfold State.startLoad
  split
  · split
    · exact h.pushLoad
    · exact h.loadAt.putLoad
  · exact h.putLoad
  · exact h.pushLoad
  · exact h.pushLoad
  · split
    · exact h.learnIds.sendLoad
    · exact h.sendLoad
  · exact h.sendLoad
theorem Inv.ackNow {w} (h : Inv s) : Inv (s.ackNow w) := h.packUp.packDown
theorem Inv.memAccess {w k ea n} {go : State → Piece → Except Trap Ans} (h : Inv s)
    (hg : ∀ t p, Inv t → InvOk Ans.after (go t p)) : InvOk Ans.after (memAccess s w k ea n go) := by
  refine .ite .error ?_
  split
  · exact .error
  · exact .ite h.holdBack (.ite h.holdBack (.ite .error (hg _ _ h.useXlat)))
  · exact h.holdBack

/-! ## Flags and the FPE trap -/

theorem Inv.raise {w fl} (h : Inv s) : Inv (s.raise w fl) := h.setStrand
theorem Inv.withFlags {w fl eu} {k : State → State} (h : Inv s) (hk : ∀ t, Inv t → Inv (k t)) :
    InvOk Ans.after (s.withFlags w fl eu k) := by
  unfold State.withFlags
  split
  · exact .error
  · exact .retire (hk _ h.raise)

/-! ## Scalar floating point -/

theorem Inv.fpOp {f ty ops d r} (h : Inv s) : InvOut (fpOp f ty ops d r s) :=
  h.runInstr (h.withFlags (fun _ ht => ht.setReg))
theorem Inv.fpArith {f ty d a b g} (h : Inv s) : InvOut (fpArith f ty d a b g s) := h.fpOp

/-! ## Tile instructions -/

theorem Inv.tileOp {f d ops g} (h : Inv s) : InvOut (tileOp f d ops g s) := h.runInstr (h.withFlags (fun _ ht => ht.setTile))
theorem Inv.eltOp {f width d ops g} (h : Inv s) : InvOut (eltOp f width d ops g s) := h.tileOp
theorem Inv.tile2 {f ty fp d a b g} (h : Inv s) : InvOut (tile2 f ty fp d a b g s) := h.eltOp
theorem Inv.tile1 {f ty fp d a g} (h : Inv s) : InvOut (tile1 f ty fp d a g s) := h.eltOp
theorem Inv.tileSpecial {f fn ty d a} (h : Inv s) : InvOut (tileSpecial f fn ty d a s) := h.tile1
theorem Inv.tcvtPlain {f dty sty d a p} (h : Inv s) : InvOut (tcvtPlain f dty sty d a p s) := by
  unfold Machine.tcvtPlain
  exact h.tileOp
theorem Inv.tcvtEnc {f dty sty d a b sc} (h : Inv s) : InvOut (tcvtEnc f dty sty d a b sc s) :=
  h.runInstr (h.withFlags (fun _ ht => ht.setTile.setTile))
theorem Inv.tcvtDec {f dty sty d a sc e} (h : Inv s) : InvOut (tcvtDec f dty sty d a sc e s) :=
  h.runInstr (h.withFlags (fun _ ht => ht.setTile.setTile))
theorem Inv.execTcvt {f dty sty d a k} (h : Inv s) : InvOut (execTcvt f dty sty d a k s) := by
  unfold Machine.execTcvt
  split
  · exact h.tcvtPlain
  · exact h.tcvtEnc
  · exact h.tcvtDec
theorem Inv.execTrowred {f ty op wide d a} (h : Inv s) : InvOut (execTrowred f ty op wide d a s) := by
  unfold Machine.execTrowred
  exact h.tileOp
theorem Inv.execTcolred {f ty op wide d a} (h : Inv s) : InvOut (execTcolred f ty op wide d a s) := by
  unfold Machine.execTcolred
  exact h.tileOp
theorem Inv.execTtrans {f ty d a h'} (h : Inv s) : InvOut (execTtrans f ty d a h' s) := by
  unfold Machine.execTtrans
  exact h.tileOp
theorem Inv.rowOp {f d a ops g} (h : Inv s) : InvOut (rowOp f d a ops g s) := by
  unfold Machine.rowOp
  exact h.tileOp

/-! ## Loads, stores, rows, prefetch and spills -/

theorem Inv.ownNear {w k l n} {go : State → Nat → State} (h : Inv s) (hg : ∀ t flat, Inv t → Inv (go t flat)) :
    InvOk Ans.after (ownNear s w k l n go) := by
  unfold Machine.ownNear
  split
  · exact .error
  · exact .ite .error (.ite h.holdBack (.ite .error (.retire (hg _ _ h))))
theorem Inv.execLdn {f ty rank d a off} (h : Inv s) : InvOut (execLdn f ty rank d a off s) := by
  refine h.runInstr ?_
  dsimp only
  split
  · exact .error
  · exact .ite (h.ownNear (fun _ _ ht => ht.startLoad)) (.ite h.holdBack (.ite h.holdBack (.retire h.sendLoad)))
theorem Inv.execStn {f ty rank d a off} (h : Inv s) : InvOut (execStn f ty rank d a off s) := by
  refine h.runInstr ?_
  dsimp only
  split
  · exact .error
  · exact .ite (h.ownNear (fun _ _ ht => ht.writeAt)) (.ite h.holdBack (.retire h.send))
theorem Inv.readRows {w ps} (h : Inv s) : InvOk (·.2) (s.readRows w ps) := by
  induction ps generalizing s with
  | nil => exact .ok h
  | cons p ps ih =>
    unfold State.readRows
    split
    · exact .error
    · refine .ite .error ?_
      split
      · exact .error
      · dsimp only
        split
        · exact .error
        · next vs t e =>
            have h1 : Inv t := by
              refine ih ?_ e
              split
              · exact h.loadAt.ackNow
              · exact h.loadAt.ackNow
              · exact h.loadAt
            exact .ok h1
theorem Inv.loadRows {w d base pitch} {fin : State → State} (h : Inv s) (hf : ∀ t, Inv t → Inv (fin t)) :
    InvOk Ans.after (loadRows s w d base pitch fin) := by
  unfold Machine.loadRows
  dsimp only
  split
  · exact .error
  · refine .ite h.holdBack (.ite h.holdBack ?_)
    split
    · exact .error
    · next e => exact .retire (hf _ (Inv.setTile (h.useAll.readRows e)))
theorem Inv.storeRows {w d base pitch} {fin : State → State} (h : Inv s) (hf : ∀ t, Inv t → Inv (fin t)) :
    InvOk Ans.after (storeRows s w d base pitch fin) := by
  unfold Machine.storeRows
  dsimp only
  split
  · exact .error
  · exact .ite h.holdBack (.retire (hf _ (.setLate (.foldl (fun _ _ ht => ht.storeAt) _ h.useAll))))
theorem Inv.prefetch {w va} (h : Inv s) : Inv (s.prefetch w va) := by
  unfold State.prefetch
  split
  · exact h
  · split
    · exact .ite h h.holdLine
    · exact .ite h h.holdLine
    · exact h
theorem Inv.execPushm {f a b} (h : Inv s) : InvOut (execPushm f a b s) := by
  unfold Machine.execPushm
  refine h.runInstr ?_
  dsimp only
  refine .ite .error ?_
  split
  · exact .error
  · exact .ite h.holdBack (.done (.setStrand (.foldl (fun _ _ ht => ht.writeAt) _ h)))
theorem Inv.execPopm {f a b} (h : Inv s) : InvOut (execPopm f a b s) := by
  unfold Machine.execPopm
  refine h.runInstr ?_
  dsimp only
  refine .ite .error ?_
  split
  · exact .error
  · refine .ite h.holdBack ?_
    split
    · exact .error
    · exact .done (.setStrand (.setRegs (.foldl (fun _ _ ht => ht.learn) _ h)))
theorem Inv.dropLoad {w n} (h : Inv s) : Inv (s.dropLoad w n) := h.setStrand
theorem Inv.loadDone {w l v} (h : Inv s) : Inv (s.loadDone w l v) := h.putLoad
theorem Inv.returnLoad {w n} (h : Inv s) : Inv (s.returnLoad w n) := by
  unfold State.returnLoad
  dsimp only
  split
  · exact h
  · split
    · exact .ite h h.dropLoad.loadDone
    · exact .ite h h.loadAt.dropLoad.loadDone

/-! ## Instruction fetch -/

theorem Inv.fetchWord {w va v t} (h : Inv s) (e : s.fetchWord w va = .word v t) : Inv t := by
  unfold State.fetchWord at e
  dsimp only at e
  repeat' split at e
  all_goals cases e
  · exact h.useXlat
  · exact h.useXlat.setStrand
theorem Inv.fetchWords {w va n vs t} (h : Inv s) (e : s.fetchWords w va n = .words vs t) : Inv t := by
  induction n generalizing s va vs with
  | zero => cases e; exact h
  | succ n ih =>
    unfold State.fetchWords at e
    split at e
    · cases e
    · cases e
    · next e1 =>
        split at e
        · next e2 => cases e; exact ih (h.fetchWord e1) e2
        · exact ih (h.fetchWord e1) e
theorem Inv.fetchInstr {w va vs t} (h : Inv s) (e : s.fetchInstr w va = .words vs t) : Inv t := by
  unfold State.fetchInstr at e
  split at e
  · cases e
  · cases e
  · next e1 =>
      split at e
      · next e2 => cases e; exact (h.fetchWord e1).fetchWords e2
      · exact (h.fetchWord e1).fetchWords e
theorem Inv.doomFetched {w} (h : Inv s) : Inv (s.doomFetched w) := h.setStrand
theorem Inv.freshFetch {w} (h : Inv s) : Inv (s.freshFetch w) := h.setStrand
theorem Inv.keepWord {w flat} (h : Inv s) : Inv (s.keepWord w flat) := h.setStrand
theorem Inv.fetchAhead {w va} (h : Inv s) : Inv (s.fetchAhead w va) := by
  refine .ite h ?_
  split
  · exact h
  · split
    · next e _ => exact (h.fetchWord e).keepWord
    · exact h
theorem Inv.turnFetched {w flat} (h : Inv s) : Inv (s.turnFetched w flat) := by
  unfold State.turnFetched
  dsimp only
  split
  · exact h.setStrand
  · exact h

/-! ## Branches, calls, loops and waits -/

theorem Inv.jumpAns {w pc eu} (h : Inv s) : InvOk Ans.after (jumpAns s w pc eu) := .jump h.freshFetch
theorem Inv.jumpReg {w t} {go : State → State} (h : Inv s) (hg : ∀ t, Inv t → Inv (go t)) :
    InvOk Ans.after (jumpReg s w t go) := .ite .error (hg _ h).jumpAns
theorem Inv.execRet {f a} (h : Inv s) : InvOut (execRet f a s) := by
  unfold Machine.execRet
  exact h.runInstr (h.jumpReg (fun _ ht => ht))
theorem Inv.setUpLoop {w lvl count end16} (h : Inv s) : InvOk Ans.after (setUpLoop s w lvl count end16) := by
  refine .ite ?_ (.done (.foldl (fun _ _ ht => ht.clearStatus) _ h.setStrand))
  split
  · exact .error
  · exact h.holdBack
  · next e =>
      have h1 := h.fetchWord e
      exact .jump (.foldl (fun _ _ ht => ht.clearStatus) _ h1.setStrand)
theorem InvOut.wakeAfter (ho : InvOut o) : InvOut (wakeAfter o) := by
  cases o with
  | next t => exact .next (ho rfl).wake
  | _ => exact ho
theorem Inv.execPauseEnd {core strand} (h : Inv s) : InvOut (execPauseEnd core strand s) := by
  unfold Machine.execPauseEnd
  dsimp only
  split
  · exact .next (.ite h.finish.wake h)
  · exact .next h
theorem Inv.timedWait {f w kind now deadline} (h : Inv s) : InvOk Ans.after (timedWait f s w kind now deadline) :=
  .ite h.done (.hold h.waiting)
theorem Inv.execTimedWaitDeadline {core strand} (h : Inv s) : InvOut (execTimedWaitDeadline core strand s) := by
  unfold Machine.execTimedWaitDeadline
  dsimp only
  split
  · exact .next (.ite h.finish.wake h)
  · exact .next h

/-! ## Remote stores and loads -/

theorem Inv.execRst {f of_ n1 d a path} (h : Inv s) : InvOut (execRst f of_ n1 d a path s) := by
  unfold Machine.execRst
  refine h.runInstr ?_
  dsimp only
  split
  · exact .error
  · split
    · exact .error
    · exact .ite h.holdBack (.retire (.ite h.useXlat.forget.send.storedWithFill h.useXlat.forget.send))
    · exact h.holdBack
theorem Inv.execRld {f n1 d a path} (h : Inv s) : InvOut (execRld f n1 d a path s) := by
  unfold Machine.execRld
  refine h.runInstr ?_
  dsimp only
  split
  · exact .error
  · split
    · exact .error
    · exact .ite h.holdBack (.retire h.useXlat.startLoad)
    · exact h.holdBack
theorem Inv.sqWrite {ctx kind core off bytes src smodule data by_} (h : Inv s) : Inv
    (s.sqWrite ctx kind core off bytes src smodule data by_) :=
  .write h.write.write
theorem Inv.divert {ctx off bytes p} (h : Inv s) : Inv (s.divert ctx off bytes p) := h.farRelease.sqWrite
theorem Inv.setPkt {id p} (h : Inv s) : Inv (s.setPkt id p) := h
theorem Inv.delPkt {id} (h : Inv s) : Inv (s.delPkt id) := h
theorem Inv.atHome {p} (h : Inv s) : Inv (s.atHome p) := .ite h (.ite h.bypass.recall h.recall)
theorem Inv.landStore {p} (h : Inv s) : Inv (s.landStore p) := by
  refine .ite ?_ h.atHome.write.clearUnits.wroteFor
  split
  · exact h
  · exact .ite h h.write.clearUnits.wroteFor
theorem Inv.storeArriveGo {id refused p} (h : Inv s) : Inv (State.storeArrive.go s id refused p) :=
  .ite (.ite h.setPkt.report (.ite (.ite h h.setPkt.report) h.divert.setPkt)) (.ite h.setPkt.report h.landStore.setPkt)
theorem Inv.storeArrive {id refused} (h : Inv s) : Inv (s.storeArrive id refused) := by
  unfold State.storeArrive
  split
  · exact h
  · split
    · exact .ite h (.ite h.setPkt h.storeArriveGo)
    · exact .ite h h.storeArriveGo
    · exact .ite h h.setPkt.report
    · exact h
theorem Inv.amoAt {op ty points flat v d} (h : Inv s) : Inv (s.amoAt op ty points flat v d).2 := by
  unfold State.amoAt
  dsimp only
  split
  · exact h.write.setHeads
  · split
    · exact h.write.clearUnits.setHeads
    · exact h
theorem Inv.perform {id p} (h : Inv s) : Inv (s.perform id p) := by
  unfold State.perform
  dsimp only
  split
  · exact h.setPkt
  · split
    · exact .ite h.atHome.poisonRead.setPkt h.atHome.poisonRead.setPkt.report
    · exact h.atHome.poisonRead.setPkt
    · exact .ite h.atHome.setPkt (.setPkt (.ite h.atHome.farRelease.amoAt.missed h.atHome.farRelease.amoAt))
    · exact h.atHome.setPkt
theorem Inv.loadArrive {id} (h : Inv s) : Inv (s.loadArrive id) := by
  unfold State.loadArrive
  split
  · exact h
  · exact .ite h (.ite h.setPkt h.perform)
theorem Inv.serviced {id} (h : Inv s) : Inv (s.serviced id) := by
  unfold State.serviced
  split
  · refine .ite h ?_
    split
    · exact .ite (.ite h h.divert.setPkt) h.landStore.setPkt
    · exact .ite (.ite h h.divert.setPkt) h.landStore.setPkt
    · exact .ite (.ite h h.divert.setPkt) h.landStore.setPkt
    · exact .ite h h.perform
    · exact h
  · exact h
theorem Inv.ackPkt {id p} (h : Inv s) : Inv (s.ackPkt id p) := by
  unfold State.ackPkt
  split
  · exact .ite h.delPkt.packDown h.delPkt
  · exact h.delPkt
theorem Inv.lateTrap {w l t} (h : Inv s) : InvOut (s.lateTrap w l t) := h.takeTrap
theorem Inv.replied {w l p} (h : Inv s) : Inv (s.replied w l p) := by
  unfold State.replied
  split
  · exact h.forget.learnIds.loadDone.takeScoped
  · split
    · exact h.loadDone
    · exact h.learnIds.loadDone
theorem Inv.ackArrive {id} (h : Inv s) : InvOut (s.ackArrive id) := by
  unfold State.ackArrive
  dsimp only
  split
  · exact .next h
  · refine .ite (.next h) ?_
    refine .ite (.next (.ite h.delPkt h)) ?_
    refine .ite (.next h) ?_
    split
    · exact .next h.ackPkt
    · exact .next h.ackPkt
    · split
      · exact .next h.ackPkt
      · split
        · exact .next h
        · exact .ite (.next h) (.ite (.ite h.ackPkt.dropLoad.lateTrap (.next h)) (.next h.ackPkt.dropLoad.replied))
    · split
      · exact .next h.ackPkt
      · split
        · exact .next h
        · exact .ite (.next h) (.ite (.ite h.ackPkt.dropLoad.lateTrap (.next h)) (.next h.ackPkt.dropLoad.replied))
    · split
      · exact .next h.ackPkt
      · split
        · exact .next h
        · exact .ite (.next h) (.ite (.ite h.ackPkt.dropLoad.lateTrap (.next h)) (.next h.ackPkt.dropLoad.replied))
    · exact .next h
theorem Inv.deferred {w n} (h : Inv s) : InvOut (s.deferred w n) := by
  unfold State.deferred
  dsimp only
  split
  · exact .next h
  · split
    · exact .next h
    · refine .ite (.next h) ?_
      refine .lateTrap ?_
      refine .dropLoad ?_
      split
      · split
        · exact h.ackPkt
        · exact h
      · exact .ite h.poisonRead h

/-! ## Atomics, orderings, fences and binding -/

theorem Inv.amoHere {w r p f n} (h : Inv s) : Inv (s.amoHere w r p f n) := by
  unfold State.amoHere
  dsimp only
  have h1 : Inv (((s.learn w f n).amoAt r.op r.ty (s.strand w).points f r.b.toNat r.dv.toNat).2.forget w f n) :=
    h.learn.amoAt.forget
  split
  · exact .takeScoped (.ite (.setReg (.ite h1.missed h1)) (.ite h1.missed h1))
  · exact .ite (.setReg (.ite h1.missed h1)) (.ite h1.missed h1)
theorem Inv.amoSend {w r p} (h : Inv s) : Inv (s.amoSend w r p) := .ite h.forget.send.pushLoad h.forget.send
theorem Inv.amoOwned {w r p f n} (h : Inv s) : Inv (s.amoOwned w r p f n) := .ackNow h.bypass.recall.amoHere
theorem Inv.amoFailed {w r p} (h : Inv s) : Inv (s.amoFailed w r p) := h.send.report
theorem Inv.amoIssue {w r p} (h : Inv s) : InvOk id (s.amoIssue w r p) := by
  unfold State.amoIssue
  dsimp only
  split
  · split
    · exact .ite (.ok h.pushLoad) (.ite (.ok h.amoFailed) .error)
    · exact .ok h.amoHere
  · exact .ok (.ite h.amoOwned h.amoSend)
  · exact .ok (.ite h.amoOwned h.amoSend)
  · exact .ok h.amoSend
theorem Inv.amo {f op ord ty d a b e} (h : Inv s) : InvOut (amo f op ord ty d a b e s) := by
  unfold Machine.amo
  refine h.runInstr (.ite .error ?_)
  split
  · exact .error
  · refine .ite h.holdBack (.ite h.holdBack ?_)
    dsimp only
    split
    · exact .error
    · next e1 => exact .retire (Inv.setLate (Inv.amoIssue (.ite h.useXlat.publish h.useXlat) e1))
  · exact h.holdBack
theorem Inv.acquireAt {w d ty p a} (h : Inv s) : Inv (s.acquireAt w d ty p a) := by
  unfold State.acquireAt
  split
  · split
    · exact h.pushLoad
    · exact h.startLoad.takeScoped
  · exact h.startLoad.ackNow.takeScoped
  · exact h.sendLoad
theorem Inv.execLdAcq {f ty d a e} (h : Inv s) : InvOut (execLdAcq f ty d a e s) := by
  refine h.runInstr ?_
  dsimp only
  refine .ite .error ?_
  split
  · exact .error
  · exact .ite h.holdBack (.ite h.holdBack (.retire h.useXlat.acquireAt))
  · exact h.holdBack
theorem Inv.releaseAt {w p v} (h : Inv s) : Inv (s.releaseAt w p v) := by
  unfold State.releaseAt
  dsimp only
  split
  · exact .ite h.forget.sendStore h.writeHome.ackNow
  · exact .ite h.forget.sendStore h.writeHome.ackNow
  · exact h.storeAt.ackNow
  · exact h.storeAt
theorem Inv.execStRel {f ty d a e} (h : Inv s) : InvOut (execStRel f ty d a e s) := by
  refine h.runInstr ?_
  dsimp only
  refine .ite .error ?_
  split
  · exact .error
  · exact .ite h.holdBack (.ite .error (.ite h.holdBack (.retire h.useXlat.publish.releaseAt.setLate)))
  · exact h.holdBack
theorem Inv.fence {f a rel acq c} (h : Inv s) : InvOut (fence f a rel acq c s) :=
  h.runInstr (.ite h.holdBack (.ite h.holdBack (.ite (.done (.doomFetched (.keepEarly (.ite (.takeScoped
      (.ite h.sendHome.markEarly h)) (.ite h.sendHome.markEarly h)))))
      (.done (.ite (.takeScoped (.ite h.sendHome.markEarly h)) (.ite h.sendHome.markEarly h))))))
theorem Inv.setBinds {ctx bs} (h : Inv s) : Inv (s.setBinds ctx bs) := h
theorem Inv.execBind {f d a b} (h : Inv s) : InvOut (execBind f d a b s) := by
  refine h.runInstr ?_
  dsimp only
  refine .ite .error ?_
  refine .ite .error ?_
  split
  · exact .error
  · split
    · exact .error
    · exact .ite h.useXlat.done (.ite .error h.useXlat.setBinds.done)

/-! ## Barrier objects -/

theorem Inv.barDone {birth points via flat} (h : Inv s) : Inv (s.barDone birth points via flat) := h.setHeads.missed
theorem Inv.barArriveAt {flat} (h : Inv s) : Inv (s.barArriveAt flat) := .ite h.write h
theorem Inv.barPoisonAt {flat cc source code} (h : Inv s) : Inv (s.barPoisonAt flat cc source code) := .ite h.write.write h
theorem Inv.genOf {kern order flat gen} (h : Inv s) : Inv (s.genOf kern order flat gen) := by
  unfold State.genOf
  split
  · exact h.setKernel
  · exact h
theorem Inv.noteBarOf {kern flat gen} (h : Inv s) : Inv (s.noteBarOf kern flat gen) := by
  unfold State.noteBarOf
  split
  · exact h.setKernel
  · exact h
theorem Inv.barObj {w a o t} (h : Inv s) (e : s.barObj w a = .obj o t) : Inv t := by
  unfold State.barObj at e
  split at e
  · cases e
  · dsimp only at e
    generalize (match (_ : Place) with | _ => _ : Except (Option Nat) (Nat × Bool)) = found at e
    split at e
    · cases e
    · cases e
    · split at e
      · cases e
      · split at e <;> cases e
        exact h.useXlat.bypass.recall.forget.learn
theorem Inv.barAck {w o} (h : Inv s) : Inv (s.barAck w o) := .ite h h.ackNow
theorem Inv.barInstr {f ops a rel acq check} {go : State → Who → BarObj → Except Trap Ans} (h : Inv s)
    (hg : ∀ t w o, Inv t → InvOk Ans.after (go t w o)) : InvOut (barInstr f ops a rel acq check s go) := by
  refine h.runInstr ?_
  split
  · exact .error
  · exact h.holdBack
  · next e =>
      have h1 := h.barObj e
      refine .ite h.holdBack (.ite .error (hg _ _ _ (.barAck ?_)))
      split
      · exact h1.publish
      · exact h1
theorem Inv.execBinit {f a b} (h : Inv s) : InvOut (execBinit f a b s) := by
  refine h.runInstr ?_
  dsimp only
  split
  · exact .error
  · refine .ite .error ?_
    split
    · exact .error
    · exact h.holdBack
    · next e =>
        have h2 := h.barObj e
        exact h2.write.write.wrote.barAck.done
theorem Inv.noteMine {w o gen} (h : Inv s) : Inv (s.noteMine w o gen) := h.noteBarOf
theorem Inv.barOf {w o gen} (h : Inv s) : Inv (s.barOf w o gen) := h.barDone.noteMine
theorem Inv.leaveBar {w d st a} (h : Inv s) : Inv (s.leaveBar w d st a) := .ite h.setReg.takeScoped h.setReg
theorem Inv.barWait {f w o d e g} (h : Inv s) : InvOk Ans.after (barWait f s w o d e g) := by
  unfold Machine.barWait
  split
  · exact h.leaveBar.done
  · exact .hold h.waiting
theorem Inv.execBarrierWaiterLeave {core strand} (h : Inv s) : InvOut (execBarrierWaiterLeave core strand s) := by
  unfold Machine.execBarrierWaiterLeave
  dsimp only
  split
  · exact .next h
  · refine .ite (.next h) ?_
    split
    · exact h.takeTrap.wakeAfter
    · refine .ite h.takeTrap.wakeAfter ?_
      split
      · exact .next h
      · exact .ite (.next h) (.next h.forget.learn.leaveBar.finish.wake)
theorem Inv.poisonNow {p} (h : Inv s) : Inv (s.poisonNow p) := .ite h (.ite h.barPoisonAt h)
theorem Inv.poisonBars {k code source} (h : Inv s) : Inv (s.poisonBars k code source) :=
  .foldl (fun _ _ => .poisonNow) _ h.setKernel
theorem Inv.poisonWaiting {ctx core} (h : Inv s) : Inv (s.poisonWaiting ctx core) :=
  .foldl (fun _ _ ht => .ite (.setKernel (.foldl (fun _ _ => .poisonNow) _ ht)) ht) _ h

/-! ## Bit streams -/

theorem Inv.streamBytes {w vas v lm t} (h : Inv s) (e : s.streamBytes w vas = .bits v lm t) : Inv t := by
  induction vas generalizing s v lm with
  | nil => cases e; exact h
  | cons va vas ih =>
    unfold State.streamBytes at e
    split at e
    · cases e
    · split at e
      · cases e
      · split at e
        · cases e
        · split at e
          · cases e
          · next e1 =>
              have h1 := h.useAll.readRows e1
              split at e
              · next e2 => cases e; exact ih h1 e2
              · exact ih h1 e
theorem Inv.stream {w p n v lm t} (h : Inv s) (e : s.stream w p n = .bits v lm t) : Inv t := by
  unfold State.stream at e
  dsimp only at e
  split at e
  · cases e; exact h
  · split at e
    · next e1 => cases e; exact h.streamBytes e1
    · exact h.streamBytes e
theorem Inv.setBitptr {w p} (h : Inv s) : Inv (s.setBitptr w p) := h.setStrand
theorem Inv.bsRead {w d n move} (h : Inv s) : InvOk Ans.after (bsRead s w d n move) := by
  unfold Machine.bsRead
  dsimp only
  split
  · exact .error
  · exact h.holdBack
  · next e =>
      have h1 := h.stream e
      exact .done (.ite h1.setReg.setBitptr h1.setReg)
theorem Inv.execBsgetT {f ty d n} (h : Inv s) : InvOut (execBsgetT f ty d n s) := by
  unfold Machine.execBsgetT
  refine h.runInstr ?_
  dsimp only
  split
  · exact .error
  · exact h.holdBack
  · next e =>
      have h1 := h.stream e
      exact h1.setTile.setBitptr.done

/-! ## Boot and images -/

theorem Inv.setImage {k image} (h : Inv s) : Inv (s.setImage k image) := h

/-! ## Matrix instructions -/

theorem Inv.mxaIssue {w o} (h : Inv s) : Inv (s.mxaIssue w o) := h.setLive
theorem Inv.clearTag {w t} (h : Inv s) : Inv (s.clearTag w t) := by
  unfold State.clearTag
  split
  · exact h.setLive
  · exact h
theorem Inv.execMldw {f ty k slot a} (h : Inv s) : InvOut (execMldw f ty k slot a s) := by
  unfold Machine.execMldw
  exact h.runInstr h.setLive.mxaIssue.done
theorem Inv.execMstrm {f ty slot d a c} (h : Inv s) : InvOut (execMstrm f ty slot d a c s) := by
  unfold Machine.execMstrm
  exact h.runInstr (.ite .error h.clearTag.mxaIssue.done)
theorem Inv.collect {w cover} (h : Inv s) : InvOk id (s.collect w cover) := by
  unfold State.collect
  dsimp only
  split
  · split
    · exact .error
    · exact .ok h
  · exact .ite .error (.ok h.setLive.raise)
theorem Inv.collected {w cover} (h : Inv s) : Inv (s.collected w cover) := by
  unfold State.collected
  dsimp only
  split <;> exact h.setLive
theorem Inv.mwaitDone {w cover len} (h : Inv s) : InvOut (s.mwaitDone w cover len) := by
  unfold State.mwaitDone
  split
  · exact h.collected.takeTrap
  · next e =>
      have h1 := h.collect e
      exact .next h1.finish

/-! ## The keyring -/

theorem Inv.grantWaiting {core q} (h : Inv s) : Inv (s.grantWaiting core q) := by
  unfold State.grantWaiting
  dsimp only
  split
  · exact h.setLive.setReg.finish
  · exact h.setLive
theorem Inv.tumble {core} (h : Inv s) : Inv (s.tumble core) :=
  .ite h (.foldl (fun _ _ ht => .ite ht.grantWaiting ht) _ h.setLive)
theorem InvOk.withReq {v} {go : Counts → Except Trap Ans} (hg : ∀ c, InvOk Ans.after (go c)) : InvOk Ans.after
    (withReq v go) :=
  .ite (hg _) .error
theorem Inv.execKacq {f d a} (h : Inv s) : InvOut (execKacq f d a s) := by
  refine h.runInstr ?_
  dsimp only
  refine .withReq (fun c => ?_)
  split
  · exact .error
  · exact h.tumble.setLive.setReg.done
  · exact .hold h.tumble.setLive.waiting

/-! ## Messages and inboxes -/

theorem Inv.sqAdvance {ctx k} (h : Inv s) : Inv (s.sqAdvance ctx k) := by
  induction k generalizing s with
  | zero => exact h
  | succ k ih => exact .ite (ih h.write) h
theorem Inv.sqDone {ctx n} (h : Inv s) : Inv (s.sqDone ctx n) := .sqAdvance h
theorem Inv.fillInbox {ctx core k} (h : Inv s) : Inv (s.fillInbox ctx core k) := by
  induction k generalizing s with
  | zero => exact h
  | succ k ih =>
    unfold State.fillInbox
    dsimp only
    split
    · exact h
    · exact .ite (ih h.setLive.sqDone) h
theorem Inv.msgSent {id p} (h : Inv s) : Inv (s.msgSent id p) := by
  unfold State.msgSent
  dsimp only
  refine .ite ?_ h.delPkt
  split
  · exact .ite h.ackPkt.finish h.ackPkt
  · exact h.ackPkt
theorem Inv.msgQueue {id p} (h : Inv s) : Inv (s.msgQueue id p) := .ite h h
theorem Inv.msgAccept {id} (h : Inv s) : Inv (s.msgAccept id) := by
  unfold State.msgAccept
  split
  · exact h
  · refine .ite h ?_
    refine .ite (.ite h.msgSent h) ?_
    split
    · exact h.delPkt
    · exact .ite h.msgQueue (.ite (.ite h.farRelease.setLive.msgSent h.msgQueue) (.ite (.ite h h.msgQueue.setPkt.report)
        (.ite (.ite h h.msgQueue.setPkt.report) h.divert.msgSent)))
theorem Inv.msgWithdraw {w id} (h : Inv s) : Inv (s.msgWithdraw w id) := by
  unfold State.msgWithdraw
  split
  · split
    · exact h.delPkt.packBack
    · exact h.delPkt
  · exact h
theorem Inv.msgRefuse {id cause} (h : Inv s) : InvOut (s.msgRefuse id cause) := by
  unfold State.msgRefuse
  dsimp only
  split
  · exact .next h
  · refine .ite (.next h) ?_
    split
    · exact .next h
    · exact h.msgWithdraw.takeTrap
theorem Inv.takeMsg {w d a n} (h : Inv s) : Inv (s.takeMsg w d a n) := by
  unfold State.takeMsg
  dsimp only
  split
  · exact h
  · exact h.setLive.learnIds.fillInbox.setRegs.setReg
theorem Inv.execMrecvWaitEnd {core strand} (h : Inv s) : InvOut (execMrecvWaitEnd core strand s) := by
  unfold Machine.execMrecvWaitEnd
  dsimp only
  split
  · exact .next h
  · exact .ite (.next h) (.next h.takeMsg.finish.wake)
theorem Inv.execSpillQueueSpaceFree {pkt} (h : Inv s) : InvOut (execSpillQueueSpaceFree pkt s) := by
  unfold Machine.execSpillQueueSpaceFree
  split
  · exact .next h
  · exact .ite (.next h) (.ite (.next h.msgAccept.wake) (.next h.storeArrive.wake))

/-! ## Live and shadow frames -/

theorem Inv.swapPage {slot z} (h : Inv s) : Inv (s.swapPage slot z) := .foldl (fun _ _ ht => ht.write.write) _ h
theorem Inv.dropSlot {slot inS} (h : Inv s) : Inv (s.dropSlot slot inS) := h
theorem Inv.dropIn {lo n inS} (h : Inv s) : Inv (s.dropIn lo n inS) :=
  .mapEarly (.foldl (fun _ _ ht => .ite (.foldl (fun _ _ hu => .ite hu.dropLine hu) _ ht) ht) _ h)
theorem Inv.readNow {w lo n k} (h : Inv s) : Inv (s.readNow w lo n k) := by
  unfold State.readNow
  dsimp only
  split
  · refine .ite (.setStrand ?_) h
    split
    · exact h
    · exact h.loadAt
  · exact h
theorem Inv.readAllIn {lo n} (h : Inv s) : Inv (s.readAllIn lo n) := by
  refine .foldl (fun t x ht => ?_) _ (.foldl (fun _ _ ht => .foldl (fun _ _ hu => .foldl
      (fun _ _ hv => hv.readNow) _ hu) _ ht) _ h)
  refine .ite ht ?_
  split
  · exact ht.perform
  · exact ht.perform
  · exact ht.landStore.setPkt
  · exact ht
theorem Inv.readAllSlot {slot} (h : Inv s) : Inv (s.readAllSlot slot) :=
  .foldl (fun _ _ ht => .ite ht (.ite ht.perform ht.setPkt)) _ h
theorem Inv.latchPages {pages inS} (h : Inv s) : Inv (s.latchPages pages inS) :=
  .foldl (fun _ _ ht => ht.readAllIn.readAllIn.readAllSlot.dropIn.dropIn.swapPage.dropSlot) _ h
theorem Inv.execLatch {f a b e} (h : Inv s) : InvOut (execLatch f a b e s) := by
  refine h.runInstr ?_
  dsimp only
  refine .ite .error ?_
  refine .ite .error ?_
  refine .ite .error ?_
  split
  · exact .error
  · refine .ite h.holdBack ?_
    refine .ite h.holdBack ?_
    split
    · exact .error
    · next e =>
        have h2 := h.useAll.readRows e
        split
        · exact .error
        · exact .ite h.holdBack h2.publish.latchPages.done
theorem Inv.dropEnts {hit} (h : Inv s) : Inv (s.dropEnts hit) := h

/-! ## Save slots -/

theorem Inv.writeSlot {base l} (h : Inv s) : Inv (s.writeSlot base l) :=
  .foldl (fun _ _ ht => ht.write) _ (wf_memClear _ _ h)
theorem Inv.resave {key l} (h : Inv s) : Inv (s.resave key l) :=
  .ite h (.ite h (.foldl (fun _ _ ht => .ite ht ht.write) _ h))

/-! ## Kernels and groups -/

theorem Inv.setCtxState {ctx core l} (h : Inv s) : Inv (s.setCtxState ctx core l) := .ite h.setLive h.resave
theorem Inv.mapCtxStates {g} (h : Inv s) : Inv (s.mapCtxStates g) := .foldl (fun _ _ ht => ht.resave) _ h
theorem Inv.setGroup {k g v} (h : Inv s) : Inv (s.setGroup k g v) := h.setKernel
theorem Inv.holdPlaces {die} (h : Inv s) : Inv (s.holdPlaces die) := by
  unfold State.holdPlaces
  split
  · exact h
  · exact .ite h h.setGroup
theorem Inv.openBarrier {st} (h : Inv s) : Inv (s.openBarrier st) := by
  unfold State.openBarrier
  split
  · exact .ite h (.ite h h)
  · exact h
theorem Inv.settleStrand {w} (h : Inv s) : Inv (s.settleStrand w) := by
  unfold State.settleStrand
  dsimp only
  split
  · split
    · exact .ite h (.finish (.takeIn h))
    · exact h
  · exact h
theorem Inv.endPhase {k n bx by_ count} (h : Inv s) : Inv (s.endPhase k n bx by_ count) := by
  unfold State.endPhase
  split
  · exact h
  · exact .ite h h
theorem Inv.settleDomains (h : Inv s) : Inv (s.settleDomains) :=
  .foldl (fun _ _ ht => ht.endPhase) _ (.foldl (fun _ _ ht => .foldl (fun _ _ hu => hu.settleStrand) _ ht) _
      (.foldl (fun _ _ ht => .foldl (fun _ _ hu => hu.openBarrier) _ ht) _ (.foldl (fun _ _ ht => .foldl
      (fun _ _ hu => hu.openBarrier) _ ht) _ h)))
theorem Inv.raiseQueue {q} (h : Inv s) : Inv (s.raiseQueue q) := h.write.write
theorem Inv.groupEnded {k} (h : Inv s) : Inv (s.groupEnded k) := .ite h.setKernel h
theorem Inv.memberExit {k g w} (h : Inv s) : Inv (s.memberExit k g w) := .ite h.setGroup.groupEnded h.setGroup
theorem Inv.exitStrand {w} (h : Inv s) : Inv (s.exitStrand w) := by
  unfold State.exitStrand
  dsimp only
  split
  · exact h.setLive.memberExit.holdPlaces.settleDomains
  · exact h.setLive
theorem Inv.stopKernel {k ks} (h : Inv s) : Inv (s.stopKernel k ks) := .settleDomains (.setKernel h.mapCtxStates)
theorem Inv.releaseKept {k} (h : Inv s) : Inv (s.releaseKept k) := h.mapCtxStates
theorem Inv.discardClaims {k} (h : Inv s) : Inv (s.discardClaims k) :=
  .setKernel (.foldl (fun _ _ ht => ht.dropFrame.setShadow) _ h)
theorem Inv.kernelFaulted {k cc} (h : Inv s) : Inv (s.kernelFaulted k cc) := by
  unfold State.kernelFaulted
  dsimp only
  split
  · exact h.poisonBars.stopKernel
  · exact h.poisonBars.stopKernel
  · exact h.poisonBars.stopKernel
  · exact h.setKernel
  · exact h
theorem Inv.kernelAbandoned {k cc} (h : Inv s) : Inv (s.kernelAbandoned k cc) := by
  unfold State.kernelAbandoned
  split
  · exact h.poisonBars.stopKernel.releaseKept.discardClaims.setKernel.raiseQueue
  · exact h.poisonBars.stopKernel.releaseKept.discardClaims.setKernel.raiseQueue
  · exact h.poisonBars.stopKernel.releaseKept.discardClaims.setKernel.raiseQueue
  · exact h.releaseKept.discardClaims.setKernel.raiseQueue
  · exact h
theorem Inv.confirm {k} (h : Inv s) : Inv (s.confirm k) := h.setKernel.raiseQueue
theorem Inv.publishAll {cores} (h : Inv s) : Inv (s.publishAll cores) :=
  .foldl (fun _ _ ht => .foldl (fun _ _ hu => hu.writeBack) _ ht) _ h
theorem Inv.retireKernel {k} (h : Inv s) : Inv (s.retireKernel k) :=
  .ite h (.ite h.publishAll.latchPages.setKernel.raiseQueue h.publishAll.latchPages.setKernel.raiseQueue.confirm)
theorem Inv.lostPkt {id p} (h : Inv s) : Inv (s.lostPkt id p) := by
  unfold State.lostPkt
  split
  · exact .ite h.delPkt (.ite h.packBack.delPkt (.ite h.delPkt h.setPkt))
  · exact h.delPkt
theorem Inv.faultWhy {k why r t} (h : Inv s) (e : s.faultWhy k why = some (r, t)) : Inv t := by
  unfold State.faultWhy at e
  cases why with
  | memory | scan =>
    dsimp only at e
    split at e <;> cases e
    exact h
  | held | xfer =>
    dsimp only at e
    split at e
    · split at e
      · split at e <;> cases e
        exact h.setCtxState
      · cases e
    · cases e
  | service =>
    dsimp only at e
    split at e
    · split at e <;> cases e
      exact h.lostPkt
    · cases e
theorem Inv.execKernelFault {kernel why cc} (h : Inv s) : InvOut (execKernelFault kernel why cc s) := by
  unfold Machine.execKernelFault
  split
  · refine .ite (.next h) ?_
    split
    · next e =>
        have h2 := h.faultWhy e
        exact .next h2.kernelFaulted.report.wake
    · exact .next h
  · refine .ite (.next h) ?_
    split
    · next e =>
        have h2 := h.faultWhy e
        exact .next h2.kernelFaulted.report.wake
    · exact .next h
  · refine .ite (.next h) ?_
    split
    · next e =>
        have h2 := h.faultWhy e
        exact .next h2.kernelFaulted.report.wake
    · exact .next h
  · refine .ite (.next h) ?_
    split
    · next e =>
        have h2 := h.faultWhy e
        exact .next h2.kernelFaulted.report.wake
    · exact .next h
  · split
    · refine .ite (.next h) ?_
      split
      · next e =>
          have h3 := h.faultWhy e
          exact .next h3.report.wake
      · exact .next h
    · exact .next h
theorem Inv.ctxWrite {ctx va bs} (h : Inv s) : Inv (s.ctxWrite ctx va bs) := by
  induction bs generalizing s va with
  | nil => exact h
  | cons b bs ih =>
    refine ih ?_
    split
    · exact h.dropFrame.write
    · exact h
theorem Inv.serviceKernel {k cc} (h : Inv s) : Inv (s.serviceKernel k cc) :=
  .ite h (.ite h.discardClaims.releaseKept.ctxWrite.setKernel h.kernelAbandoned)

/-! ## Queues -/

theorem Inv.setQueue {q v} (h : Inv s) : Inv (s.setQueue q v) := h
theorem Inv.setQState {q st slot} (h : Inv s) : Inv (s.setQState q st slot) := h.write
theorem Inv.mapQueue {q slot} (h : Inv s) : Inv (s.mapQueue q slot) := h.setQState.of_mem rfl
theorem Inv.unmapQueue {q} (h : Inv s) : Inv (s.unmapQueue q) := h.setQState.of_mem rfl
theorem Inv.settleIdle {die n} (h : Inv s) : Inv (s.settleIdle die n) := by
  induction n generalizing s with
  | zero => exact h
  | succ n ih =>
    unfold State.settleIdle
    split
    · exact h
    · split
      · exact ih h.mapQueue
      · split
        · exact ih h.unmapQueue.mapQueue
        · exact h
theorem Inv.settleKeys {die n} (h : Inv s) : Inv (s.settleKeys die n) := by
  induction n generalizing s with
  | zero => exact h
  | succ n ih =>
    unfold State.settleKeys
    split
    · exact h
    · dsimp only
      split
      · exact .ite (ih h.unmapQueue.mapQueue) h
      · exact h
theorem Inv.wantSlot {q wasWaiting} (h : Inv s) : Inv (s.wantSlot q wasWaiting) := by
  refine .ite h ?_
  split
  · exact h.mapQueue
  · exact .ite h h
theorem Inv.homePieces {w ps v} (h : Inv s) : Inv (s.homePieces w ps v) := by
  unfold State.homePieces
  induction ps generalizing s v with
  | nil => exact h
  | cons p ps ih =>
    refine ih ?_
    split
    · exact h.writeHome
    · exact h.writeHome
    · exact h.storeAt
theorem Inv.doneRmw {w va q} (h : Inv s) : Inv (s.doneRmw w va q) := h.setHeads.missed
theorem Inv.execQpost {f d a b} (h : Inv s) : InvOut (execQpost f d a b s) := by
  refine h.runInstr ?_
  dsimp only
  refine .ite .error ?_
  refine .ite .error ?_
  split
  · exact .error
  · split
    · exact .error
    · refine .ite h.holdBack ?_
      refine .ite h.holdBack ?_
      split
      · exact .error
      · next e =>
          have h3 := h.useAll.readRows e
          split
          · exact .error
          · refine .ite .error ?_
            refine .ite h.holdBack ?_
            refine .ite h3.useXlat.learn.publish.setReg.done ?_
            refine .ite h3.useXlat.learn.publish.setReg.done ?_
            split
            · exact .error
            · exact
                .ite h.holdBack h3.useXlat.learn.publish.useAll.forget.bypass.doneRmw.write.homePieces.wantSlot.setReg.done
theorem Inv.publishPacket {q k} (h : Inv s) : Inv (s.publishPacket q k) := .ite h h.setQueue
theorem Inv.execQwait {f conf d a b} (h : Inv s) : InvOut (execQwait f conf d a b s) := by
  refine h.runInstr ?_
  dsimp only
  split
  · exact .error
  · refine .ite h.holdBack ?_
    refine .ite h.holdBack ?_
    split
    · exact .error
    · exact .ite h.useXlat.setReg.takeIn.done (.hold h.useXlat.waiting)
theorem Inv.execQwaitEnd {core strand} (h : Inv s) : InvOut (execQwaitEnd core strand s) := by
  unfold Machine.execQwaitEnd
  dsimp only
  split
  · exact .next h
  · exact .ite (.next h.setReg.takeIn.finish.wake) (.next h)
theorem Inv.execKinfo {f d a b} (h : Inv s) : InvOut (execKinfo f d a b s) := by
  refine .ite (h.runInstr h.setReg.done) (h.runInstr ?_)
  split
  · exact .error
  · refine .ite h.holdBack (.ite h.holdBack ?_)
    split
    · exact .error
    · exact .ite .error h.useXlat.setReg.done
theorem Inv.execQueueCreate {va ring ctx qid hostq qprio die logcap} (h : Inv s) : InvOut
    (execQueueCreate va ring ctx qid hostq qprio die logcap s) := by
  unfold Machine.execQueueCreate
  dsimp only
  split
  · exact .next h
  · split
    · exact .ite (.next h) (.next h.dropFrame.write.setQueue.wake)
    · exact .next h
theorem Inv.advanceRead {q n} (h : Inv s) : Inv (s.advanceRead q n) := by
  induction n generalizing s with
  | zero => exact h
  | succ n ih => exact .ite (ih h.write.setQueue) h
theorem Inv.takePacket {q k} (h : Inv s) : Inv (s.takePacket q k) := .advanceRead h
theorem Inv.serveQueue {q} (h : Inv s) : Inv (s.serveQueue q) := by
  refine .ite h ?_
  split
  · exact h
  · exact .ite h h.setQState.write.report
  · exact .ite h.takePacket h.takePacket

/-! ## The die placer -/

theorem Inv.placeGroup {kid g x0 y0} (h : Inv s) : Inv (s.placeGroup kid g x0 y0) :=
  .ite h (.ite (.ite h.holdPlaces h.holdPlaces) (.ite h.holdPlaces.setGroup h.holdPlaces))
theorem Inv.startMember {kid g w} (h : Inv s) : Inv (s.startMember kid g w) := h
theorem Inv.putAround {c off bs} (h : Inv s) : Inv (s.putAround c off bs) := by
  induction bs generalizing s off with
  | nil => exact h
  | cons b bs ih => exact ih (.ite h h.write)
theorem Inv.putImage {ctx c} (h : Inv s) : Inv (s.putImage ctx c) := .ite h.putAround (.clearUnits (wf_memWriteBytes _ _ h))
theorem Inv.startGroup {kid g} (h : Inv s) : Inv (s.startGroup kid g) :=
  .ite h (.setGroup (.setKernel (.foldl (fun _ _ ht => ht.takeIn) _ (.foldl (fun _ _ ht => ht.startMember) _
      (.foldl (fun _ _ ht => .ite ht ht.putImage) _ h)))))
theorem Inv.stepPatience {die} (h : Inv s) : Inv (s.stepPatience die) := by
  unfold State.stepPatience
  dsimp only
  split
  · refine .ite h ?_
    split
    · exact h
    · exact .holdPlaces (.setGroup h)
  · exact h
theorem Inv.settleOrder {die} (h : Inv s) : Inv (s.settleOrder die) := .foldl (fun _ _ ht => ht.setQueue) _ h
theorem Inv.boundary {die heavy} (h : Inv s) : Inv (s.boundary die heavy) :=
  .ite h (.stepPatience (.settleOrder (.settleKeys (.settleIdle h))))

/-! ## Supersteps -/

theorem Inv.setDomain {w n} (h : Inv s) : Inv (s.setDomain w n) := h.setStrand.clearStatus
theorem Inv.execGdomWaitEnd {core strand} (h : Inv s) : InvOut (execGdomWaitEnd core strand s) := by
  unfold Machine.execGdomWaitEnd
  dsimp only
  split
  · exact .next h
  · exact .next (.ite h.setDomain.finish.wake h)
theorem Inv.execSstep {f a} (h : Inv s) : InvOut (execSstep f a s) := by
  refine h.runInstr ?_
  dsimp only
  refine .ite .error ?_
  split
  · exact .error
  · exact .ite h.holdBack (.ite h.holdBack (.hold h.publish.setStrand.waiting.settleDomains))
theorem Inv.execStaggeredRelease {core strand} (h : Inv s) : InvOut (execStaggeredRelease core strand s) := by
  unfold Machine.execStaggeredRelease
  dsimp only
  split
  · exact .next h
  · exact .ite (.next h) (.next h.setStrand.takeIn.finish.wake)
theorem Inv.sendRow {w slot row off} (h : Inv s) : Inv (s.sendRow w slot row off) := h.send
theorem Inv.execTsendSlotStart {core strand} (h : Inv s) : InvOut (execTsendSlotStart core strand s) := by
  unfold Machine.execTsendSlotStart
  dsimp only
  split
  · exact .ite (.next h) (.next h.sendRow.setStrand.finish.wake)
  · exact .next h
theorem Inv.resumeRow {w} (h : Inv s) : InvOut (s.resumeRow w) := by
  unfold State.resumeRow
  dsimp only
  split
  · exact .ite (.next h) h.setStrand.takeTrap
  · exact .next h
theorem Inv.landRow {id} (h : Inv s) : Inv (s.landRow id) := by
  unfold State.landRow
  split
  · exact h
  · refine .ite h ?_
    dsimp only
    split
    · exact .ite (.settleDomains (.delPkt (.ite h h.storeArriveGo))) (.ite h h.storeArriveGo)
    · exact .ite h h.storeArriveGo

/-! ## Hinge sets -/

theorem Inv.setHSlot {core k h'} (h : Inv s) : Inv (s.setHSlot core k h') := h.setLive
theorem Inv.withBlock {w hs parts} {go : Except Trap Ans} (_ : Inv s) (hg : InvOk Ans.after go) :
    InvOk Ans.after (withBlock s w hs parts go) := by
  unfold Machine.withBlock
  split
  · exact .error
  · exact hg
theorem Inv.hingeFault {core k e ctx strand pc prog seq} (h : Inv s) : Inv (s.hingeFault core k e ctx strand pc prog seq) :=
  h.report
theorem Inv.putVals {a vs} (h : Inv s) : Inv (s.putVals a vs) := by
  induction vs generalizing s a with
  | nil => exact h
  | cons v vs ih => exact ih h.write.clearUnits
theorem Inv.addW {a v} (h : Inv s) : Inv (s.addW a v) := h.write
theorem Inv.setSat {b} (h : Inv s) : Inv (s.setSat b) := h.write
theorem Inv.splitBlock {core k target whole} (h : Inv s) : Inv (s.splitBlock core k target whole).1 :=
  h.putVals.write.write.write.putVals.write.addW
theorem Inv.settleHalf {core k seq code} (h : Inv s) : Inv (s.settleHalf core k seq code) := by
  unfold State.settleHalf
  dsimp only
  split
  · exact h
  · exact .write (.write (.ite h.addW h.putVals.addW))
theorem Inv.hingePush {core k target whole by'} (h : Inv s) : Inv (s.hingePush core k target whole by').1 := by
  have h1 : Inv (s.splitBlock core k target whole).1 := h.splitBlock
  unfold State.hingePush
  generalize s.splitBlock core k target whole = x at h1
  obtain ⟨s1, seq, dq, dm⟩ := x
  dsimp only
  split
  · dsimp only
    split
    · exact h1.settleHalf.ackNow
    · exact h1.settleHalf
  · split
    · exact h1.send
    · exact h1
theorem Inv.hingeReply {id p code} (h : Inv s) : Inv (s.hingeReply id p code) := h.setPkt
theorem Inv.receive {id p} (h : Inv s) : Inv (s.receive id p) := by
  unfold State.receive
  dsimp only
  split
  · exact h.hingeReply
  · refine .ite h.hingeReply ?_
    split
    · exact h.hingeReply
    · split
      · exact .ite h h.setPkt.hingeFault
      · exact .ite (.ite h.setPkt h.delPkt) (.ite h.setHSlot.hingeReply (.ite h.setHSlot.hingeReply
          (.ite h.setHSlot.hingeReply (.ite h.setHSlot.hingeReply h.setHSlot.setHSlot.putVals.write.addW.hingeReply))))
theorem Inv.reopen {core k} (h : Inv s) : Inv (s.reopen core k) := h.setHSlot
theorem Inv.leaveNow {w k target} (h : Inv s) : Inv (s.leaveNow w k target).1 := by
  unfold State.leaveNow
  dsimp only
  split
  · exact h.hingePush
  · exact h.hingePush.setHSlot
theorem Inv.settleHingeOf {w} (h : Inv s) : Inv (s.settleHingeOf w) := by
  unfold State.settleHingeOf
  split
  · exact h
  · refine .ite h.setStrand (.ite (.ite h.finish h) (.ite (.ite h.setReg.finish (.ite h ?_)) h))
    dsimp only
    split
    · exact h.leaveNow.setReg.finish
    · exact h.leaveNow.setStrand
theorem Inv.settleHinge {core} (h : Inv s) : Inv (s.settleHinge core) := .foldl (fun _ _ ht => ht.settleHingeOf) _ h
theorem Inv.leaveReply {w birth k code} (h : Inv s) : Inv (s.leaveReply w birth k code) := by
  unfold State.leaveReply
  dsimp only
  split
  · exact .ite (.finish (.setReg (.ite h.write.putVals.setHSlot h.reopen))) (.ite h.write.putVals.setHSlot h.reopen)
  · exact .ite h.write.putVals.setHSlot h.reopen
theorem Inv.hingeReplied {id p code} (h : Inv s) : Inv (s.hingeReplied id p code) := by
  unfold State.hingeReplied
  dsimp only
  refine .ite h.delPkt ?_
  refine .ite h ?_
  split
  · exact h.ackPkt
  · split
    · exact .ite h h.setPkt.hingeFault
    · exact .settleHinge (.ite h.ackPkt.settleHalf.leaveReply h.ackPkt.settleHalf)
theorem Inv.planPause {core} (h : Inv s) : Inv (s.planPause core) :=
  .settleHinge (.foldl (fun _ _ ht => .ite ht.setHSlot ht) _ h)
theorem Inv.hingeOp {f id ops} {go : State → Who → Nat → HSlot → Except Trap Ans} (h : Inv s)
    (hg : ∀ t w k hs, Inv t → InvOk Ans.after (go t w k hs)) : InvOut (hingeOp f id ops s go) := by
  refine h.runInstr ?_
  split
  · exact .error
  · exact hg _ _ _ _ h
theorem Inv.openSet {f join id slot a b} (h : Inv s) : InvOut (openSet f join id slot a b s) := by
  unfold Machine.openSet
  refine h.runInstr ?_
  refine .ite .error (.ite .error (.ite .error (.ite .error (.ite .error ?_))))
  split
  · exact .error
  · dsimp only
    split
    · exact .error
    · refine .ite .error ?_
      split
      · exact .error
      · refine .retire (.setHSlot (.clearUnits (.clearUnits (wf_memClear _ _ (wf_memClear _ _ ?_)))))
        exact Inv.ite (.putVals (.ite h.putVals h)) (.ite h.putVals h)
theorem Inv.putElems {b rs} (h : Inv s) : Inv (s.putElems b rs) :=
  .foldl (fun _ _ ht => .ite ht.putVals.setSat ht.putVals) _ h
theorem Inv.execHleave {f id d a} (h : Inv s) : InvOut (execHleave f id d a s) := by
  refine h.hingeOp fun t w k hs ht => .ite .error (.ite ht.setReg.done (ht.withBlock (.ite (.hold ht.waiting) ?_)))
  dsimp only
  split
  · exact ht.leaveNow.setReg.done
  · exact .hold ht.leaveNow.waiting
theorem Inv.execHdisag {f id d} (h : Inv s) : InvOut (execHdisag f id d s) := by
  refine h.hingeOp (fun s w k h ht => ?_)
  split
  · exact .error
  · exact ht.setHSlot.clearStatus.setReg.done
theorem Inv.hingeTick {core k} (h : Inv s) : Inv (s.hingeTick core k) := by
  unfold State.hingeTick
  dsimp only
  refine .ite h ?_
  split
  · exact h.setHSlot
  · split
    · exact .ite h.setHSlot h.setHSlot.hingeFault
    · exact .ite h.setHSlot h.setHSlot.hingePush.setHSlot
theorem Inv.execHingePushArrive {pkt} (h : Inv s) : InvOut (execHingePushArrive pkt s) := by
  unfold Machine.execHingePushArrive
  split
  · exact .next (.ite h.receive.wake h)
  · exact .next h
theorem Inv.execHingeReplyArrive {pkt code} (h : Inv s) : InvOut (execHingeReplyArrive pkt code s) := by
  unfold Machine.execHingeReplyArrive
  split
  · exact .next h
  · split
    · exact .next (.ite h.hingeReplied.wake h)
    · exact .next (.ite h.hingeReplied.wake h)
    · exact .next h

/-! ## System instructions -/

theorem Inv.putStatus {w sel v} (h : Inv s) : Inv (s.putStatus w sel v) := by
  unfold State.putStatus
  split
  · exact h.setStrand
  · exact h.setStrand
  · exact h.setStrand
  · exact h.setStrand
  · exact h.setStrand
  · exact h.setStrand
  · exact h.setStrand
  · exact h.setLive
  · exact h.setLive
  · exact h.setLive
  · exact .ite h.setStrand h
theorem Inv.putLoop {w len sel v} (h : Inv s) : Inv (putLoop s w len sel v).after := h.setStrand.putStatus.clearStatus
theorem Inv.execMts {f ssel a} (h : Inv s) : InvOut (execMts f ssel a s) := by
  unfold Machine.execMts
  refine h.runInstr ?_
  dsimp only
  split
  · exact .error
  · exact .ite (.ok h.putLoop) h.putStatus.clearStatus.done

/-! ## The xfer engine -/

theorem Inv.engRead {core r va n} (h : Inv s) : InvOk (·.2.2) (s.engRead core r va n) := by
  unfold State.engRead
  dsimp only
  split
  · exact .error
  · refine .ite .error (.ite .error ?_)
    split
    · exact .error
    · refine .ite .error ?_
      split
      · exact .error
      · refine .ok ?_
        dsimp only
        split
        · exact h.useXlat.loadAt
        · exact h.useXlat.readAt
theorem Inv.copyAround {src dst n} (h : Inv s) : Inv (s.copyAround src dst n) :=
  .ite (.foldl (fun _ _ ht => .ite ht ht.write) _ h) h.copyFrame
theorem Inv.fillFrame {core r t} (h : Inv s) : Inv (s.fillFrame core r t) := by
  refine .ite ?_ h.dropFrame.copyFrame
  refine .foldl (fun t x ht => ?_) _ h
  split
  · exact ht.copyAround
  · exact ht
theorem Inv.touchShadowPlain {core r t sh} (h : Inv s) : Inv (State.touchShadow.plain core r t s sh) :=
  .setShadow (.ite h.fillFrame h)
theorem Inv.touchShadow {core r t} (h : Inv s) : Inv (s.touchShadow core r t) := by
  refine .ite h ?_
  split
  · exact .ite h.claimFrame h.touchShadowPlain
  · exact h.touchShadowPlain
theorem Inv.engWrite {core r va n v mask} (h : Inv s) : InvOk (·.2) (s.engWrite core r va n v mask) := by
  unfold State.engWrite
  dsimp only
  split
  · exact .error
  · split
    · exact .error
    · refine .ite .error (.ite .error ?_)
      split
      · exact .error
      · exact .ite (.ok h.useXlat.touchShadow) (.ok (.setHeads (.clearUnits (.write
          (.ite h.useXlat.touchShadow h.useXlat.touchShadow.dropFrame)))))
theorem Inv.addConf {core flats} (h : Inv s) : Inv (s.addConf core flats) := .ite h h.setLive
theorem Inv.readElems {core r src ks} (h : Inv s) : Inv (s.readElems core r src ks).1 := by
  induction ks generalizing s with
  | nil => exact h
  | cons k ks ih =>
    unfold State.readElems
    split
    · exact h
    · next e => exact ih (h.engRead e)
theorem Inv.writeElems {core r src dst m js} (h : Inv s) : Inv (s.writeElems core r src dst m js).1 := by
  induction js generalizing s with
  | nil => exact h
  | cons j js ih =>
    unfold State.writeElems
    dsimp only
    split
    · exact h
    · split
      · exact h
      · next e =>
          have h1 := h.engWrite e
          split
          · exact h
          · next e2 =>
              refine ih ?_
              repeat' split at e2
              all_goals cases e2
              · next e3 => exact h1.engWrite e3
              · exact h1
theorem Inv.clearPieces {dst ws} (h : Inv s) : Inv (s.clearPieces dst ws) := .ite h h
theorem Inv.runElems {core r src dst limit fuel j out} (h : Inv s) :
    Inv (s.runElems core r src dst limit fuel j out).1 := by
  induction fuel generalizing s j out with
  | zero => exact h
  | succ fuel ih =>
    unfold State.runElems
    dsimp only
    split
    · exact h
    · split
      · exact h.readElems.writeElems.addConf.addConf
      · exact h.readElems.writeElems.addConf.addConf
      · exact ih h.readElems.writeElems.addConf.addConf
theorem Inv.setXfer {core slot r} (h : Inv s) : Inv (s.setXfer core slot r) := h.setLive
theorem Inv.runXfer {core slot r upTo} (h : Inv s) : Inv (s.runXfer core slot r upTo).1 := by
  unfold State.runXfer
  exact h.runElems.clearPieces.setXfer
theorem Inv.noteXferBar {core r} (h : Inv s) : Inv (s.noteXferBar core r) := .ite h h.noteBarOf
theorem Inv.execXfer {f xf bud d a b} (h : Inv s) : InvOut (execXfer f xf bud d a b s) := by
  unfold Machine.execXfer
  refine h.runInstr ?_
  dsimp only
  split
  · exact .error
  · exact .error
  · refine .ite h.holdBack ?_
    split
    · exact .error
    · split
      · exact .error
      · split
        · exact .error
        · exact .error
        · refine .ite .error ?_
          refine .ite .error ?_
          split
          · exact h.holdBack
          · exact .done (.noteXferBar (.setXfer h))
theorem Inv.xferStart {core} (h : Inv s) : Inv (s.xferStart core) := by
  refine .ite h ?_
  split
  · exact h.setXfer
  · exact h
theorem Inv.xferStop {core slot r f} (h : Inv s) : Inv (s.xferStop core slot r f) := h.setXfer.report
theorem Inv.engArrive {core r t} (h : Inv s) (e : s.engArrive core r = .arrived t) : Inv t := by
  unfold State.engArrive at e
  dsimp only at e
  repeat' split at e
  all_goals cases e
  · exact h
  · exact h.bypass.recall.barArriveAt.barDone.genOf
theorem Inv.xferPiece {core slot} (h : Inv s) : Inv (s.xferPiece core slot) := by
  unfold State.xferPiece
  dsimp only
  split
  · exact h
  · exact .ite h h.runXfer
theorem Inv.xferComplete {core slot} (h : Inv s) : Inv (s.xferComplete core slot) := by
  unfold State.xferComplete
  split
  · exact h
  · dsimp only
    split
    · exact h
    · split
      · next e => exact (h.runXfer.engArrive e).setXfer
      · exact h.runXfer.xferStop
      · exact h
theorem Inv.xferFault {core slot} (h : Inv s) : Inv (s.xferFault core slot) := by
  unfold State.xferFault
  split
  · exact h
  · dsimp only
    split
    · exact h.runXfer.xferStop
    · exact h
    · split
      · exact h.runXfer.xferStop
      · exact h
theorem Inv.rereadXfer {core slot r} (h : Inv s) : Inv (s.rereadXfer core slot r) := by
  unfold State.rereadXfer
  split
  · exact h.setXfer
  · exact .ite h.setXfer h.xferStop
theorem Inv.execXferResume {core slot} (h : Inv s) : InvOut (execXferResume core slot s) := by
  unfold Machine.execXferResume
  split
  · exact .ite (.next h) (.ite (.next h.rereadXfer.wake) (.next h.setXfer.wake))
  · exact .next h
theorem Inv.xferPark {core blocks} (h : Inv s) : Inv (s.xferPark core blocks) := by
  refine .foldl (fun t x ht => .ite ?_ ht) _ h
  dsimp only
  split
  · exact ht.runXfer.xferStop
  · exact ht.runXfer
theorem Inv.xferReread {core} (h : Inv s) : Inv (s.xferReread core) := .foldl (fun _ _ ht => ht.rereadXfer) _ h

/-! ## Contexts on cores -/

theorem Inv.noteCtx {ctx} (h : Inv s) : Inv (s.noteCtx ctx) := h.write
theorem Inv.setCoreSt {ctx core st} (h : Inv s) : Inv (s.setCoreSt ctx core st) := .noteCtx h
theorem Inv.beginSave {core} (h : Inv s) : Inv (s.beginSave core) := by
  unfold State.beginSave
  dsimp only
  split
  · exact h
  · refine .ite h ?_
    refine .setCoreSt ?_
    refine .setCore ?_
    refine .foldl (fun t x ht => ?_) _ h
    split
    · exact .setStrand (.ite ht.msgWithdraw ht)
    · exact ht
theorem Inv.keepErrors {core} (h : Inv s) : Inv (s.keepErrors core) := h.setLive
theorem Inv.errsOut {core base} (h : Inv s) : Inv (s.errsOut core base) := h
theorem Inv.errsIn {core base} (h : Inv s) : Inv (s.errsIn core base) := h
theorem Inv.dropCache {cl} (h : Inv s) : Inv (s.dropCache cl) := .foldl (fun _ _ ht => ht.dropLine) _ h
theorem Inv.rename {ctx f} (h : Inv s) : Inv (s.rename ctx f) := h
theorem Inv.endSave {core blocks} (h : Inv s) : Inv (s.endSave core blocks) := by
  unfold State.endSave
  split
  · exact h
  · refine .ite h (.rename (.setCoreSt (.setCore (wf_memClear _ _ (Inv.foldl (fun _ _ ht => ht.write) _ (.writeSlot
      (wf_memCopy _ _ _ ?_)))))))
    exact h.keepErrors.xferPark.publishAll.dropFrame.clearUnits
theorem Inv.moved {ctx old core} (h : Inv s) : Inv (s.moved ctx old core) := .ite h (.ite h (.dropCache h))
theorem Inv.beginRestore {core ctx} (h : Inv s) : Inv (s.beginRestore core ctx) :=
  .ite h (.ite h.dropFrame.report (.rename (.setCoreSt (.moved (.setCore (.errsIn (wf_memCopy _ _ _ h.dropFrame)))))))
theorem Inv.redeliver {ctx core n} (h : Inv s) : Inv (s.redeliver ctx core n) := by
  refine .sqDone ?_
  split
  · exact .ite h h.write.clearUnits.setHeads.missed
  · exact h
theorem Inv.hingeBack {core} (h : Inv s) : Inv (s.hingeBack core) :=
  .foldl (fun _ _ ht => .ite ht.setHSlot (.ite ht.setHSlot ht)) _ h
theorem InvOut.andThen {k : State → Host.Outcome State Fault Refusal} (ho : InvOut o) (hk : ∀ t, Inv t → InvOut (k t)) :
    InvOut (andThen o k) := by
  cases o with
  | next t => exact hk t (ho rfl)
  | _ => nofun
theorem Inv.endRestore {core} (h : Inv s) : InvOut (s.endRestore core) := by
  unfold State.endRestore
  split
  · exact .next h
  · exact .ite (.next h) (.andThen (.foldl (fun _ _ ht => .andThen ht fun _ hu => hu.resumeRow) _
      (.next (.wake (.poisonWaiting (.xferReread (.hingeBack (.fillInbox (.foldl (fun _ _ ht => .ite ht.loadArrive ht) _
      (.setCoreSt (.setCore (.foldl (fun _ _ ht => ht.redeliver) _ h))))))))))) fun _ ht =>
      .next ht.settleDomains.settleHinge.holdPlaces)
theorem Inv.resumeFirst {core cs} (h : Inv s) : Inv (s.resumeFirst core cs) := by
  induction cs generalizing s with
  | nil => exact h.setCore
  | cons c cs ih => exact .ite (.ite h.setCore.beginRestore (ih h.setCore.beginRestore)) h.setCore
theorem Inv.resumeAsked {core} (h : Inv s) : Inv (s.resumeAsked core) := .ite h h.resumeFirst
theorem Inv.execMeshInterruptMessage {core ctx} (h : Inv s) : InvOut (execMeshInterruptMessage core ctx s) := by
  unfold Machine.execMeshInterruptMessage
  split
  · exact .next h
  · exact .next (.ite h.beginSave.wake h)
theorem Inv.setPlan {p} (h : Inv s) : Inv (s.setPlan p) := h
theorem Inv.planOver {p} (h : Inv s) : Inv (s.planOver p) := .ite (.advancePlan h) h
theorem Inv.planOut {core out hpause} (h : Inv s) : InvOut (s.planOut core out hpause) :=
  .ite (.next h) (.ite (.andThen h.endRestore fun _ ht => .ite (.next (.beginSave (.ite ht.planPause ht))) (.next ht))
      (.ite (.next (.beginSave (.ite h.planPause h))) (.next h)))
theorem Inv.planAct {p core} (h : Inv s) : InvOut (s.planAct p core) :=
  .andThen (.ite (.next h) (.andThen h.planOut fun _ ht => .next (.ite ht.write ht))) fun _ ht => .ite
      (.next (.resumeAsked (.planOver (.setPlan (.ite ht ht.beginRestore))))) (.next ht.setPlan)
theorem Inv.execGangSwitchTime {die n core} (h : Inv s) : InvOut (execGangSwitchTime die n core s) := by
  unfold Machine.execGangSwitchTime
  split
  · exact .next h
  · exact .ite (.next h) h.planAct.wakeAfter
theorem Inv.createCtx {desc image} (h : Inv s) : Inv (s.createCtx desc image) := by
  have h1 : Inv (((s.write (desc + 3) 1 0).write (desc + 0x90) 8 0).write (desc + 0x98) 8 0) := h.write.write.write
  unfold State.createCtx
  generalize ((s.write (desc + 3) 1 0).write (desc + 0x90) 8 0).write (desc + 0x98) 8 0 = s1 at h1
  refine .ite h (.foldl (fun t c ht => ?_) _ (h1.of_mem rfl))
  exact .writeSlot (wf_memClear _ _ ht.dropFrame)
theorem Inv.execContextCreate {desc image} (h : Inv s) : InvOut (execContextCreate desc image s) := by
  unfold Machine.execContextCreate
  exact .next h.createCtx.wake

/-! ## Link events and the failure of a module -/

theorem Inv.putLink {k l} (h : Inv s) : Inv (s.putLink k l) := h.setLink.settleModules.wake
theorem Inv.linkFailed {k l} (h : Inv s) : Inv (s.linkFailed k l) := h.putLink.report
theorem Inv.execPortTrainRetry {port} (h : Inv s) : InvOut (execPortTrainRetry port s) := by
  unfold Machine.execPortTrainRetry
  dsimp only
  split
  · exact .ite (.next h.putLink) (.next h)
  · exact .next h
theorem Inv.fecFixed {port n} (h : Inv s) : Inv (s.fecFixed port n) := .ite h.setLink h
theorem Inv.settlePkt {cc id} (h : Inv s) : InvOut (s.settlePkt cc id) := by
  unfold State.settlePkt
  dsimp only
  split
  · exact .next h
  · split
    · refine .next ?_
      refine .ite h.setPkt ?_
      split
      · exact h.report.lostPkt.kernelFaulted
      · exact h.report.lostPkt
    · refine .next ?_
      refine .ite h.setPkt ?_
      split
      · exact h.report.lostPkt.kernelFaulted
      · exact h.report.lostPkt
    · refine .next ?_
      refine .ite h.setPkt ?_
      split
      · exact h.report.lostPkt.kernelFaulted
      · exact h.report.lostPkt
    · refine .next ?_
      refine .ite h.setPkt ?_
      refine .ite h.setPkt ?_
      split
      · exact h.report.lostPkt.kernelFaulted
      · exact h.report.lostPkt
    · exact .next h.setPkt
    · exact .next h.setPkt
    · exact h.msgRefuse
    · exact .next h.hingeReplied
    · exact .next h.hingeReplied
theorem Inv.settlePkts {cc ids} (h : Inv s) : InvOut (s.settlePkts cc ids) := by
  induction ids generalizing s with
  | nil => exact .next h
  | cons id ids ih =>
    have h1 : InvOut (s.settlePkt cc id) := h.settlePkt
    unfold State.settlePkts
    split
    · next e => exact ih (h1 e)
    · exact h1
theorem Inv.failModule {m cc} (h : Inv s) : InvOut (s.failModule m cc) := .settlePkts h
theorem Inv.execModuleFailTimeout {m cc} (h : Inv s) : InvOut (execModuleFailTimeout m cc s) := by
  unfold Machine.execModuleFailTimeout
  split
  · exact .ite h.failModule.wakeAfter (.next h)
  · exact .next h
theorem Inv.unlessDead {pkt} {go : Host.Outcome State Fault Refusal} (h : Inv s) (hg : InvOut go) :
    InvOut (s.unlessDead pkt go) := by
  unfold State.unlessDead
  split
  · exact .ite h.settlePkt.wakeAfter hg
  · exact hg
theorem Inv.execLquery {f d a q} (h : Inv s) : InvOut (execLquery f d a q s) := by
  refine h.runInstr ?_
  split
  · exact h.setReg.done
  · exact .error

/-! ## Scans and errors -/

theorem Inv.countError {cl corrected} (h : Inv s) : Inv (s.countError cl corrected) := h.setCtl
theorem Inv.refreshHealth {cl} (h : Inv s) : Inv (s.refreshHealth cl) := .ite (.report h) h
theorem Inv.scanSave {cl core} (h : Inv s) : InvOut (s.scanSave cl core) := by
  unfold State.scanSave
  dsimp only
  refine .ite (h.endRestore.andThen fun t ht => .next ?_) (.next ?_) <;> split
  · exact .beginSave ht
  · exact ht
  · exact .beginSave h
  · exact h
theorem Inv.execScanStart {die i} (h : Inv s) : InvOut (execScanStart die i s) :=
  .ite (.next h) (.wakeAfter (.foldl (fun _ _ ho => ho.andThen fun _ ht => ht.scanSave) _ (.next h)))
theorem Inv.passKernel {core begun k} (h : Inv s) : Inv (s.passKernel core begun k) :=
  .ite (.ite h.setKernel.confirm h.setKernel) h.setKernel
theorem Inv.passCore {begun core} (h : Inv s) : Inv (s.passCore begun core) := .foldl (fun _ _ ht => ht.passKernel) _ h
theorem Inv.fenceCore {cl k} (h : Inv s) : Inv (s.fenceCore cl k) :=
  .foldl (fun _ _ ht => .ite ht.kernelFaulted ht) _ h.setCore.setCtl.report
theorem Inv.scanBack {saved core} (h : Inv s) : InvOut (s.scanBack saved core) :=
  .andThen (.foldl (fun _ _ ht => .andThen ht fun _ hu => hu.planAct) _
      (.next (.foldl (fun _ _ ht => .ite ht.beginRestore ht) _ h))) fun _ ht => .next ht.resumeAsked
theorem Inv.execScanEnd {die i bad} (h : Inv s) : InvOut (execScanEnd die i bad s) := by
  unfold Machine.execScanEnd
  dsimp only
  split
  · exact .next h
  · refine .ite (.next h) (.wakeAfter (.foldl (fun _ _ ho => ho.andThen fun _ ht => ht.scanBack) _
      (.next (.refreshHealth ?_))))
    exact .ite (.setCtl (.foldl (fun _ _ ht => .ite ht.fenceCore (.ite ht ht.passCore)) _ h))
      (.foldl (fun _ _ ht => .ite ht.fenceCore (.ite ht ht.passCore)) _ h)
theorem Inv.rollback {why cc} (h : Inv s) : Inv (s.rollback why cc) := .foldl (fun _ _ ht => .ite ht.kernelFaulted ht) _ h
theorem Inv.execMachineCheck {die why cc} (h : Inv s) : InvOut (execMachineCheck die why cc s) := by
  unfold Machine.execMachineCheck
  split
  · exact .ite (.next h.rollback.wake) (.next h)
  · exact .ite (.next h) (.next h.rollback.report.wake)
theorem Inv.coreError {core e} (h : Inv s) : Inv (s.coreError core e) := h.setLive.countError
theorem Inv.memError {flat} (h : Inv s) : Inv (s.memError flat) := .ite (.countError h) h
theorem Inv.lineError {cl ln} (h : Inv s) : Inv (s.lineError cl ln) := by
  unfold State.lineError
  split
  · exact h
  · exact .ite h.delLine.countError h.setLine.countError

/-! ## Control register writes and steps of power -/

theorem Inv.dieWrite {die off v} (h : Inv s) : Inv (s.dieWrite die off v) := h.mmioWrite
theorem Inv.execMwaitEnd {core strand} (h : Inv s) : InvOut (execMwaitEnd core strand s) := by
  unfold Machine.execMwaitEnd
  dsimp only
  split
  · exact .next h
  · exact .ite (.next h) h.mwaitDone.wakeAfter

/-! ## Witness tiles -/

theorem Inv.wred {f op ty all row km1 d wt srcs} (h : Inv s) : InvOut (wred f op ty all row km1 d wt srcs s) :=
  h.runInstr (h.withFlags (fun _ ht => ht.setTile.setTile.setStrand))
theorem Inv.execWadj {f ty once gen op all row km1 d g wt} (h : Inv s) : InvOut
    (execWadj f ty once gen op all row km1 d g wt s) := by
  unfold Machine.execWadj
  refine h.runInstr ?_
  dsimp only
  split
  · exact .error
  · exact .done (.ite (.clearTag (.foldl (fun _ _ ht => ht.setTile) _ h)) (.foldl (fun _ _ ht => ht.setTile) _ h))
theorem Inv.execWst {f d a} (h : Inv s) : InvOut (execWst f d a s) := by
  refine h.runInstr ?_
  dsimp only
  refine .ite .error ?_
  split
  · exact .error
  · exact .ite h.holdBack (.retire (.foldl (fun _ _ ht => ht.storeAt) _ h.useAll))
theorem Inv.execWld {f d a} (h : Inv s) : InvOut (execWld f d a s) := by
  refine h.runInstr ?_
  dsimp only
  refine .ite .error ?_
  split
  · exact .error
  · refine .ite h.holdBack ?_
    refine .ite h.holdBack ?_
    split
    · exact .error
    · next e =>
        have h2 := h.useAll.readRows e
        exact .ite .error (.retire h2.setTile)

/-! ## Turns of the environment and the step -/

theorem Inv.external {flat bytes} (h : Inv s) : Inv (s.external flat bytes) :=
  .ite (.wake (.missed (.setHeads (wf_memWriteBytes _ _ h)))) h
theorem Inv.incoming {p} (h : Inv s) : Inv (s.incoming p) := .ite h (.wake h)
theorem Inv.dropTlb {core n} (h : Inv s) : Inv (s.dropTlb core n) := h.setCore
theorem Inv.dropClusterTlb {cl n} (h : Inv s) : Inv (s.dropClusterTlb cl n) := h
theorem Inv.dropDieTlb {die n} (h : Inv s) : Inv (s.dropDieTlb die n) := h
theorem Inv.stepTime {t} (h : Inv s) : Inv (s.stepTime t) := .ite (.wake h) h
theorem inv_resetNow : Inv s.resetNow := wf_nil

/-! ## Every instruction -/

/-- An instruction or a step of the table, each by the lemma about its meaning. -/
theorem Inv.exec {i} (h : Inv s) : InvOut (exec i s) := by
  delta Machine.exec
  cases i with
  | iAdd | iSub | iMul | iMulh | iDiv | iRem | iAnd | iOr | iXor | iAndn | iShl | iShr | iSra | iRol | iMin | iMax | addImm
    | andImm | orImm | xorImm | shlImm | shrImm | sraImm | rolImm => exact h.intOp
  | mov | clz | ctz | popc | cvt => exact h.unaryOp
  | bext | bins | movi | lea | sel | rdtime | kquery | ptprobe | gid | mfs | ctxinfo => exact h.runInstr h.setReg.done
  | cmp => exact h.runInstr h.setPred.done
  | fadd | fsub | fmul | fdiv => exact h.fpArith
  | fsqrt | fmin | fmax | fclass | frnd | fma | fcvt => exact h.fpOp
  | fcmp => exact h.runInstr (h.withFlags (fun _ ht => ht.setPred))
  | tadd | tsub | tmul | tmin | tmax | tand | tor | txor | tcmp => exact h.tile2
  | tshl | tshr | tfma | tsel | tzero | tiota | tbcast | tperm | tlut => exact h.eltOp
  | tmov | tabs | tneg => exact h.tile1
  | texp2 | tlog2 | trcp | trsqrt | ttanh => exact h.tileSpecial
  | tset => exact h.tileOp
  | tcvt => exact h.execTcvt
  | trowred => exact h.execTrowred
  | tcolred => exact h.execTcolred
  | ttrans => exact h.execTtrans
  | tlutload => exact h.runInstr h.setLive.done
  | tplanes | tunplanes => exact h.rowOp
  | ld => exact h.runInstr (h.memAccess (fun _ _ ht => .retire ht.startLoad))
  | st => exact h.runInstr (h.memAccess (fun _ _ ht => .retire ht.storeAt.setLate))
  | ldn => exact h.execLdn
  | stn => exact h.execStn
  | ldt => exact h.runInstr (h.loadRows (fun _ ht => ht))
  | stt => exact h.runInstr (h.storeRows (fun _ ht => ht))
  | ldtPost => exact h.runInstr (h.loadRows (fun _ ht => ht.setReg))
  | sttPost => exact h.runInstr (h.storeRows (fun _ ht => ht.setReg))
  | pref => exact h.runInstr (.done (.ite h (.foldl (fun _ _ ht => ht.prefetch) _ h)))
  | pushm => exact h.execPushm
  | popm => exact h.execPopm
  | br => exact h.runInstr (.ite h.jumpAns h.done)
  | jmp => exact h.runInstr h.jumpAns
  | call => exact h.runInstr h.setReg.jumpAns
  | jmpReg => exact h.runInstr (h.jumpReg (fun _ ht => ht))
  | callReg => exact h.runInstr (h.jumpReg (fun _ ht => ht.setReg))
  | ret => exact h.execRet
  | loop | loopImm => exact h.runInstr h.setUpLoop
  | nop => exact h.runInstr h.done
  | pause => exact h.runInstr (.hold h.waiting)
  | pauseEnd => exact h.execPauseEnd
  | trap => exact h.runInstr .error
  | sleepns | waitns | waitnsV => exact h.runInstr h.timedWait
  | timedWaitDeadline => exact h.execTimedWaitDeadline
  | rst => exact h.execRst
  | rld => exact h.execRld
  | nonreturningServiced => exact .next h.serviced.wake
  | loadDataReturn => exact .next h.returnLoad.wake
  | deferredEcc => exact h.deferred.wakeAfter
  | amoAdd | amoMin | amoMax | amoAnd | amoOr | amoXor | amoSwap | amoCas | amoFadd | amoXacc => exact h.amo
  | predictorDecay => exact .next (.wake h)
  | ldAcq => exact h.execLdAcq
  | stRel => exact h.execStRel
  | fenceAcq | fenceRel | fenceFull | fenceAcqAll | fenceRelAll | fenceFullAll => exact h.fence
  | fenceAck => exact h.runInstr (.ite h.done h.holdBack)
  | bind => exact h.execBind
  | unbind => exact h.runInstr (.ite .error (.ite h.done (.ite .error h.setBinds.done)))
  | wbr => exact h.runInstr (.ite h.holdBack (.done (.foldl (fun _ _ ht => .ite ht.writeBack ht) _ h)))
  | invr => exact h.runInstr (.ite h.holdBack (.done (.keepEarly (.foldl (fun _ _ ht => .ite ht.dropLine ht) _ h))))
  | binit => exact h.execBinit
  | barr => exact h.barInstr (fun _ _ _ ht => ht.barArriveAt.barOf.setReg.done)
  | bwait => exact h.barInstr (fun _ _ _ ht => ht.barOf.barWait)
  | barw => exact h.barInstr (fun _ _ _ ht => ht.barArriveAt.barOf.barWait)
  | bpoison => exact h.barInstr (fun _ _ _ ht => ht.barPoisonAt.barOf.done)
  | bquery => exact h.barInstr (fun _ _ _ ht => ht.barDone.setReg.done)
  | barrierWaiterLeave => exact h.execBarrierWaiterLeave
  | bsfill => exact h.runInstr h.setBitptr.clearStatus.done
  | bsget | bspeek | bsgetImm | bspeekImm => exact h.runInstr h.bsRead
  | bsskip | bsskipImm => exact h.runInstr h.setBitptr.done
  | bsgetT => exact h.execBsgetT
  | moduleResetBoot => exact .ite (.next h) (.ite (.next (.setImage h)) (.next h))
  | partitionImageVerify => exact .ite (.next h) (.ite (.next (.setImage h)) (.next h.report.wake))
  | attestationRequest | timeFlitTimeout => exact .ite (.next h) (.next h)
  | mldw => exact h.execMldw
  | mstrm => exact h.execMstrm
  | mrd => exact h.runInstr (.ite .error h.clearTag.mxaIssue.done)
  | mclr => exact h.runInstr h.setLive.mxaIssue.done
  | mwait => exact .ite h.mwaitDone.issued (h.runInstr (.hold h.waiting))
  | tumblerCycle => exact .next (.ite h.tumble.wake h)
  | kdecl => exact h.runInstr (.withReq (fun _ => .ite .error h.setStrand.done))
  | kacq => exact h.execKacq
  | ktry => exact h.runInstr (.withReq (fun _ => .done (.setReg (.ite h.tumble.setLive h.tumble))))
  | krel => exact h.runInstr (.withReq (fun _ => .ite .error (.ite h.holdBack h.setLive.done)))
  | msend => exact h.runInstr (.ite .error (.ite .error (.hold h.send.waiting)))
  | msendAccept => exact .next h.msgAccept.wake
  | msendRefused => exact h.msgRefuse.wakeAfter
  | mrecv => exact h.runInstr (.ite h.takeMsg.done (.ite h.setReg.done (.hold (.waiting h))))
  | mrecvWaitEnd => exact h.execMrecvWaitEnd
  | spillQueueSpaceFree => exact h.execSpillQueueSpaceFree
  | latch => exact h.execLatch
  | tlbinv => exact h.runInstr (.ite .error (.ite h.holdBack h.dropEnts.done))
  | kernelRetire => exact .next h.retireKernel.wake
  | kernelFault => exact h.execKernelFault
  | kernelAbandon => exact .ite (.next h.kernelAbandoned.wake) (.next h)
  | kernelService => exact .next h.serviceKernel.wake
  | replayDiscardComplete => exact .ite (.next h) (.next (.wake (.setKernel h)))
  | qpost => exact h.execQpost
  | packetPublished => exact .next h.publishPacket.wake
  | qwait => exact h.execQwait
  | qwaitEnd => exact h.execQwaitEnd
  | kinfo => exact h.execKinfo
  | queueCreate => exact h.execQueueCreate
  | queueReset => exact .ite (.next h.setQState.wantSlot.wake) (.next h)
  | queueClose => exact .ite (.next h.setQState.wake) (.next h)
  | hostDoorbell => exact .ite (.next h.write.setQueue.wantSlot.wake) (.next h.report.wake)
  | schedulerPass => exact .next (.wake (.foldl (fun _ _ => .serveQueue) _ h))
  | groupPlace => exact .next h.placeGroup.wake
  | groupStart => exact .next h.startGroup.wake
  | sliceBoundary => exact .next h.boundary.wake
  | gdom => exact h.runInstr (.ite .error (.ite h.setDomain.done (.hold h.waiting)))
  | gdomWaitEnd => exact h.execGdomWaitEnd
  | sstep => exact h.execSstep
  | sstepEnd => exact h.runInstr (.ite .error (.ite h.holdBack (.hold h.publish.setStrand.waiting.settleDomains)))
  | phaseEnd => exact .next h.endPhase.wake
  | staggeredRelease => exact h.execStaggeredRelease
  | tsend =>
    exact h.runInstr (.ite .error (.ite .error (.ite .error (.ite .error (.ite h.setStrand.sendRow.done
        (.hold h.setStrand.setStrand.waiting))))))
  | tsendSlotStart => exact h.execTsendSlotStart
  | tsendLand => exact .next h.landRow.wake
  | hopen | hjoin => exact h.openSet
  | hload => exact h.hingeOp (fun _ _ _ _ ht => .ite .error (ht.withBlock (.ite .error ht.putElems.done)))
  | hadd => exact h.hingeOp (fun _ _ _ _ ht => .ite .error (ht.withBlock ht.putElems.done))
  | hread => exact h.hingeOp (fun _ _ _ _ ht => .ite .error (ht.withBlock (ht.withFlags (fun _ hu => hu.setTile))))
  | hpush =>
    exact h.hingeOp (fun _ _ _ _ ht => .ite .error (.ite ht.setReg.done (ht.withBlock (.ite ht.setReg.done
        (.ite ht.setReg.done ht.hingePush.setReg.done)))))
  | hleave => exact h.execHleave
  | hmass => exact h.hingeOp (fun _ _ _ _ ht => ht.withBlock ht.setReg.done)
  | hmassSet => exact h.hingeOp (fun _ _ _ _ ht => ht.withBlock (.ite .error ht.putVals.setHSlot.done))
  | hdisag => exact h.execHdisag
  | hpause =>
    exact h.hingeOp (fun _ _ _ _ ht => .ite .error (ht.withBlock (.ite ht.setHSlot.settleHinge.done
        (.hold ht.setHSlot.settleHinge.waiting))))
  | hresume => exact h.hingeOp (fun _ _ _ _ ht => .ite .error (.ite ht.setHSlot.done ht.done))
  | hingeBgTick => exact .next h.hingeTick.wake
  | hingePushArrive => exact h.execHingePushArrive
  | hingeReplyArrive => exact h.execHingeReplyArrive
  | sys => exact h.runInstr (.sysEntry h)
  | eret => exact h.runInstr (.ite .error (.ite .error h.returnTo.jumpAns))
  | exit => exact h.runInstr (.ite h.holdBack h.exitStrand.done)
  | mts => exact h.execMts
  | unassignedEncoding => exact h.trapNow
  | xfer => exact h.execXfer
  | xferOpStart => exact .next h.xferStart.wake
  | xferComplete => exact .next h.xferComplete.wake
  | xferFault => exact .next h.xferFault.wake
  | xferResume => exact h.execXferResume
  | restorecoreEnd => exact h.endRestore.wakeAfter
  | savecoreEnd => exact .next h.endSave.resumeAsked.wake
  | resumeRequest => exact .ite (.next h) (.next h.setCore.resumeAsked.wake)
  | meshInterruptMessage => exact h.execMeshInterruptMessage
  | gangSwitchTime => exact h.execGangSwitchTime
  | plantailWrite => exact .next h.writePlanTail.wake
  | contextCreate => exact h.execContextCreate
  | contextDestroy => exact .ite (.next h) (.next (.wake (.noteCtx h)))
  | enrd => exact h.runInstr (.ite .error (.ite .error h.setReg.done))
  | linkResetRelease => exact .next h
  | trainingSuccess | flitCrcError | retrainSuccess | portDisable => exact .ite (.next h) (.next h.putLink)
  | trainingFailure =>
    exact .ite (.next h) (.ite (.next h.putLink) (.ite (.ite (.next h.linkFailed) (.next h.setLink)) (.next h)))
  | portTrainRetry => exact h.execPortTrainRetry
  | retrainFailure => exact .ite (.next h) (.ite (.next h.putLink) (.next h.linkFailed))
  | portEnable => exact .ite (.next h.putLink) (.next h)
  | timeFlit => exact .ite (.next h) (.next (.settleModules (.setMod (.setLink h))))
  | moduleAdd => exact .ite (.next h) (.next h.setMod.settleModules.wake)
  | moduleClear => exact .ite (.next h) (.next h.setMod)
  | moduleFailTimeout => exact h.execModuleFailTimeout
  | moduleDeclareFailed => exact .ite h.failModule.wakeAfter (.next h)
  | remoteStoreArrive => exact h.unlessDead (.next h.storeArrive.wake)
  | remoteLoadArrive => exact h.unlessDead (.next h.loadArrive.wake)
  | remoteAckArrive => exact h.ackArrive.wakeAfter
  | routeTableWrite | featreqWrite => exact .next h.mmioFrom.wake
  | lquery => exact h.execLquery
  | scanStart => exact h.execScanStart
  | scanEnd => exact h.execScanEnd
  | machineCheck => exact h.execMachineCheck
  | lmSweep => exact .next (.wake (.foldl (fun _ _ ht => ht.report) _ h))
  | tsliceWrite | faultRingHeadWrite | faultRingConfigWrite => exact .next h.dieWrite.wake
  | mmioRegisterWrite => exact .ite (.next h) (.next h.mmioFrom.wake)
  | vreqCommit => exact .ite (.next h.mmioWrite.wake) (.next h)
  | voltageStepEnd => exact .ite (.next h.voltStep.wake) (.next h)
  | clockHopEnd => exact .ite (.next h.hopEnd.wake) (.next h)
  | droopDetect => exact .ite (.next h.droopOn) (.next h)
  | droopClear => exact .ite (.next h.droopOff.wake) (.next h)
  | mxaOpStart => exact .next h.setLive.wake
  | mxaOpFinish => exact .ite (.next h.setLive.wake) (.next h)
  | mwaitEnd => exact h.execMwaitEnd
  | timeNsAdvance => exact .next (.ite h (.wake h))
  | wredMax | wredMin | wredClamp | wredMed | wredSsum => exact h.wred
  | wadj => exact h.execWadj
  | wst => exact h.execWst
  | wld => exact h.execWld

/-! ## Turns of the environment and the step -/

theorem Inv.runWords {ws} (h : Inv s) : InvOut (s.runWords ws) := by
  unfold State.runWords
  split
  · exact h.exec
  · exact h.trapNow
theorem Inv.runStrand {w} (h : Inv s) : InvOut (s.runStrand w) := by
  have h0 : Inv { s.tumble w.core with cur := w } := h.tumble.of_mem rfl
  unfold State.runStrand
  generalize ({ s.tumble w.core with cur := w } : State) = s0 at h0
  dsimp only
  split
  · exact h0.trapNow
  · exact .next h0.heldOff
  · next e => exact .ite (h0.fetchInstr e).trapNow (h0.fetchInstr e).runWords
theorem Inv.issueOn {core} (h : Inv s) : InvOut (s.issueOn core) := by
  unfold State.issueOn
  split
  · exact h.runStrand
  · exact .next h
theorem Inv.podStep {d} (h : Inv s) : InvOut (s.podStep d) := by
  cases d with
  | train => exact h.execPortTrainRetry
  | unlock => exact h.exec (i := .timeFlitTimeout)
  | fail => exact h.execModuleFailTimeout
theorem Inv.turn {t} (h : Inv s) : InvOut (s.turn t) := by
  cases t with
  | issue => exact h.issueOn
  | event => exact .ite h.exec (.next h)
  | evictLine => exact .next (.ite h h.dropLine)
  | evictTlb | evictClusterTlb | evictDieTlb | grantHost => exact .next h
  | fetchEarly => exact .next (.ite h.fetchAhead h)
  | otherFetch => exact .next h.turnFetched
  | xferPiece => exact .next h.xferPiece
  | readEarly => exact .next (.ite h.readEarly h)
  | forgetEarly => exact .next h.keepEarly
  | lateStore => exact .next (.ite h.setLate h)
  | fecFixed => exact .next h.fecFixed
  | coreError => exact .next h.coreError
  | memError => exact .next h.memError
  | lineError => exact .next h.lineError
  | external => exact .next h.external
  | incoming => exact .next h.incoming
  | corrected => exact .next h.countError
  | setTime => exact .next h.stepTime
  | reset => exact .next inv_resetNow
theorem Inv.idle (h : Inv s) : InvOut s.idle := by
  unfold State.idle
  split
  · exact h.runStrand
  · split
    · exact h.exec
    · split
      · exact Inv.exec h
      · split
        · exact Inv.podStep h
        · exact h.exec (i := .timeNsAdvance)
theorem Inv.step (h : Inv s) : InvOut (step s) := by
  show InvOut s.oneStep
  unfold State.oneStep
  split
  · exact h.idle
  · exact Inv.turn h

/-- Settles O60: every step is an instruction, a step of the table or a turn of the environment, and each changes memory only by the
operations of memory, which keep the form. -/
theorem stepKeepsInv : Obligations.StepKeepsInv := fun _ _ h e => h.step e
end Sys2Proof
end

-- Proofs of the statements of spec/02_formats_and_opcode_map.md.
section
/-!
SUPPORT. An instruction's words, fields and bytes stand for one another (R26, R30-R37, R43-R49): what a byte sequence decodes to is said
by one equivalence, and both directions of the round trip are read off it. Then what stands between the bytes and an instruction's
meaning: the checks before its body (R32, R48, R111, R407), and the fetch and the turn by which a step comes to it (R28, R29, R49).
-/
namespace Sys2Proof
open Laws Laws.RoundTrip

/-! ## Words and bytes (R2, R26) -/

theorem bytesOfWord_wordOfBytes (b0 b1 b2 b3 : Byte) : bytesOfWord (wordOfBytes b0 b1 b2 b3) = [b0, b1, b2, b3] := by
  simp only [bytesOfWord, wordOfBytes, List.cons.injEq, and_true]
  refine ⟨?_, ?_, ?_, ?_⟩
  all_goals repeat rw [BitVec.extractLsb'_append_eq_of_le (by omega)]
  · exact BitVec.extractLsb'_append_eq_right
  · exact BitVec.extractLsb'_append_eq_right
  · exact BitVec.extractLsb'_append_eq_right
  · exact BitVec.extractLsb'_eq_self
theorem wordOfBytes_bytes (w : BitVec 32) :
    wordOfBytes (w.extractLsb' 0 8) (w.extractLsb' 8 8) (w.extractLsb' 16 8) (w.extractLsb' 24 8) = w := by
  unfold wordOfBytes
  repeat rw [BitVec.extractLsb'_append_extractLsb'_eq_extractLsb' (by omega)]
  exact BitVec.extractLsb'_eq_self
theorem takeWord_eq_some {bs t : List Byte} {w : BitVec 32} : takeWord bs = some (w, t) ↔ bs = bytesOfWord w ++ t := by
  constructor
  · intro h
    match bs, h with
    | b0 :: b1 :: b2 :: b3 :: t, rfl =>
      rw [bytesOfWord_wordOfBytes]
      rfl
  · rintro rfl
    exact congrArg (fun w => some (w, t)) (wordOfBytes_bytes w)

/-! ## Fields and words (R30, R34, R37) -/

theorem ofBool_getLsbD {n : Nat} (x : BitVec n) (i : Nat) : BitVec.ofBool (x.getLsbD i) = x.extractLsb' i 1 := by
  ext j hj
  obtain rfl : j = 0 := by omega
  simp
@[simp] theorem Raw.word0_ofWords (w0 w1 : BitVec 32) (l : BitVec 64) : (Raw.ofWords w0 w1 l).word0 = w0 := by
  unfold Raw.word0 Raw.ofWords
  repeat rw [BitVec.extractLsb'_append_extractLsb'_eq_extractLsb' (by omega)]
  exact BitVec.extractLsb'_eq_self
@[simp] theorem Raw.word1_ofWords (w0 w1 : BitVec 32) (l : BitVec 64) : (Raw.ofWords w0 w1 l).word1 = w1 := by
  unfold Raw.word1 Raw.ofWords
  rw [ofBool_getLsbD]
  repeat rw [BitVec.extractLsb'_append_extractLsb'_eq_extractLsb' (by omega)]
  exact BitVec.extractLsb'_eq_self
@[simp] theorem Raw.len_ofWords (w0 w1 : BitVec 32) (l : BitVec 64) : (Raw.ofWords w0 w1 l).len = w0.extractLsb' 0 2 := rfl
@[simp] theorem Raw.lit_ofWords (w0 w1 : BitVec 32) (l : BitVec 64) : (Raw.ofWords w0 w1 l).lit = l := rfl
theorem Raw.ofWords_words (r : Raw) : Raw.ofWords r.word0 r.word1 r.lit = r := by
  have right {m n : Nat} {x : BitVec m} {y : BitVec n} : (x ++ y).extractLsb' 0 n = y := BitVec.extractLsb'_append_eq_right
  have hpn : r.word1.getLsbD 28 = r.pn := by
    unfold Raw.word1
    repeat rw [BitVec.getLsbD_append, if_neg (by omega)]
    rw [BitVec.getLsbD_append, if_pos (by omega), BitVec.getLsbD_ofBool]
    rfl
  obtain ⟨len, op, fn, b, a, d, ty, md, x, pg, pn, l⟩ := r
  rw [Raw.ofWords, hpn]
  simp only [Raw.word0, Raw.word1, Raw.mk.injEq, and_true]
  refine ⟨?_, ?_, ?_, ?_, ?_, ?_, ?_, ?_, ?_, ?_⟩
  all_goals repeat rw [BitVec.extractLsb'_append_eq_of_le (by omega)]
  · exact right
  · exact right
  · exact BitVec.extractLsb'_eq_self
  · exact right
  · exact right
  · exact right
  · exact right
  · exact right
  · exact right
  · exact BitVec.extractLsb'_eq_self
theorem Raw.word1_eq_zero {r : Raw} : r.word1 = 0 ↔ r.x16 = 0 ∧ r.md = 0 ∧ r.ty = 0 ∧ r.pg = 0 ∧ r.pn = false := by
  constructor
  · intro h
    rw [← r.ofWords_words, h]
    exact ⟨rfl, rfl, rfl, rfl, rfl⟩
  · rintro ⟨hx, hm, ht, hg, hn⟩
    rw [Raw.word1, hx, hm, ht, hg, hn]
    rfl
/-- Fields that fit their length, said of the words: a word that the length does not have is zero. -/
theorem fits_iff {r : Raw} : fits r ↔ (r.len = 0 → r.word1 = 0) ∧ (r.len = 0 ∨ r.len = 1 → r.lit = 0) ∧
    (r.len = 2 → r.lit = (r.lit.setWidth 32).setWidth 64) := by
  rw [Raw.word1_eq_zero]
  rfl

/-- The words at the head of a byte sequence, read back: the fields are cut from them as `Raw.words` lays them out. -/
theorem takeRaw_words {r : Raw} (h : fits r) (rest : List Byte) : takeRaw (r.words.flatMap bytesOfWord ++ rest) = some (r, rest) := by
  obtain ⟨h1, hl, h2⟩ := fits_iff.mp h
  have hw (w : BitVec 32) (t : List Byte) : takeWord (bytesOfWord w ++ t) = some (w, t) := takeWord_eq_some.mpr rfl
  have hlen : r.word0.extractLsb' 0 2 = r.len := congrArg Raw.len r.ofWords_words
  have hr := r.ofWords_words
  rcases len_cases r.len with e | e | e | e
  · rw [h1 e, hl (.inl e)] at hr
    simpa [takeRaw, Raw.words, hw, hlen, e] using hr
  · rw [hl (.inr e)] at hr
    simpa [takeRaw, Raw.words, hw, hlen, e] using hr
  · rw [h2 e] at hr
    simpa [takeRaw, Raw.words, hw, hlen, e] using hr
  · have h3 : r.lit.extractLsb' 32 32 ++ r.lit.setWidth 32 = r.lit := by
      rw [BitVec.setWidth_eq_extractLsb' (by omega)]
      exact BitVec.extractLsb'_append_extractLsb'
    simpa [takeRaw, Raw.words, hw, hlen, e, h3] using hr
theorem takeRaw_eq_some {bs rest : List Byte} {r : Raw} :
    takeRaw bs = some (r, rest) ↔ fits r ∧ bs = r.words.flatMap bytesOfWord ++ rest := by
  refine ⟨fun h => ?_, fun ⟨hf, hb⟩ => hb ▸ takeRaw_words hf rest⟩
  simp only [takeRaw, Option.bind_eq_bind, Option.bind_eq_some_iff, Prod.exists, takeWord_eq_some, Option.pure_def] at h
  obtain ⟨w0, t0, rfl, h⟩ := h
  rcases len_cases (w0.extractLsb' 0 2) with e | e | e | e
  · obtain ⟨rfl, rfl⟩ : Raw.ofWords w0 0 0 = r ∧ t0 = rest := by simpa [e] using h
    exact ⟨fits_iff.mpr (by simp [e]), by simp [Raw.words, e]⟩
  · obtain ⟨w1, rfl, rfl⟩ : ∃ w1, t0 = bytesOfWord w1 ++ rest ∧ Raw.ofWords w0 w1 0 = r := by
      simpa [e, Option.bind_eq_some_iff, takeWord_eq_some] using h
    exact ⟨fits_iff.mpr (by simp [e]), by simp [Raw.words, e]⟩
  · obtain ⟨w1, t1, rfl, w2, rfl, rfl⟩ : ∃ w1 t1, t0 = bytesOfWord w1 ++ t1 ∧ ∃ w2, t1 = bytesOfWord w2 ++ rest ∧
        Raw.ofWords w0 w1 (w2.setWidth 64) = r := by
      simpa [e, Option.bind_eq_some_iff, takeWord_eq_some] using h
    exact ⟨fits_iff.mpr (by simp [e]), by simp [Raw.words, e]⟩
  · obtain ⟨w1, t1, rfl, w2, t2, rfl, w3, rfl, rfl⟩ : ∃ w1 t1, t0 = bytesOfWord w1 ++ t1 ∧ ∃ w2 t2, t1 = bytesOfWord w2 ++ t2 ∧
        ∃ w3, t2 = bytesOfWord w3 ++ rest ∧ Raw.ofWords w0 w1 (w3 ++ w2) = r := by
      simpa [e, Option.bind_eq_some_iff, takeWord_eq_some] using h
    have h2 : (w3 ++ w2 : BitVec 64).setWidth 32 = w2 := BitVec.setWidth_append_eq_right
    have h3 : (w3 ++ w2 : BitVec 64).extractLsb' 32 32 = w3 := BitVec.extractLsb'_append_eq_left
    exact ⟨fits_iff.mpr (by simp [e]), by simp [Raw.words, e, h2, h3]⟩

/-! ## Fields and instructions (R43-R49) -/

/-- The fields of every well-formed instruction fit its length and read as the instruction; a step has none. -/
theorem Laws.RoundTrip.fits_and_reads (i : Instr) : Statement i := by
  cases i with
  | iAdd => apply iAdd | iSub => apply iSub | iMul => apply iMul | iMulh => apply iMulh | iDiv => apply iDiv
  | iRem => apply iRem | iAnd => apply iAnd | iOr => apply iOr | iXor => apply iXor | iAndn => apply iAndn
  | iShl => apply iShl | iShr => apply iShr | iSra => apply iSra | iRol => apply iRol | iMin => apply iMin
  | iMax => apply iMax | mov => apply mov | clz => apply clz | ctz => apply ctz | popc => apply popc | bext => apply bext
  | bins => apply bins | cvt => apply cvt | addImm => apply addImm | andImm => apply andImm | orImm => apply orImm
  | xorImm => apply xorImm | shlImm => apply shlImm | shrImm => apply shrImm | sraImm => apply sraImm | rolImm => apply rolImm
  | movi => apply movi | lea => apply lea | cmp => apply cmp | sel => apply sel | fadd => apply fadd | fsub => apply fsub
  | fmul => apply fmul | fdiv => apply fdiv | fsqrt => apply fsqrt | fmin => apply fmin | fmax => apply fmax
  | fclass => apply fclass | frnd => apply frnd | fma => apply fma | fcmp => apply fcmp | fcvt => apply fcvt | br => apply br
  | jmp => apply jmp | call => apply call | jmpReg => apply jmpReg | callReg => apply callReg | ret => apply ret
  | loop => apply loop | loopImm => apply loopImm | nop => apply nop | pause => apply pause | trap => apply trap
  | sys => apply sys | eret => apply eret | exit => apply exit | sleepns => apply sleepns | waitns => apply waitns
  | waitnsV => apply waitnsV | rdtime => apply rdtime | mts => apply mts | mfs => apply mfs | bsfill => apply bsfill
  | bsget => apply bsget | bspeek => apply bspeek | bsskip => apply bsskip | bsgetImm => apply bsgetImm
  | bspeekImm => apply bspeekImm | bsskipImm => apply bsskipImm | ld => apply ld | st => apply st | ldn => apply ldn
  | stn => apply stn | ldt => apply ldt | stt => apply stt | ldtPost => apply ldtPost | sttPost => apply sttPost
  | pref => apply pref | pushm => apply pushm | popm => apply popm | rst => apply rst | rld => apply rld
  | amoAdd => apply amoAdd | amoMin => apply amoMin | amoMax => apply amoMax | amoAnd => apply amoAnd | amoOr => apply amoOr
  | amoXor => apply amoXor | amoSwap => apply amoSwap | amoCas => apply amoCas | amoFadd => apply amoFadd
  | amoXacc => apply amoXacc | ldAcq => apply ldAcq | stRel => apply stRel | fenceAcq => apply fenceAcq
  | fenceRel => apply fenceRel | fenceFull => apply fenceFull | fenceAck => apply fenceAck | fenceAcqAll => apply fenceAcqAll
  | fenceRelAll => apply fenceRelAll | fenceFullAll => apply fenceFullAll | bind => apply bind | unbind => apply unbind
  | wbr => apply wbr | invr => apply invr | tadd => apply tadd | tsub => apply tsub | tmul => apply tmul | tmin => apply tmin
  | tmax => apply tmax | tand => apply tand | tor => apply tor | txor => apply txor | tshl => apply tshl | tshr => apply tshr
  | tfma => apply tfma | tcmp => apply tcmp | tsel => apply tsel | tcvt => apply tcvt | tmov => apply tmov
  | tzero => apply tzero | tiota => apply tiota | tabs => apply tabs | tneg => apply tneg | texp2 => apply texp2
  | tlog2 => apply tlog2 | trcp => apply trcp | trsqrt => apply trsqrt | ttanh => apply ttanh | tbcast => apply tbcast
  | tset => apply tset | trowred => apply trowred | tcolred => apply tcolred | ttrans => apply ttrans | tperm => apply tperm
  | tlutload => apply tlutload | tlut => apply tlut | tplanes => apply tplanes | tunplanes => apply tunplanes
  | bsgetT => apply bsgetT | mldw => apply mldw | mstrm => apply mstrm | mrd => apply mrd | mclr => apply mclr
  | mwait => apply mwait | ctxinfo => apply ctxinfo | enrd => apply enrd | qpost => apply qpost | qwait => apply qwait
  | kinfo => apply kinfo | gid => apply gid | gdom => apply gdom | sstep => apply sstep | sstepEnd => apply sstepEnd
  | tsend => apply tsend | kdecl => apply kdecl | kacq => apply kacq | ktry => apply ktry | krel => apply krel
  | kquery => apply kquery | binit => apply binit | barr => apply barr | bwait => apply bwait | barw => apply barw
  | bpoison => apply bpoison | bquery => apply bquery | xfer => apply xfer | latch => apply latch | ptprobe => apply ptprobe
  | tlbinv => apply tlbinv | msend => apply msend | mrecv => apply mrecv | lquery => apply lquery | hopen => apply hopen
  | hjoin => apply hjoin | hload => apply hload | hadd => apply hadd | hread => apply hread | hpush => apply hpush
  | hleave => apply hleave | hmass => apply hmass | hmassSet => apply hmassSet | hdisag => apply hdisag
  | hpause => apply hpause | hresume => apply hresume | wredMax => apply wredMax | wredMin => apply wredMin
  | wredClamp => apply wredClamp | wredMed => apply wredMed | wredSsum => apply wredSsum | wadj => apply wadj
  | wst => apply wst | wld => apply wld
  | _ => exact step_law rfl

/-- Fields decode to exactly the well-formed instruction whose fields they are. -/
theorem decodeRaw_eq_some {r : Raw} {i : Instr} : decodeRaw r = some i ↔ i.wf = true ∧ i.toRaw = some r := by
  unfold decodeRaw
  constructor
  · intro h
    split at h
    · split at h
      · next hc =>
        obtain ⟨hw, hr⟩ := Bool.and_eq_true_iff.mp hc
        cases h
        exact ⟨hw, of_decide_eq_true hr⟩
      · cases h
    · cases h
  · rintro ⟨hw, hr⟩
    rw [(fits_and_reads i hw r hr).2]
    simp [hw, hr]

/-- A byte sequence decodes to exactly the well-formed instruction whose words it begins with, and to the bytes after them. -/
theorem decode_eq_some {bs rest : List Byte} {i : Instr} :
    decode bs = some (i, rest) ↔ i.wf = true ∧ ∃ ws, encode i = some ws ∧ bs = ws.flatMap bytesOfWord ++ rest := by
  have h1 : decode bs = some (i, rest) ↔ ∃ r, takeRaw bs = some (r, rest) ∧ decodeRaw r = some i := by
    unfold decode
    cases takeRaw bs with
    | none => exact ⟨nofun, nofun⟩
    | some p =>
      obtain ⟨r, t⟩ := p
      constructor
      · intro h
        obtain ⟨j, hj, e⟩ := Option.map_eq_some_iff.mp h
        cases e
        exact ⟨r, rfl, hj⟩
      · rintro ⟨r', e, hj⟩
        cases e
        exact Option.map_eq_some_iff.mpr ⟨i, hj, rfl⟩
  simp only [h1, takeRaw_eq_some, decodeRaw_eq_some, encode, Option.map_eq_some_iff]
  constructor
  · rintro ⟨r, ⟨-, hb⟩, hw, hr⟩
    exact ⟨hw, _, ⟨r, hr, rfl⟩, hb⟩
  · rintro ⟨hw, -, ⟨r, hr, rfl⟩, hb⟩
    exact ⟨r, ⟨(fits_and_reads i hw r hr).1, hb⟩, hw, hr⟩

/-- Settles O59: both directions are `decode_eq_some`. -/
theorem decodeUndoesEncode : Obligations.DecodeUndoesEncode :=
  ⟨fun _ ws _ hw hws => decode_eq_some.mpr ⟨hw, ws, hws, rfl⟩, fun _ _ _ h => decode_eq_some.mp h⟩

/-- Settles O57: the spec's own words, by evaluation of the decoder. -/
theorem wordsOfTheSpecDecode : Obligations.WordsOfTheSpecDecode := by
  unfold Obligations.WordsOfTheSpecDecode
  decide +kernel

end Sys2Proof

namespace Sys2Proof.Machine

/-! ## The checks before an instruction's body (R48)

A guard that reads true lets an instruction come to the readiness of its operands, and then to steps 4 to 6. -/

/-- The only value that a search can find, it finds. -/
theorem findSome?_of_one_value {α β : Type} {g : α → Option β} {l : List α} {b : β} (hb : ∀ a ∈ l, g a = none ∨ g a = some b)
    (h : ∃ a ∈ l, g a = some b) : l.findSome? g = some b := by
  obtain ⟨a, ha, e⟩ := h
  cases hf : l.findSome? g with
  | none =>
    rw [List.findSome?_eq_none_iff.mp hf a ha] at e
    cases e
  | some c =>
    obtain ⟨x, hx, ex⟩ := List.exists_of_findSome?_eq_some hf
    rcases hb x hx with h | h <;> rw [h] at ex <;> cases ex
    rfl

theorem ite_left_or_right {α : Type} (c : Prop) [Decidable c] (x y : α) : (if c then x else y) = x ∨ (if c then x else y) = y := by
  split
  · exact .inl rfl
  · exact .inr rfl

/-- A guard that reads true, from a predicate without a parity error or from none. -/
structure GuardPasses (s : State) (f : Form) : Prop where
  reads : (s.strand s.cur).guard f = true
  sound : f.pg = 0 ∨ (s.live s.cur.core).perr = []

/-- An outcome of the frame of every instruction, with these operands and some body. -/
def Runs (f : Form) (ops : List Opnd) (s : State) (o : Host.Outcome State Fault Refusal) : Prop :=
  ∃ body, o = runInstr f ops body s
theorem runs_runInstr (f : Form) (ops : List Opnd) (body : State → Who → Except Trap Ans) (s : State) :
    Runs f ops s (runInstr f ops body s) := ⟨body, rfl⟩

section
variable {s : State} {w : Who} {f : Form} {ops : List Opnd} {o : Host.Outcome State Fault Refusal}

theorem GuardPasses.no_parity (h : GuardPasses s f) :
    ¬(f.pg ≠ 0 ∧ (s.live s.cur.core).perr.contains (.pred s.cur.strand) = true) := by
  rcases h.sound with h | h <;> simp [h]
theorem Runs.notReady (h : Runs f ops s o) (g : GuardPasses s f) (hr : s.opsReady s.cur ops = false) :
    o = .next (s.notReady s.cur ops) := by
  obtain ⟨body, rfl⟩ := h
  simp only [runInstr, g.no_parity, g.reads, hr, Bool.not_true, Bool.not_false, Bool.false_eq_true, if_false, if_true]
theorem Runs.opTrap {t : Trap} (h : Runs f ops s o) (g : GuardPasses s f) (hr : ∀ o ∈ ops, opReady s s.cur o = true)
    (ht : s.opTrap s.cur ops = some t) : o = traps s f t := by
  obtain ⟨body, rfl⟩ := h
  have hr : s.opsReady s.cur ops = true := List.all_eq_true.mpr hr
  simp only [runInstr, g.no_parity, g.reads, hr, Bool.not_true, Bool.false_eq_true, if_false, ht, traps]

theorem opsReady_of_pending {o : Opnd} (ho : o ∈ ops) (h : opReady s w o = false) : s.opsReady w ops = false :=
  List.all_eq_false.mpr ⟨o, ho, by simp [h]⟩

/-- Step 4: system privilege. -/
theorem opTrap_user (ho : .sys ∈ ops) (hu : (s.strand w).priv = .user) : s.opTrap w ops = some { code := .priv } := by
  have h : ops.findSome? (privTrap s w) = some { code := .priv } := by
    refine findSome?_of_one_value (fun o _ => ?_) ⟨.sys, ho, by simp [privTrap, hu]⟩
    cases o with
    | sys => exact .inr (by simp [privTrap, hu])
    | _ => exact .inl rfl
  simp only [State.opTrap, h]
theorem Runs.user (h : Runs f ops s o) (g : GuardPasses s f) (hr : ∀ o ∈ ops, opReady s s.cur o = true) (ho : .sys ∈ ops)
    (hu : (s.strand s.cur).priv = .user) : o = traps s f { code := .priv } :=
  h.opTrap g hr (opTrap_user ho hu)

/-! ## Operands of the register-only list -/

/-- A scalar register, predicates or a status register. -/
def Opnd.isScalar : Opnd → Bool
  | .src _ | .dst _ | .preds | .status _ => true
  | _ => false

/-- A register among the operands. -/
def Names (ops : List Opnd) (r : Reg) : Prop := .src r ∈ ops ∨ .dst r ∈ ops

theorem pendingReg_of_no_loads {st : Strand} (h : st.loads = []) (r : Reg) : st.pendingReg r = false := by
  simp [Strand.pendingReg, h]

variable (hs : ∀ o ∈ ops, o.isScalar = true)
include hs

theorem scalar_ready (h : ∀ r, Names ops r → (s.strand w).pendingReg r = false) : ∀ o ∈ ops, opReady s w o = true := by
  intro o ho
  cases o with
  | src r => simpa [opReady] using h r (.inl ho)
  | dst r => simpa [opReady] using h r (.inr ho)
  | preds | status => rfl
  | _ => cases hs _ ho
theorem scalar_no_priv : ops.findSome? (privTrap s w) = none := by
  refine List.findSome?_eq_none_iff.mpr fun o ho => ?_
  cases o with
  | sys => cases hs _ ho
  | _ => rfl
theorem scalar_no_feat : ops.findSome? (featTrap s) = none := by
  refine List.findSome?_eq_none_iff.mpr fun o ho => ?_
  cases o with
  | feat => cases hs _ ho
  | _ => rfl
theorem scalar_held (h : ∀ r, Names ops r → (s.strand w).holds r = true) : ops.findSome? (heldTrap s w) = none := by
  refine List.findSome?_eq_none_iff.mpr fun o ho => ?_
  cases o with
  | src r => simp [heldTrap, h r (.inl ho)]
  | dst r => simp [heldTrap, h r (.inr ho)]
  | preds | status => rfl
  | _ => cases hs _ ho

/-- Step 5: a register that the strand does not hold (R32). -/
theorem opTrap_unheld {r : Reg} (hr : Names ops r) (hh : (s.strand w).holds r = false) : s.opTrap w ops = some .illop := by
  have h : ops.findSome? (heldTrap s w) = some .illop := by
    refine findSome?_of_one_value (fun o ho => ?_) ?_
    · cases o with
      | src r | dst r => exact ite_left_or_right ..
      | preds | status => exact .inl rfl
      | _ => cases hs _ ho
    · rcases hr with hr | hr <;> exact ⟨_, hr, by simp [heldTrap, hh]⟩
  simp only [State.opTrap, scalar_no_priv hs, h]

/-- Step 6: a parity error of what is read (R407); each has the same trap. -/
theorem opTrap_parity (hh : ∀ r, Names ops r → (s.strand w).holds r = true) {o : Opnd} (ho : o ∈ ops) (hb : parityBad s w o = true)
    (hp : (s.live w.core).perr ≠ []) : s.opTrap w ops = some { code := .ecc, cause := 30 } := by
  have h : ops.findSome? (parityTrap s w) = some { code := .ecc, cause := 30 } :=
    findSome?_of_one_value (fun o _ => (ite_left_or_right ..).symm) ⟨o, ho, if_pos hb⟩
  simp only [State.opTrap, scalar_no_priv hs, scalar_held hs hh, scalar_no_feat hs, hp, if_false, h]
omit hs

theorem parityBad_src {r : Reg} {p : Nat} (hr : (s.strand w).regPlace w.strand r = some p) (hp : .reg p ∈ (s.live w.core).perr) :
    parityBad s w (.src r) = true := by
  simp [parityBad, parityBad.regBad, hr, hp]
end

theorem srcOps_scalar (b : Src) : ∀ o ∈ srcOps b, o.isScalar = true := by
  cases b <;> simp [srcOps, Opnd.isScalar]
theorem aluOps_scalar (d a : Reg) (b : Src) : ∀ o ∈ aluOps d a b, o.isScalar = true :=
  List.forall_mem_cons.mpr ⟨rfl, List.forall_mem_cons.mpr ⟨rfl, srcOps_scalar b⟩⟩

theorem runs_intOp (f : Form) (ty : Ty) (d a : Reg) (b : Src) (r : Word → Word → Int) (s : State) :
    Runs f (aluOps d a b) s (intOp f ty d a b r s) := runs_runInstr ..
theorem runs_unaryOp (f : Form) (d a : Reg) (r : Word → Word) (s : State) :
    Runs f [.dst d, .src a] s (unaryOp f d a r s) := runs_runInstr ..

/-- Every instruction of the register-only list runs in the frame of every instruction, with scalar operands. -/
theorem registerOnly_runs {i : Instr} {f : Form} {ops : List Opnd} {d : Reg} (h : registerOnly i = some (f, ops, d)) (s : State) :
    Runs f ops s (exec i s) ∧ ∀ o ∈ ops, o.isScalar = true := by
  delta exec
  cases i with
  | iAdd | iSub | iMul | iMulh | iDiv | iRem | iAnd | iOr | iXor | iAndn | iShl | iShr | iSra | iRol | iMin | iMax =>
    cases h
    exact ⟨runs_intOp .., aluOps_scalar _ _ _⟩
  | addImm | andImm | orImm | xorImm | shlImm | shrImm | sraImm | rolImm =>
    cases h
    exact ⟨runs_intOp .., by simp [Opnd.isScalar]⟩
  | bext =>
    cases h
    exact ⟨runs_runInstr .., aluOps_scalar _ _ _⟩
  | bins =>
    cases h
    exact ⟨runs_runInstr .., List.forall_mem_cons.mpr ⟨rfl, aluOps_scalar _ _ _⟩⟩
  | mov | clz | ctz | popc | cvt =>
    cases h
    exact ⟨runs_unaryOp .., by simp [Opnd.isScalar]⟩
  | lea | movi | rdtime | sel | mfs =>
    cases h
    exact ⟨runs_runInstr .., by simp [Opnd.isScalar]⟩
  | _ => cases h

/-- Settles O12: the three outcomes are those of the checks before the body, which every instruction here makes alike. -/
theorem userPrivilegeTraps : Obligations.UserPrivilegeTraps := by
  refine ⟨fun f rc ssel q d a b s hg hp hl hu => ?_, fun i f ops d hi s hg => ?_⟩
  · have guard : GuardPasses s f := ⟨hg, .inr hp⟩
    have ready : ∀ r, (s.strand s.cur).pendingReg r = false := pendingReg_of_no_loads hl
    have eret : Runs f [.sys, .src a] s (execEret f rc a s) := runs_runInstr ..
    have tlbinv : Runs f ([.sys, .src a, .src b] ++ if d = 0 then [] else [.src d]) s (execTlbinv f d a b s) := runs_runInstr ..
    have enrd : Runs f [.sys, .dst d, .src a] s (execEnrd f d a q s) := runs_runInstr ..
    have mts : Runs f ((if statusSys ssel.toNat then [.sys] else []) ++ [.src a]) s (execMts f ssel a s) := by
      unfold execMts
      exact runs_runInstr ..
    refine ⟨eret.user guard (by simp [opReady, ready]) (by simp) hu, tlbinv.user guard ?_ (by simp) hu,
      enrd.user guard (by simp [opReady, ready]) (by simp) hu, fun hsel => ?_⟩
    · split <;> simp [opReady, ready]
    · have hsys : statusSys ssel.toNat = true := by rcases hsel with rfl | rfl | rfl <;> rfl
      exact mts.user guard (by simp [hsys, opReady, ready]) (by simp [hsys]) hu
  · obtain ⟨runs, hs⟩ := registerOnly_runs hi s
    refine ⟨fun hp hr ⟨r, hm, hh⟩ => ?_, fun hp ⟨r, hm, hr⟩ => ?_, fun hf hr ⟨r, p, hm, hplace, hbad⟩ => ?_⟩
    · exact runs.opTrap ⟨hg, .inr hp⟩ (scalar_ready hs hr) (opTrap_unheld hs hm hh)
    · refine runs.notReady ⟨hg, .inr hp⟩ ?_
      rcases hm with hm | hm <;> exact opsReady_of_pending hm (by simp [opReady, hr])
    · exact runs.opTrap ⟨hg, .inl hf⟩ (scalar_ready hs fun r hm => (hr r hm).1)
        (opTrap_parity hs (fun r hm => (hr r hm).2) hm (parityBad_src hplace hbad) (List.ne_nil_of_mem hbad))

/-! ## A step by its turn (R28, R49, R111, R406)

Equations for the operations that a step is made of, one for each thing that can be met. -/

section
variable {s s1 : State} {w : Who} {ws : List (BitVec 32)}

theorem runWords_decoded {i : Instr} {rest : List Byte} (h : decode (ws.flatMap bytesOfWord) = some (i, rest)) :
    s.runWords ws = exec i s := by
  rw [State.runWords, h]
theorem runWords_unassigned (h : decode (ws.flatMap bytesOfWord) = none) : s.runWords ws = exec .unassignedEncoding s := by
  rw [State.runWords, h]
  rfl

/-- The state in which a strand fetches: the Tumbler of its core has taken its cycle, and the strand is the current one. -/
def State.atFetch (s : State) (w : Who) : State := { s.tumble w.core with cur := w }
/-- The PC it fetches at. -/
def State.fetchPc (s : State) (w : Who) : Word := ((s.atFetch w).strand w).pc

/-- An outcome in which a strand of s has issued, by what its fetch meets: whole words, a fetch watchpoint, a trap, a wait. -/
structure Issues (s : State) (w : Who) (o : Host.Outcome State Fault Refusal) : Prop where
  runs : ∀ ws s1, (s.atFetch w).fetchInstr w (s.fetchPc w) = .words ws s1 → s1.watched w (s.fetchPc w) 4 59 = false →
    (∀ i rest, decode (ws.flatMap bytesOfWord) = some (i, rest) → o = exec i s1) ∧
    (decode (ws.flatMap bytesOfWord) = none → o = exec .unassignedEncoding s1)
  watched : ∀ ws s1, (s.atFetch w).fetchInstr w (s.fetchPc w) = .words ws s1 → s1.watched w (s.fetchPc w) 4 59 = true →
    o = s1.trapNow w (Trap.watch (s.fetchPc w) 3) (s.fetchPc w) (s.fetchPc w + BitVec.ofNat 64 (4 * ws.length))
  traps : ∀ t, (s.atFetch w).fetchInstr w (s.fetchPc w) = .trap t →
    o = (s.atFetch w).trapNow w t (s.fetchPc w) (s.fetchPc w + BitVec.ofNat 64 ((s.atFetch w).lenAt w (s.fetchPc w)))
  waits : (s.atFetch w).fetchInstr w (s.fetchPc w) = .wait → o = .next ((s.atFetch w).heldOff w .operand)

theorem runStrand_eq : s.runStrand w =
    match (s.atFetch w).fetchInstr w (s.fetchPc w) with
    | .trap t => (s.atFetch w).trapNow w t (s.fetchPc w) (s.fetchPc w + BitVec.ofNat 64 ((s.atFetch w).lenAt w (s.fetchPc w)))
    | .wait => .next ((s.atFetch w).heldOff w .operand)
    | .words ws s1 =>
      if s1.watched w (s.fetchPc w) 4 59 then
        s1.trapNow w (Trap.watch (s.fetchPc w) 3) (s.fetchPc w) (s.fetchPc w + BitVec.ofNat 64 (4 * ws.length))
      else s1.runWords ws := by
  unfold State.runStrand
  rfl
theorem runStrand_issues : Issues s w (s.runStrand w) where
  runs ws s1 hf hw := by
    have h : s.runStrand w = s1.runWords ws := by
      rw [runStrand_eq, hf]
      exact if_neg (by simp [hw])
    rw [h]
    exact ⟨fun _ _ hd => runWords_decoded hd, runWords_unassigned⟩
  watched ws s1 hf hw := by
    rw [runStrand_eq, hf]
    exact if_pos hw
  traps t hf := by rw [runStrand_eq, hf]
  waits hf := by rw [runStrand_eq, hf]

theorem step_of_agenda {t : Turn} {rest : List Turn} (h : s.agenda = t :: rest) : step s = { s with agenda := rest : State }.turn t := by
  rw [step, State.oneStep, h]
theorem step_of_idle (h : s.agenda = []) : step s = s.idle := by
  rw [step, State.oneStep, h]
theorem idle_runs {n : Nat} {more : List Nat} (h : s.candidates s.cur.core = n :: more) : s.idle = s.runStrand ⟨s.cur.core, n⟩ := by
  rw [State.idle, h]
theorem issueOn_runs {core n : Nat} {more : List Nat} (h : s.candidates core = n :: more) : s.issueOn core = s.runStrand ⟨core, n⟩ := by
  rw [State.issueOn, h]
theorem turn_event {i : Instr} (he : encode i = none) (hi : i ≠ .unassignedEncoding) : s.turn (.event i) = exec i s :=
  if_pos (by simp [isStep, he, hi])

/-! With nothing to run or due on the core of the current strand. -/

section
variable (hc : s.candidates s.cur.core = []) (hd : s.due s.cur.core = none)
include hc hd

theorem idle_overdue {i : Instr} (ho : s.overdue = some i) : s.idle = exec i { s with freeCtr := s.freeCtr + 1 } := by
  rw [State.idle, hc, hd, ho]
theorem idle_overduePod {d : PodDue} (ho : s.overdue = none) (hp : s.overduePod = some d) :
    s.idle = { s with freeCtr := s.freeCtr + 1 : State }.podStep d := by
  rw [State.idle, hc, hd, ho, hp]
theorem idle_advances (ho : s.overdue = none) (hp : s.overduePod = none) : s.idle = exec .timeNsAdvance s := by
  rw [State.idle, hc, hd, ho, hp]
  rfl
end

/-! ## The first word of an instruction (R28, R29) -/

theorem fetchInstr_trap {va : Word} {t : Trap} (h : s.fetchWord w va = .trap t) : s.fetchInstr w va = .trap t := by
  rw [State.fetchInstr, h]
theorem fetchInstr_wait {va : Word} (h : s.fetchWord w va = .wait) : s.fetchInstr w va = .wait := by
  rw [State.fetchInstr, h]
theorem fetchWord_untranslated {va : Word} {t : Trap} (h : s.translate w va .fetch .all = .error t) : s.fetchWord w va = .trap t := by
  rw [State.fetchWord, h]

/-- A fetch writes nothing, so it claims no page (R320). -/
theorem claim_of_fetch {va : Word} {al : Allow} {x : Xlat} (h : s.translate w va .fetch al = .ok x) : x.claim = false := by
  unfold State.translate State.xlatFor at h
  split at h
  · cases h
  · dsimp only at h
    split at h
    · cases h
    · cases h
      simp [Acc.writes]
theorem useXlat_mem {x : Xlat} (h : x.claim = false) : (s.useXlat w x).mem = s.mem := by
  unfold State.useXlat
  rw [h]
  dsimp only
  split <;> rfl
theorem wordAt_hbm {cl v : Nat} (h : inHbm v 4 = true) :
    s.wordAt cl v = BitVec.ofNat 32 (natOfBytes ((List.range 4).map (fun k => s.peekByte cl (v + k)))) := by
  have hv : v + 4 ≤ 2 ^ 40 := of_decide_eq_true h
  refine if_neg fun hm => ?_
  have : 0xF_0000_0000_0000 ≤ v := hm.1
  omega

/-- A word of HBM that translates, is in no error and has not been fetched before. -/
theorem fetchWord_hbm {va : Word} {x : Xlat} {v : Nat} {sync : Bool} (hx : s.translate w va .fetch .all = .ok x)
    (hp : s.place w x.tgt = some (.hbm v sync)) (he : s.eccCause (clusterOf w.core) v 4 true = none) (hi : (s.strand w).icache = []) :
    (s.fetchCut w (.hbm v sync) = true → s.fetchWord w va = .wait) ∧
    (s.fetchCut w (.hbm v sync) = false → ∃ s1, s.fetchWord w va = .word (s.wordAt (clusterOf w.core) v) s1 ∧ s1.mem = s.mem) := by
  have hf : (s.strand w).fetched v = [] := by rw [Strand.fetched, hi]; rfl
  have hm := useXlat_mem (s := s) (w := w) (claim_of_fetch hx)
  constructor <;> intro hcut <;>
    simp [State.fetchWord, hx, hp, State.deadPeer, State.unreached, State.fetchFlat, Place.flat, he, hf, hcut, hm]
end

/-- Settles O58: a step is one turn, and each turn has its equation above. -/
theorem stepRunsDecoded : Obligations.StepRunsDecoded := by
  intro s core n more hc w s0 pc runs
  have issues : ∀ o, Issues s w o → runs o := fun o h => ⟨h.runs, h.watched, h.traps, h.waits⟩
  refine ⟨fun ha he => ?_, fun s1 ha hs => ?_, fun s1 i rest ha he hi => ?_, fun s1 rest ha => ?_, fun x v sync hx hp hv he hi => ?_,
    fun t ht => fetchInstr_trap (fetchWord_untranslated ht), fun s1 ha hc hd => ⟨fun i ho => ?_, fun d ho hp => ?_, fun ho hp => ?_⟩⟩
  · subst he
    rw [step_of_idle ha, idle_runs hc]
    exact issues _ runStrand_issues
  · rw [step_of_agenda ha, hs, State.turn, issueOn_runs hc]
    exact issues _ runStrand_issues
  · rw [step_of_agenda ha, turn_event he hi]
  · rw [step_of_agenda ha]
    rfl
  · rw [← wordAt_hbm hv]
    obtain ⟨hcut, hword⟩ := fetchWord_hbm hx hp he hi
    exact ⟨fun h => fetchInstr_wait (hcut h), hword⟩
  · rw [step_of_idle ha, idle_overdue hc hd ho]
  · rw [step_of_idle ha, idle_overduePod hc hd ho hp]
    cases d <;> rfl
  · rw [step_of_idle ha, idle_advances hc hd ho hp]

end Sys2Proof.Machine
end

-- Proofs of the statements of spec/04_number_formats.md.
section
/-!
SUPPORT. Number formats: fields packed in a number and read back as signed values (R83), the greatest exponent of a block (R78, R83), and
what an xfer makes of its source elements (R323); then a hinge set whose block starts off an LM word (R355, R408).
-/
namespace Sys2Proof.Machine

/-! ## Signed fields of a number (R83) -/

/-- A value of m bits is read back from a number that holds it, wrapped, in its low m bits. -/
theorem sval_of_mod_eq_wrap {m v : Nat} {c : Int} (hm : 0 < m) (hlo : -(2 ^ (m - 1)) ≤ c) (hhi : c < 2 ^ (m - 1))
    (h : v % 2 ^ m = wrap m c) : sval m v = c := by
  obtain ⟨k, rfl⟩ : ∃ k, m = k + 1 := ⟨m - 1, by omega⟩
  have half : (2 : Int) ^ k = ((2 ^ k : Nat) : Int) := (Int.natCast_pow 2 k).symm
  have whole : ((2 ^ (k + 1) : Nat) : Int) = 2 * ((2 ^ k : Nat) : Int) := by rw [Nat.pow_succ]; omega
  rw [Nat.add_sub_cancel, half] at hlo hhi
  simp only [sval, h, wrap, Nat.add_sub_cancel, whole]
  by_cases hc : 0 ≤ c
  · rw [Int.emod_eq_of_lt hc (by omega), if_pos (by omega), Int.toNat_of_nonneg hc]
  · rw [← Int.add_emod_right, Int.emod_eq_of_lt (by omega) (by omega), if_neg (by omega), Int.toNat_of_nonneg (by omega)]
    omega

/-- Fields of m bits in a row, the first one lowest. -/
def packFields (m : Nat) (cs : List Int) : Nat := cs.foldr (fun c acc => wrap m c + 2 ^ m * acc) 0

theorem wrap_lt (m : Nat) (c : Int) : wrap m c < 2 ^ m := by
  have hp : (0 : Int) < ((2 ^ m : Nat) : Int) := Int.natCast_pos.mpr (Nat.two_pow_pos m)
  exact (Int.toNat_lt (Int.emod_nonneg c (Int.ne_of_gt hp))).mpr (Int.emod_lt_of_pos c hp)

theorem packFields_cons (m : Nat) (c : Int) (cs : List Int) : packFields m (c :: cs) = wrap m c + 2 ^ m * packFields m cs := rfl

theorem packFields_field {m : Nat} {cs : List Int} {i : Nat} {c : Int} (h : cs[i]? = some c) :
    packFields m cs / 2 ^ (m * i) % 2 ^ m = wrap m c := by
  induction cs generalizing i with
  | nil => simp at h
  | cons x cs ih =>
    have hx := wrap_lt m x
    cases i with
    | zero =>
      obtain rfl : x = c := Option.some.inj h
      rw [Nat.mul_zero, Nat.pow_zero, Nat.div_one, packFields_cons, Nat.add_mul_mod_self_left, Nat.mod_eq_of_lt hx]
    | succ i =>
      rw [List.getElem?_cons_succ] at h
      rw [Nat.mul_succ, Nat.add_comm, Nat.pow_add, ← Nat.div_div_eq_div_mul, packFields_cons,
        Nat.add_mul_div_left _ _ (Nat.two_pow_pos m), Nat.div_eq_of_lt hx, Nat.zero_add]
      exact ih h

/-- A value held within m signed bits. -/
def heldWithin (m : Nat) (v : Int) : Int := max (-(2 ^ (m - 1))) (min (2 ^ (m - 1) - 1) v)

theorem heldWithin_bounds (m : Nat) (v : Int) : -(2 ^ (m - 1)) ≤ heldWithin m v ∧ heldWithin m v < 2 ^ (m - 1) := by
  have : (0 : Int) < 2 ^ (m - 1) := Int.pow_pos (by decide)
  simp only [heldWithin]
  omega

/-! ## The block code FRC (R83) -/

/-- The greatest biased exponent field of a block. -/
def frcTop (f : Fmt) (xs : List Nat) : Nat := (xs.map (biasedExp f)).foldl max 0
/-- The mantissa of an element in a block of greatest exponent field S. -/
def frcMant (f : Fmt) (m : Nat) (S : Nat) (x : Nat) : Int :=
  heldWithin m (roundInt 0 ((fVal f x).scale (125 + m - (S : Int)))).1

section
variable {f : Fmt} {m : Nat} {xs : List Nat}

theorem frcTop_attained (h : xs ≠ []) :
    (∀ x ∈ xs, biasedExp f x ≤ frcTop f xs) ∧ ∃ x ∈ xs, biasedExp f x = frcTop f xs := by
  obtain ⟨t, ht⟩ := Option.isSome_iff_exists.mp (List.isSome_max?_of_ne_nil (l := xs.map (biasedExp f)) (by simpa using h))
  have e : frcTop f xs = t := by rw [frcTop, List.foldl_max, ht]; exact Nat.zero_max t
  obtain ⟨hmem, hle⟩ := List.max?_eq_some_iff.mp ht
  rw [e]
  exact ⟨fun x hx => hle _ (List.mem_map_of_mem hx), List.mem_map.mp hmem⟩

theorem frcEncode_special (h : ∃ x ∈ xs, fIsNan f x = true ∨ fIsInf f x = true) : frcEncode f m xs = (0xFF, 0xFF) := by
  have : xs.any (fun x => fIsNan f x || fIsInf f x) = true := by simpa using h
  simp only [frcEncode, this, if_true]

theorem frcEncode_code (h : ∀ x ∈ xs, fIsNan f x = false ∧ fIsInf f x = false) :
    (frcEncode f m xs).1 = frcTop f xs + 2 ^ 8 * packFields m (xs.map (frcMant f m (frcTop f xs))) := by
  have hany : xs.any (fun x => fIsNan f x || fIsInf f x) = false := by simpa using h
  have hneg (t : Nat) : -((t : Int) - 125 - m) = 125 + m - (t : Int) := by omega
  simp only [frcEncode, hany, Bool.false_eq_true, if_false, hneg]
  rfl

/-- A field of a finite block's code: the first byte stands below it. -/
theorem sval_frcEncode_field (h : ∀ x ∈ xs, fIsNan f x = false ∧ fIsInf f x = false) (hm : 0 < m) (ht : frcTop f xs < 256) {i x : Nat}
    (hx : xs[i]? = some x) : sval m ((frcEncode f m xs).1 / 2 ^ (8 + m * i)) = frcMant f m (frcTop f xs) x := by
  obtain ⟨hlo, hhi⟩ := heldWithin_bounds m (roundInt 0 ((fVal f x).scale (125 + m - (frcTop f xs : Int)))).1
  refine sval_of_mod_eq_wrap hm hlo hhi ?_
  rw [frcEncode_code h, Nat.pow_add, ← Nat.div_div_eq_div_mul, Nat.add_mul_div_left _ _ (Nat.two_pow_pos 8), Nat.div_eq_of_lt (b := 2 ^ 8) ht,
    Nat.zero_add]
  exact packFields_field (by rw [List.getElem?_map, hx]; rfl)

theorem frcDecode_special {c i : Nat} (h : c % 256 = 0xFF) : frcDecode f m c i = f.nan := by
  simp only [frcDecode, h, if_true]
theorem frcDecode_finite {c i : Nat} (h : c % 256 ≠ 0xFF) : frcDecode f m c i =
    (roundTo f 0 false ((Num.ofInt (sval m (c / 2 ^ (8 + m * i)))).scale (((c % 256 : Nat) : Int) - 125 - m))).1 := by
  simp only [frcDecode, h, if_false]
end

/-- The exponent field of bf16 and of f32 has eight bits. -/
theorem biasedExp_lt {f : Fmt} (hf : f = fmtOf .bf16 ∨ f = fmtOf .f32) (x : Nat) : biasedExp f x < 256 := by
  have hpos : 0 < f.signBit := Nat.two_pow_pos _
  refine Nat.div_lt_of_lt_mul (Nat.lt_of_lt_of_eq (Nat.mod_lt _ hpos) ?_)
  rcases hf with rfl | rfl <;> rfl

theorem frcBytes_pos (bud : Nat) : 0 < frcBytes bud := by
  unfold frcBytes
  omega

/-! ## MX blocks (R78) -/

/-- floor(log2) of the magnitude of a finite value; none for any other. -/
def Num.top? : Num → Option Int
  | .fin _ m e _ => some ((Nat.log2 m : Int) + e)
  | _ => none
/-- A NaN or an infinity. -/
def Num.special? : Num → Bool
  | .nan _ | .inf _ => true
  | _ => false

/-- Emx of an element format (R78). -/
def mxEmx (f : Fmt) : Int := if f.ocp then 8 else 15

/-- The greatest exponent so far, and that of one more value. -/
def topStep (a : Option Int) (x : Num) : Option Int :=
  match x.top?, a with
  | some u, some t => some (max t u)
  | some u, none => some u
  | none, a => a

theorem foldl_topStep_some (xs : List Num) (t : Int) : xs.foldl topStep (some t) = some ((xs.filterMap Num.top?).foldl max t) := by
  induction xs generalizing t with
  | nil => rfl
  | cons x xs ih =>
    cases hx : x.top? with
    | none => simpa [topStep, hx] using ih t
    | some u => simpa [topStep, hx] using ih (max t u)

theorem topExp_eq_foldl (xs : List Num) : topExp xs = xs.foldl topStep none := by
  unfold topExp
  congr 1
  funext a x
  cases x <;> cases a <;> rfl

theorem topExp_eq_max? (xs : List Num) : topExp xs = (xs.filterMap Num.top?).max? := by
  rw [topExp_eq_foldl]
  induction xs with
  | nil => rfl
  | cons x xs ih =>
    cases hx : x.top? with
    | none => simpa [topStep, hx] using ih
    | some u =>
      have e : topStep none x = some u := by simp only [topStep, hx]
      rw [List.foldl_cons, e, foldl_topStep_some, List.filterMap_cons_some hx, List.max?_cons']

theorem topExp_none {xs : List Num} (h : ∀ x ∈ xs, x.top? = none) : topExp xs = none := by
  rw [topExp_eq_max?, List.filterMap_eq_nil_iff.mpr h]
  rfl
theorem topExp_some {xs : List Num} {t : Int} (ht : ∃ x ∈ xs, x.top? = some t) (hle : ∀ x ∈ xs, ∀ u, x.top? = some u → u ≤ t) :
    topExp xs = some t := by
  rw [topExp_eq_max?, List.max?_eq_some_iff]
  refine ⟨List.mem_filterMap.mpr ht, fun u hu => ?_⟩
  obtain ⟨x, hx, e⟩ := List.mem_filterMap.mp hu
  exact hle x hx u e

section
variable {f : Fmt} {c : Word} {xs : List Num}

theorem mxQuantise_special (h : ∃ x ∈ xs, x.special? = true) : mxQuantise f c xs = (0xFF, xs.map (fun _ => 0), fNV) :=
  if_pos (List.any_eq_true.mpr h)

variable (hfin : ∀ x ∈ xs, x.special? = false)
include hfin

theorem mxQuantise_finite : mxQuantise f c xs = match topExp xs with
    | none => (0x7F, xs.map (fun _ => 0), 0)
    | some t => if t - mxEmx f < -127 then (0x00, xs.map (fun _ => 0), fUF)
      else
        let k := min (t - mxEmx f) 127
        let rs := xs.map (fun v => clipRound f c (v.scale (-k)))
        ((k + 127).toNat, rs.map (·.1), rs.foldl (fun a r => a ||| r.2) (if 127 < t - mxEmx f then fOF else 0)) := by
  refine if_neg ?_
  rw [Bool.not_eq_true]
  exact List.any_eq_false.mpr fun x hx => (Bool.not_eq_true _).mpr (hfin x hx)

theorem mxQuantise_zeros (h : topExp xs = none) : mxQuantise f c xs = (0x7F, xs.map (fun _ => 0), 0) := by
  rw [mxQuantise_finite hfin, h]
theorem mxQuantise_below {t : Int} (h : topExp xs = some t) (hlow : t - mxEmx f < -127) :
    mxQuantise f c xs = (0x00, xs.map (fun _ => 0), fUF) := by
  rw [mxQuantise_finite hfin, h]
  exact if_pos hlow
theorem mxQuantise_within {t k : Int} (h : topExp xs = some t) (hlow : -127 ≤ t - mxEmx f) (hk : k = min (t - mxEmx f) 127) :
    (mxQuantise f c xs).1 = (k + 127).toNat ∧ (mxQuantise f c xs).2.1 = xs.map (fun v => (clipRound f c (v.scale (-k))).1) := by
  rw [mxQuantise_finite hfin, h, hk]
  simp only [if_neg (Int.not_lt.mpr hlow), List.map_map]
  exact ⟨trivial, rfl⟩
end

/-- The rounded value of an element, or the largest of its sign where it overflows. -/
theorem clipRound_code (f : Fmt) (c : Word) (v : Num) : (clipRound f c v).1 =
    let z := roundTo f (fctlMode c) (fctlFz c) v
    if z.2 &&& fOF ≠ 0 then (if v.neg? then f.signBit else 0) + f.maxBits else z.1 := by
  simp only [clipRound, bne_iff_ne]
  split <;> rfl

/-! ## What an xfer makes of its source elements (R323) -/

/-- The source elements of an MX block, read under the FCTL captured at issue. -/
def mxElems (r : XferRec) (s : LRec) (vs : List Nat) : List Num := vs.map (readF (fmtOf s.ty) r.fctlc)

section
variable {r : XferRec} {s d : LRec} {j : Nat} {vs : List Nat}

theorem xferValue_copy {v : Nat} (h : r.xform = 0 ∨ r.xform = 1) : xferValue r s d j [v] = (v, none) := by
  rcases h with h | h <;> simp [xferValue, h]

theorem xferValue_frcEncode (h : r.xform = 2) : xferValue r s d j vs =
    let n := frcBytes r.budget.toNat
    let q := frcEncode (fmtOf s.ty) (frcBits r.budget.toNat) vs
    (q.1 / 2 ^ (8 * (j % n)) % 256, if j % n = n - 1 then some (j / n, q.2) else none) := by
  simp [xferValue, h]

theorem xferValue_frcDecode (h : r.xform = 3) : xferValue r s d j vs =
    (frcDecode (fmtOf d.ty) (frcBits r.budget.toNat) (vs.foldr (fun b acc => b + 256 * acc) 0) (d.frcBlock (d.index j)).2, none) := by
  simp [xferValue, h]

theorem xferValue_mx (h : r.xform = 4) : xferValue r s d j vs =
    let q := mxQuantise (fmtOf d.ty) r.fctlc (mxElems r s vs)
    (q.2.1.getD (j % 32) 0, if j % 32 = 31 then some (j / 32, q.1) else none) := by
  simp [xferValue, mxElems, h]

theorem xferValue_lut {v : Nat} (h : r.xform = 5) : xferValue r s d j [v] =
    (if isF16or32 d.ty then (roundTo (fmtOf d.ty) 0 false (Num.ofInt (lutEntry r.lut v))).1
      else wrap (8 * memWidth d.ty) (lutEntry r.lut v), none) := by
  simp [xferValue, h]

/-- A block whose codes are all 0. -/
theorem xferValue_mx_zeros {sc : Nat} {fl : FFlags} (h : r.xform = 4)
    (hq : mxQuantise (fmtOf d.ty) r.fctlc (mxElems r s vs) = (sc, (mxElems r s vs).map (fun _ => 0), fl)) :
    xferValue r s d j vs = (0, if j % 32 = 31 then some (j / 32, sc) else none) := by
  rw [xferValue_mx h, hq]
  cases hv : vs[j % 32]? <;> simp [mxElems, hv]

/-- A block within the range of the scale: element j from the value at its place. -/
theorem xferValue_mx_within {t k : Int} (h : r.xform = 4) (hlen : vs.length = 32)
    (hfin : ∀ x ∈ mxElems r s vs, x.special? = false) (ht : topExp (mxElems r s vs) = some t)
    (hlow : -127 ≤ t - mxEmx (fmtOf d.ty)) (hk : k = min (t - mxEmx (fmtOf d.ty)) 127) :
    xferValue r s d j vs = ((clipRound (fmtOf d.ty) r.fctlc (((mxElems r s vs).getD (j % 32) (.zero false)).scale (-k))).1,
        if j % 32 = 31 then some (j / 32, (k + 127).toNat) else none) := by
  have hj : j % 32 < vs.length := by omega
  obtain ⟨hsc, hcs⟩ := mxQuantise_within (f := fmtOf d.ty) (c := r.fctlc) hfin ht hlow hk
  rw [xferValue_mx h]
  simp only [hsc, hcs]
  simp [mxElems, hj]
end

/-- Settles O36: the value and the AUX byte of each transform, and the fields of an FRC block. -/
theorem transferElements : Obligations.TransferElements := by
  refine ⟨fun r s d j v => ⟨fun h => ⟨rfl, xferValue_copy (.inl h)⟩, fun h => ⟨rfl, xferValue_copy (.inr h)⟩, fun h => ⟨rfl, ?_⟩⟩,
    fun r s d j vs h => ⟨rfl, xferValue_frcDecode h⟩, fun r s d j vs h hty hlen => ?_, fun r s d j vs h => ⟨rfl, ?_⟩,
    fun f m xs hf hm hlen _ => ⟨frcEncode_special, fun hfin => ?_, fun c i => frcDecode_special, fun c i => frcDecode_finite⟩⟩
  · rw [xferValue_lut h]
    constructor <;> rintro (ht | ht | ht) <;> rw [ht] <;> rfl
  · intro f c xs emx top bad gives clip
    have hemx : emx = mxEmx f := by rcases hty with ht | ht <;> simp [emx, f, mxEmx, fmtOf, ht]
    have htop : top = Num.top? := by funext x; cases x <;> rfl
    have hbad : bad = Num.special? := by funext x; cases x <;> rfl
    rw [htop, hbad, hemx]
    have held {t k : Int} (hfin : ∀ x ∈ xs, x.special? = false) (ht : topExp xs = some t) (hlow : -127 ≤ t - mxEmx f)
        (hk : k = min (t - mxEmx f) 127) : gives (k + 127).toNat (clip k) := by
      have := xferValue_mx_within (j := j) h hlen hfin ht hlow hk
      rwa [clipRound_code] at this
    refine ⟨rfl, fun hx => xferValue_mx_zeros h (mxQuantise_special hx), fun hx => ?_, fun t hfin hat hle => ?_⟩
    · exact xferValue_mx_zeros h (mxQuantise_zeros (fun x hm => (hx x hm).1) (topExp_none fun x hm => (hx x hm).2))
    · have ht := topExp_some hat hle
      exact ⟨fun hlow => xferValue_mx_zeros h (mxQuantise_below hfin ht hlow),
        fun hlow hhigh => held hfin ht hlow (Int.min_eq_left hhigh).symm,
        fun hhigh => held hfin ht (by omega) (Int.min_eq_right (Int.le_of_lt hhigh)).symm⟩
  · have hpos := frcBytes_pos r.budget.toNat
    have last : j % frcBytes r.budget.toNat = frcBytes r.budget.toNat - 1 ↔ j % frcBytes r.budget.toNat + 1 = frcBytes r.budget.toNat := by
      omega
    simp only [xferValue_frcEncode h, last, and_self]
  · obtain ⟨hle, x, hx, hat⟩ := frcTop_attained (f := f) (List.ne_nil_of_length_eq_add_one hlen)
    have hlt : frcTop f xs < 256 := hat ▸ biasedExp_lt hf x
    have hcode : (frcEncode f m xs).1 % 256 = frcTop f xs := by
      rw [frcEncode_code hfin]
      omega
    rw [hcode]
    exact ⟨hle, ⟨x, hx, hat⟩, fun i y hy => sval_frcEncode_field hfin (by omega) hlt hy⟩

/-! ## A hinge set whose block starts off an LM word (R355, R408) -/

/-- The slot of a set with id 0, open, whose block starts at LM offset 1. -/
def oddSlot : HSlot := { HSlot.closed with state := .opened, block := 1 }
/-- A machine with Hinge sets and this slot on the core that executes, and an error recorded at the first byte of the block. -/
def oddBlock : State :=
  ({ State.reset with feature2 := 16, badUnits := [lmFlat 0 1] } : State).setHSlot 0 0 oddSlot

/-- The storage errors of a next state. -/
def badUnitsOf : Host.Outcome State Fault Refusal → List Nat
  | .next t => t.badUnits
  | _ => []

theorem State.clearErrs_badUnits (s : State) (w : Who) (ops : List Opnd) : (s.clearErrs w ops).badUnits = s.badUnits := by
  unfold State.clearErrs
  split <;> rfl
theorem badUnitsOf_retires {s t : State} {f : Form} {ops : List Opnd} {eu : Nat} : badUnitsOf (retires s f ops eu t) = t.badUnits :=
  State.clearErrs_badUnits ..

/-- hmass.set writes the mass, and what it writes whole is no longer in error. -/
theorem oddBlock_hmassSet : badUnitsOf (exec (.hmassSet ⟨1, 0, false⟩ 0 0) oddBlock) = [] := by decide +kernel

/-- Refutes O41: nothing in it asks that a block start at an LM word, as one that hopen or hjoin placed does. Where it starts off one, an
error recorded at its first byte lies on none of the words that a read of the block checks, so that the block counts as free of errors;
but hmass.set's write covers that unit, and clears it (R408), where the statement keeps every storage error. -/
theorem not_hingeBlockAccess : ¬ Obligations.HingeBlockAccess := by
  intro h
  have able : Able oddBlock ⟨1, 0, false⟩ [.feat 4, .mem, .src 0] := by decide +kernel
  obtain ⟨-, -, clean⟩ := h ⟨1, 0, false⟩ .f32 0 0 0 0 0 0 oddBlock (by decide +kernel)
  obtain ⟨-, -, -, -, set, -⟩ := clean (by decide +kernel)
  have kept := congrArg badUnitsOf ((set able).2 (by decide +kernel))
  rw [oddBlock_hmassSet, badUnitsOf_retires] at kept
  exact absurd kept (by decide +kernel)

end Sys2Proof.Machine
end

-- Proofs of the statements of spec/05_core_and_strand_state.md.
section
/-!
SUPPORT. Registers and loop levels across the operations that end an instruction (R88, R89), LoopStep as a walk down the levels (R102), and
the set-up of a level (R128).
-/
namespace Sys2Proof.Machine

/-! ## What setting a register, clearing errors and retiring leave of a strand and its registers -/

section
variable {s t : State} {w : Who} {d r : Reg} {v : Word} {len eu : Nat}

/-- A core changed, its strands kept. -/
theorem State.strand_setCore_of_strands {c : Nat} {v : Core} (h : v.live.strands = (s.live c).strands) (x : Who) :
    (s.setCore c v).strand x = s.strand x := by
  unfold State.strand CoreCtx.strand
  by_cases hx : x.core = c
  · subst hx
    rw [State.live_setCore_same, h]
  · unfold State.live
    rw [State.core_setCore_other s v hx]
@[simp] theorem State.strand_setReg (x : Who) : (s.setReg w d v).strand x = s.strand x := by
  rcases s.setReg_cases w d v with e | ⟨p, -, -, e⟩ <;> rw [e]
  exact State.strand_setCore_of_strands (by rfl) x
@[simp] theorem State.strand_clearErrs (ops : List Opnd) (x : Who) : (s.clearErrs w ops).strand x = s.strand x := by
  unfold State.clearErrs
  split
  · rfl
  · exact State.strand_setCore_of_strands (by rfl) x
@[simp] theorem State.strand_clearStatus (sel : Nat) (x : Who) : (s.clearStatus w sel).strand x = s.strand x := by
  unfold State.clearStatus
  split
  · rfl
  · exact State.strand_setCore_of_strands (by rfl) x

/-- A strand whose PC has moved past an instruction, before LoopStep. -/
def Strand.past (st : Strand) (len : Nat) : Strand := { st with pc := st.pc + BitVec.ofNat 64 len, wait := none }

theorem State.strand_retire : (s.retire w len eu).strand w = ((s.strand w).past len).loopStep (s.strand w).pc := by
  unfold State.retire State.strand
  rw [State.live_setCore_same, charge_strand, CoreCtx.strand_setStrand_same]
  rfl
/-- What retiring makes of a strand depends on that strand alone. -/
theorem State.strand_retire_congr (h : t.strand w = s.strand w) : (t.retire w len eu).strand w = (s.retire w len eu).strand w := by
  rw [State.strand_retire, State.strand_retire, h]
theorem State.strand_jumpTo {pc : Word} : (s.jumpTo w pc eu).strand w = { s.strand w with pc := pc, wait := none } := by
  unfold State.jumpTo State.strand
  rw [State.live_setCore_same, charge_strand, CoreCtx.strand_setStrand_same]
  rfl

theorem Strand.loopStep_hold {st : Strand} {a : Word} : (st.loopStep a).hold = st.hold := by
  have h := loopStep_keeps st a
  exact (congrArg Strand.hold h : (st.loopStep a).still.hold = st.still.hold)

/-- What a strand holds fixes the places of its registers (R32, R88). -/
theorem State.reg_congr (hh : (t.strand w).hold = (s.strand w).hold) (hr : (t.live w.core).regs = (s.live w.core).regs) :
    t.reg w r = s.reg w r := by
  unfold State.reg Strand.regPlace
  rw [hh, hr]
theorem State.reg_retire : (s.retire w len eu).reg w r = s.reg w r := by
  refine State.reg_congr ?_ ?_
  · rw [State.strand_retire, Strand.loopStep_hold]
    rfl
  · unfold State.retire
    rw [State.live_setCore_same, (charge_regs _ _).1]
    rfl
theorem State.reg_clearErrs (ops : List Opnd) : (s.clearErrs w ops).reg w r = s.reg w r := by
  refine State.reg_congr (by rw [State.strand_clearErrs]) ?_
  unfold State.clearErrs
  split
  · rfl
  · rw [State.live_setLive_same]

/-- A register that does not lie at the place of the one written reads as before. -/
theorem reg_setReg_other (h : d = 0 ∨ (s.strand w).regPlace w.strand r ≠ (s.strand w).regPlace w.strand d) :
    (s.setReg w d v).reg w r = s.reg w r := by
  rcases s.setReg_cases w d v with e | ⟨p, hd, hp, e⟩
  · rw [e]
  · have hne : (s.strand w).regPlace w.strand r ≠ some p := hp ▸ h.resolve_left hd
    unfold State.reg
    rw [State.strand_setReg, e, State.live_setLive_same]
    split
    · rfl
    · cases hq : (s.strand w).regPlace w.strand r with
      | none => rfl
      | some q => exact AMap.get_put_other _ _ _ _ fun hqp => hne (by rw [hq, hqp])
end

/-! ## LoopStep by levels (R102) -/

/-- The level is active and its body ends at the address. -/
abbrev LoopRegs.EndsAt (r : LoopRegs) (a : Word) : Prop := r.count ≠ 0 ∧ r.stop = a
/-- It ends there with passes left. -/
abbrev LoopRegs.JumpsBack (r : LoopRegs) (a : Word) : Prop := r.EndsAt a ∧ 1 < r.count.toNat

section
variable {r : LoopRegs} {a : Word} {st : Strand} {n m k : Nat}

theorem loopLevel_of_jumpsBack (h : r.JumpsBack a) : loopLevel r a = some ({ r with count := r.count - 1 }, some r.start) := by
  obtain ⟨hends, hmore⟩ := h
  unfold loopLevel
  rw [if_pos hends, if_pos hmore]
theorem loopLevel_of_last (h : r.EndsAt a) (hb : ¬ r.JumpsBack a) : loopLevel r a = some ({ r with count := 0 }, none) := by
  unfold loopLevel
  rw [if_pos h, if_neg fun hmore => hb ⟨h, hmore⟩]
theorem loopLevel_of_not_endsAt (h : ¬ r.EndsAt a) : loopLevel r a = none := if_neg h

/-- The four levels. -/
theorem eq_of_lt_four (h : n < 4) : n = 0 ∨ n = 1 ∨ n = 2 ∨ n = 3 := by omega
theorem Strand.loopRegs_setLoop (hn : n < 4) (hm : m < 4) : (st.setLoop n r).loopRegs m = if m = n then r else st.loopRegs m := by
  rcases eq_of_lt_four hn with rfl | rfl | rfl | rfl <;> rcases eq_of_lt_four hm with rfl | rfl | rfl | rfl <;> rfl
theorem Strand.setLoop_loopRegs : st.setLoop n (st.loopRegs n) = st := by
  unfold Strand.loopRegs Strand.setLoop
  repeat' split
  all_goals rfl
theorem Strand.setLoop_pc : (st.setLoop n r).pc = st.pc := by
  unfold Strand.setLoop
  repeat' split
  all_goals rfl

/-- One level of LoopStep: it jumps back, or the walk goes on. -/
def Strand.levelThen (k : Nat) (a : Word) (next : Strand → Strand) (st : Strand) : Strand :=
  match (match loopLevel (st.loopRegs k) a with
    | some (r, j) => (st.setLoop k r, j)
    | none => (st, none)) with
  | (t, some pc) => { t with pc := pc }
  | (t, none) => next t
/-- LoopStep of the levels below k, from the highest down, ending at the first that jumps back. -/
def Strand.loopDown (a : Word) : Nat → Strand → Strand
  | 0 => id
  | k + 1 => Strand.levelThen k a (Strand.loopDown a k)

theorem Strand.loopStep_eq_loopDown : st.loopStep a = Strand.loopDown a 4 st := by
  have lowest : (fun t : Strand => match loopLevel t.loop0 a with
      | some (r, some pc) => { t with loop0 := r, pc := pc }
      | some (r, none) => { t with loop0 := r }
      | none => t) = Strand.levelThen 0 a id := by
    funext t
    unfold Strand.levelThen
    rw [show t.loopRegs 0 = t.loop0 from rfl]
    rcases loopLevel t.loop0 a with _ | ⟨r, _ | pc⟩ <;> rfl
  exact congrArg (fun next => Strand.levelThen 3 a (Strand.levelThen 2 a (Strand.levelThen 1 a next)) st) lowest

/-- The level as LoopStep leaves it where it does not jump back: its last pass has ended, or it is not concerned. -/
def LoopRegs.ended (r : LoopRegs) (a : Word) : LoopRegs := if r.EndsAt a then { r with count := 0 } else r
theorem LoopRegs.ended_of_endsAt (h : r.EndsAt a) : r.ended a = { r with count := 0 } := if_pos h
theorem LoopRegs.ended_of_not_endsAt (h : ¬ r.EndsAt a) : r.ended a = r := if_neg h

theorem Strand.levelThen_of_jumpsBack (next : Strand → Strand) (h : (st.loopRegs k).JumpsBack a) :
    st.levelThen k a next =
      { st.setLoop k { st.loopRegs k with count := (st.loopRegs k).count - 1 } with pc := (st.loopRegs k).start } := by
  unfold Strand.levelThen
  rw [loopLevel_of_jumpsBack h]
theorem Strand.levelThen_of_not_jumpsBack (next : Strand → Strand) (h : ¬ (st.loopRegs k).JumpsBack a) :
    st.levelThen k a next = next (st.setLoop k ((st.loopRegs k).ended a)) := by
  unfold Strand.levelThen
  by_cases hends : (st.loopRegs k).EndsAt a
  · rw [loopLevel_of_last hends h, LoopRegs.ended_of_endsAt hends]
  · rw [loopLevel_of_not_endsAt hends, LoopRegs.ended_of_not_endsAt hends, Strand.setLoop_loopRegs]

/-- No level below k jumps back: the PC stays, and each of these levels has ended. -/
theorem Strand.loopDown_ends (hk : k ≤ 4) (h : ∀ m < k, ¬ (st.loopRegs m).JumpsBack a) :
    (st.loopDown a k).pc = st.pc ∧
      ∀ m < 4, (st.loopDown a k).loopRegs m = if m < k then (st.loopRegs m).ended a else st.loopRegs m := by
  induction k generalizing st with
  | zero => exact ⟨rfl, fun m _ => rfl⟩
  | succ k ih =>
    have hk4 : k < 4 := hk
    obtain ⟨hpc, hregs⟩ := ih (st := st.setLoop k ((st.loopRegs k).ended a)) (by omega) fun m hm => by
      rw [Strand.loopRegs_setLoop hk4 (Nat.lt_trans hm hk4), if_neg (Nat.ne_of_lt hm)]
      exact h m (by omega)
    rw [Strand.loopDown, Strand.levelThen_of_not_jumpsBack _ (h k (by omega))]
    refine ⟨hpc.trans Strand.setLoop_pc, fun m hm => ?_⟩
    rw [hregs m hm, Strand.loopRegs_setLoop hk4 hm]
    by_cases hmk : m = k
    · subst hmk
      rw [if_neg (by omega), if_pos rfl, if_pos (by omega)]
    · simp only [hmk, if_false, show m < k + 1 ↔ m < k by omega]

/-- n is the highest level below k that jumps back: the walk ends there. -/
theorem Strand.loopDown_jumps (hk : k ≤ 4) (hn : n < k) (hback : (st.loopRegs n).JumpsBack a)
    (h : ∀ m, n < m → m < k → ¬ (st.loopRegs m).JumpsBack a) :
    (st.loopDown a k).pc = (st.loopRegs n).start ∧
      ∀ m < 4, (st.loopDown a k).loopRegs m =
        if m = n then { st.loopRegs n with count := (st.loopRegs n).count - 1 }
        else if n < m ∧ m < k then (st.loopRegs m).ended a else st.loopRegs m := by
  induction k generalizing st with
  | zero => omega
  | succ k ih =>
    rw [Strand.loopDown]
    by_cases hnk : n = k
    · subst hnk
      rw [Strand.levelThen_of_jumpsBack _ hback]
      refine ⟨rfl, fun m hm => (Strand.loopRegs_setLoop (by omega) hm).trans ?_⟩
      rw [if_neg (c := n < m ∧ m < n + 1) (by omega)]
    · have hk4 : k < 4 := hk
      have at_n : (st.setLoop k ((st.loopRegs k).ended a)).loopRegs n = st.loopRegs n := by
        rw [Strand.loopRegs_setLoop hk4 (by omega), if_neg hnk]
      obtain ⟨hpc, hregs⟩ := ih (st := st.setLoop k ((st.loopRegs k).ended a)) (by omega) (by omega) (at_n ▸ hback) fun m hm hmk => by
        rw [Strand.loopRegs_setLoop hk4 (Nat.lt_trans hmk hk4), if_neg (Nat.ne_of_lt hmk)]
        exact h m hm (by omega)
      rw [Strand.levelThen_of_not_jumpsBack _ (h k (by omega) (by omega))]
      rw [at_n] at hpc hregs
      refine ⟨hpc, fun m hm => ?_⟩
      rw [hregs m hm, Strand.loopRegs_setLoop hk4 hm]
      by_cases hmk : m = k
      · subst hmk
        rw [if_neg (by omega), if_neg (by omega), if_pos rfl, if_neg (by omega), if_pos (by omega)]
      · simp only [hmk, if_false, show m < k + 1 ↔ m < k by omega]
end

section
variable {s : State} {w : Who} {len eu : Nat}

/-- An instruction retires and no level jumps back from it. -/
theorem State.retire_ends (h : ∀ m < 4, ¬ ((s.strand w).loopRegs m).JumpsBack (s.strand w).pc) :
    ((s.retire w len eu).strand w).pc = (s.strand w).pc + BitVec.ofNat 64 len ∧
      ∀ m < 4, ((s.retire w len eu).strand w).loopRegs m = ((s.strand w).loopRegs m).ended (s.strand w).pc := by
  rw [State.strand_retire, Strand.loopStep_eq_loopDown]
  obtain ⟨hpc, hregs⟩ := Strand.loopDown_ends (st := (s.strand w).past len) (Nat.le_refl 4) h
  refine ⟨hpc, fun m hm => ?_⟩
  rw [hregs m hm, if_pos hm]
  rfl

/-- An instruction retires and n is the highest level that jumps back from it. -/
theorem State.retire_jumps {n : Nat} (hn : n < 4) (hback : ((s.strand w).loopRegs n).JumpsBack (s.strand w).pc)
    (h : ∀ m, n < m → m < 4 → ¬ ((s.strand w).loopRegs m).JumpsBack (s.strand w).pc) :
    ((s.retire w len eu).strand w).pc = ((s.strand w).loopRegs n).start ∧
      ∀ m < 4, ((s.retire w len eu).strand w).loopRegs m =
        if m = n then { (s.strand w).loopRegs n with count := ((s.strand w).loopRegs n).count - 1 }
        else if n < m then ((s.strand w).loopRegs m).ended (s.strand w).pc else (s.strand w).loopRegs m := by
  rw [State.strand_retire, Strand.loopStep_eq_loopDown]
  obtain ⟨hpc, hregs⟩ := Strand.loopDown_jumps (st := (s.strand w).past len) (Nat.le_refl 4) hn hback h
  refine ⟨hpc, fun m hm => ?_⟩
  rw [hregs m hm]
  simp only [hm, and_true]
  rfl
end

/-! ## A register written and nothing else (R88, R89) -/

section
variable {s : State} {f : Form} {ops : List Opnd} {d : Reg} {v : Word} {len eu : Nat}

/-- An outcome that, on able operands, is to write register d and to retire. -/
def WritesReg (f : Form) (ops : List Opnd) (d : Reg) (s : State) (o : Host.Outcome State Fault Refusal) : Prop :=
  ∃ eu v, Able s f ops → o = retires s f ops eu (s.setReg s.cur d v)
theorem writesReg_runInstr (f : Form) (ops : List Opnd) (d : Reg) (eu : Nat) (g : State → Who → Word) (s : State) :
    WritesReg f ops d s (runInstr f ops (fun s w => done (s.setReg w d (g s w)) eu) s) :=
  ⟨eu, g s s.cur, fun able => runInstr_retires able rfl⟩
theorem writesReg_intOp (f : Form) (ty : Ty) (d a : Reg) (b : Src) (r : Word → Word → Int) (s : State) :
    WritesReg f (aluOps d a b) d s (intOp f ty d a b r s) := writesReg_runInstr ..
theorem writesReg_intOp_lit64 (f : Form) (ty : Ty) (d a : Reg) (imm : Imm) (r : Word → Word → Int) (s : State) :
    WritesReg f [.dst d, .src a] d s (intOp f ty d a (.lit64 imm) r s) := writesReg_intOp (b := .lit64 imm) ..
theorem writesReg_unaryOp (f : Form) (d a : Reg) (r : Word → Word) (s : State) :
    WritesReg f [.dst d, .src a] d s (unaryOp f d a r s) := writesReg_runInstr ..

/-- Every instruction of the register-only list writes its register and retires. -/
theorem registerOnly_writesReg {i : Instr} (h : registerOnly i = some (f, ops, d)) (s : State) : WritesReg f ops d s (exec i s) := by
  delta exec
  cases i with
  | iAdd | iSub | iMul | iMulh | iDiv | iRem | iAnd | iOr | iXor | iAndn | iShl | iShr | iSra | iRol | iMin | iMax =>
    cases h
    exact writesReg_intOp ..
  | addImm | andImm | orImm | xorImm | shlImm | shrImm | sraImm | rolImm =>
    cases h
    exact writesReg_intOp_lit64 ..
  | mov | clz | ctz | popc | cvt =>
    cases h
    exact writesReg_unaryOp ..
  | bext | bins | lea | movi | rdtime | sel | mfs =>
    cases h
    exact writesReg_runInstr ..
  | _ => cases h

theorem execMovi_retires {imm : Imm} (able : Able s f [.dst d]) :
    exec (.movi f d imm) s = retires s f [.dst d] 2 (s.setReg s.cur d imm) :=
  runInstr_retires able (body := fun s w => done (s.setReg w d imm) 2) rfl

theorem CoreFrame.retires_setReg :
    CoreFrame s (((s.setReg s.cur d v).clearErrs s.cur ops).retire s.cur len eu) id [d] [] :=
  (((CoreFrame.refl s id [d] []).setReg (List.mem_singleton_self d) rfl).clearErrs ops).retire len eu
theorem NothingElse.retires_setReg : NothingElse s (((s.setReg s.cur d v).clearErrs s.cur ops).retire s.cur len eu) :=
  (((NothingElse.refl s).setReg).clearErrs ops).retire len eu
end

/-- Settles O5: each instruction of the list writes its register and retires; what the write and the retirement leave is said above. -/
theorem registerWriteReadsBack : Obligations.RegisterWriteReadsBack := by
  refine ⟨fun f d imm s able => ⟨_, execMovi_retires able, ?_, fun r hr => ?_, .retires_setReg, .retires_setReg⟩,
    fun i f ops d h s able => ?_⟩
  · have held : (s.strand s.cur).holds d = true := by
      obtain ⟨-, -, hops⟩ := able
      exact (Bool.and_eq_true_iff.mp (hops _ (List.mem_singleton_self _))).1
    rw [State.reg_retire, State.reg_clearErrs, reg_setReg_same imm held]
  · rw [State.reg_retire, State.reg_clearErrs, reg_setReg_other hr]
  · obtain ⟨eu, v, hexec⟩ := registerOnly_writesReg h s
    refine ⟨_, hexec able, .retires_setReg, .retires_setReg, fun h0 h1 h2 h3 => ?_⟩
    have idle : ∀ m < 4, ¬ ((s.strand s.cur).loopRegs m).JumpsBack (s.strand s.cur).pc := by
      intro m hm hback
      obtain ⟨⟨hactive, -⟩, -⟩ := hback
      rcases eq_of_lt_four hm with rfl | rfl | rfl | rfl
      · exact hactive h0
      · exact hactive h1
      · exact hactive h2
      · exact hactive h3
    rw [State.strand_retire_congr (s := s) (by simp), (State.retire_ends idle).1]

/-! ## The set-up of a level (R128) -/

section
variable {s s1 : State} {w : Who} {f : Form} {ops : List Opnd} {lvl : BitVec 2} {end16 : BitVec 16} {r : LoopRegs}
  {count : State → Who → Word} {v : BitVec 32}

/-- END as loop writes it: its address plus 4 x imm16. -/
def Strand.loopEnd (st : Strand) (end16 : BitVec 16) : Word := st.pc + end16.setWidth 64 * 4
/-- The registers of the level as loop writes them. -/
def Strand.loopSetUp (st : Strand) (end16 : BitVec 16) (count : Word) : LoopRegs := ⟨st.pc + 8, st.loopEnd end16, count⟩

/-- The three registers of a level written whole (R407). -/
def State.setLevel (s : State) (w : Who) (lvl : BitVec 2) (r : LoopRegs) : State :=
  [0, 1, 2].foldl (fun (acc : State) k => acc.clearStatus w (4 + 3 * lvl.toNat + k))
    (s.setStrand w ((s.strand w).setLoop lvl.toNat r))

theorem State.strand_setLevel : (s.setLevel w lvl r).strand w = (s.strand w).setLoop lvl.toNat r := by
  simp [State.setLevel]
theorem State.loopRegs_setLevel {m : Nat} (hm : m < 4) :
    ((s.setLevel w lvl r).strand w).loopRegs m = if m = lvl.toNat then r else (s.strand w).loopRegs m := by
  rw [State.strand_setLevel, Strand.loopRegs_setLoop lvl.isLt hm]
theorem State.setLevel_of_no_errors (h : (s.live w.core).perr = []) :
    s.setLevel w lvl r = s.setStrand w ((s.strand w).setLoop lvl.toNat r) := by
  have clean : ((s.setStrand w ((s.strand w).setLoop lvl.toNat r)).live w.core).perr = [] := by
    rw [State.setStrand, State.live_setLive_same]
    exact h
  simp only [State.setLevel, List.foldl, State.clearStatus, clean, if_true]

theorem setUpLoop_of_active {c : Word} (h : c ≠ 0) :
    setUpLoop s w lvl c end16 = done (s.setLevel w lvl ((s.strand w).loopSetUp end16 c)) 1 := if_neg h
theorem setUpLoop_of_word {c : Word} (hc : c = 0) (h : s.fetchWord w ((s.strand w).loopEnd end16) = .word v s1) :
    setUpLoop s w lvl c end16 =
      .ok (.jump (s1.setLevel w lvl ((s.strand w).loopSetUp end16 0)) ((s.strand w).loopEnd end16 + BitVec.ofNat 64 (wordLen v)) 1) := by
  subst hc
  unfold Strand.loopEnd at h
  rw [setUpLoop, if_pos rfl, h]
  rfl
theorem setUpLoop_of_trap {c : Word} {t : Trap} (hc : c = 0) (h : s.fetchWord w ((s.strand w).loopEnd end16) = .trap t) :
    setUpLoop s w lvl c end16 = .error t := by
  subst hc
  unfold Strand.loopEnd at h
  rw [setUpLoop, if_pos rfl, h]

/-- A translation that claims no page changes no strand. -/
theorem strand_useXlat {x : Xlat} (h : x.claim = false) (y : Who) : (s.useXlat w x).strand y = s.strand y := by
  have held : (s.holdXlat w.core x.ent x.va).strand y = s.strand y := State.strand_setCore_of_strands (by rfl) y
  unfold State.useXlat
  rw [h]
  dsimp only
  split
  · rfl
  · exact held
/-- A word fetched: its translation is held, and the word is kept where it was not (R28, R29). -/
theorem fetchWord_word {va : Word} (h : s.fetchWord w va = .word v s1) : ∃ x, s.translate w va .fetch .all = .ok x ∧
    (s1 = s.useXlat w x ∨ ∃ kept, s1 = (s.useXlat w x).setStrand w { (s.useXlat w x).strand w with icache := kept }) := by
  unfold State.fetchWord at h
  cases hx : s.translate w va .fetch .all with
  | error t =>
    rw [hx] at h
    cases h
  | ok x =>
    refine ⟨x, rfl, ?_⟩
    rw [hx] at h
    dsimp only at h
    repeat' split at h
    all_goals cases h
    · exact .inl rfl
    · exact .inr ⟨_, rfl⟩
/-- A fetch leaves the loop levels of its strand. -/
theorem loopRegs_fetchWord {va : Word} (h : s.fetchWord w va = .word v s1) : (s1.strand w).loopRegs = (s.strand w).loopRegs := by
  obtain ⟨x, hx, rfl | ⟨kept, rfl⟩⟩ := fetchWord_word h
  · rw [strand_useXlat (claim_of_fetch hx)]
  · rw [State.strand_setStrand_same, strand_useXlat (claim_of_fetch hx)]
    rfl

/-- A level set up with passes to make: the instruction retires. -/
theorem runInstr_setUpLoop_retires (able : Able s f ops) (hc : count s s.cur ≠ 0) :
    runInstr f ops (fun s w => setUpLoop s w lvl (count s w) end16) s =
      retires s f ops 1 (s.setStrand s.cur ((s.strand s.cur).setLoop lvl.toNat ((s.strand s.cur).loopSetUp end16 (count s s.cur)))) := by
  have ⟨_, clean, _⟩ := able
  rw [runInstr_retires able (setUpLoop_of_active hc), State.setLevel_of_no_errors clean]
/-- A level set up with no pass to make: the PC moves past the word at END. -/
theorem runInstr_setUpLoop_skips (able : Able s f ops) (hc : count s s.cur = 0)
    (hf : s.fetchWord s.cur ((s.strand s.cur).loopEnd end16) = .word v s1) :
    ∃ t, runInstr f ops (fun s w => setUpLoop s w lvl (count s w) end16) s = .next t ∧
      (t.strand s.cur).pc = (s.strand s.cur).loopEnd end16 + BitVec.ofNat 64 (wordLen v) ∧
      ∀ m < 4, (t.strand s.cur).loopRegs m =
        if m = lvl.toNat then (s.strand s.cur).loopSetUp end16 0 else (s.strand s.cur).loopRegs m := by
  refine ⟨_, runInstr_jumps able (setUpLoop_of_word hc hf), ?_, fun m hm => ?_⟩
  · rw [State.strand_jumpTo]
  · rw [State.strand_jumpTo, State.strand_clearErrs, ← loopRegs_fetchWord hf, ← State.loopRegs_setLevel hm]
    rfl
theorem runInstr_setUpLoop_traps {t : Trap} (able : Able s f ops) (hc : count s s.cur = 0)
    (hf : s.fetchWord s.cur ((s.strand s.cur).loopEnd end16) = .trap t) :
    runInstr f ops (fun s w => setUpLoop s w lvl (count s w) end16) s = traps s f t :=
  runInstr_traps able (setUpLoop_of_trap hc hf)
end

theorem execNop_retires {s : State} {f : Form} (able : Able s f []) : exec (.nop f) s = retires s f [] 1 s :=
  runInstr_retires able (body := fun s _ => done s 1) rfl

/-- Settles O8: a retiring nop takes the LoopStep described level by level above; loop and its immediate form differ in their count alone. -/
theorem loopStepAfterRetirement : Obligations.LoopStepAfterRetirement := by
  refine ⟨?_, ?_⟩
  · intro f s able w st hit back
    refine ⟨_, execNop_retires able, ((CoreFrame.refl ..).clearErrs []).retire .., ((NothingElse.refl s).clearErrs []).retire ..,
      fun n hn hback habove => ?_, fun hnone => ?_⟩
    · rw [State.strand_retire_congr (s := s) (by simp)]
      obtain ⟨hpc, hregs⟩ := State.retire_jumps (len := lenBytes f.len) (eu := 1) hn hback habove
      refine ⟨hpc, ?_, fun m hnm hm hhit => ?_, fun m hm hother => ?_⟩
      · rw [hregs n hn, if_pos rfl]
      · rw [hregs m hm, if_neg (by omega), if_pos hnm, LoopRegs.ended_of_endsAt hhit]
      · rcases hother with hmn | ⟨hnm, hhit⟩
        · rw [hregs m hm, if_neg (by omega), if_neg (by omega)]
        · rw [hregs m hm, if_neg (by omega), if_pos hnm, LoopRegs.ended_of_not_endsAt hhit]
    · rw [State.strand_retire_congr (s := s) (by simp)]
      obtain ⟨hpc, hregs⟩ := State.retire_ends (len := lenBytes f.len) (eu := 1) hnone
      exact ⟨hpc, fun m hm hhit => (hregs m hm).trans (LoopRegs.ended_of_endsAt hhit),
        fun m hm hhit => (hregs m hm).trans (LoopRegs.ended_of_not_endsAt hhit)⟩
  · intro f lvl a n end16 s w pc stop level skips one
    have sets_up : ∀ ops (count : State → Who → Word), Able s f ops →
        one (runInstr f ops (fun s w => setUpLoop s w lvl (count s w) end16) s) ops (count s w) := by
      intro ops count able
      refine ⟨runInstr_setUpLoop_retires able, fun hc v s1 hf => ?_, fun hc t hf => runInstr_setUpLoop_traps able hc hf⟩
      obtain ⟨t, hnext, hpc, hregs⟩ := runInstr_setUpLoop_skips able hc hf
      exact ⟨t, hnext, hpc, (hregs _ lvl.isLt).trans (if_pos rfl), fun m hm hml => (hregs m hm).trans (if_neg hml)⟩
    refine ⟨fun m hm => ?_, sets_up [.src a] fun s w => s.reg w a, sets_up [] fun _ _ => n.setWidth 64⟩
    rw [State.strand_setStrand_same, Strand.loopRegs_setLoop lvl.isLt hm]

end Sys2Proof.Machine
end

-- Proofs of the statements of spec/11_context.md.
section
/-!
SUPPORT. The slot that a save writes: SaveCore publishes the written lines of its cluster first (R217, R223), and the descriptor that it
finds the slot by is the one which stands in memory after that (R233, R234).
-/
namespace Sys2Proof.Machine

/-! ## The slot that a saved state names -/

@[simp] theorem CoreCtx.parked_slot (l : CoreCtx) (base : Nat) : (l.parked base).slot = base := rfl
@[simp] theorem CoreCtx.rename_slot (l : CoreCtx) (f : Nat → Nat) : (l.rename f).slot = l.slot := rfl
@[simp] theorem State.setCoreSt_saved (s : State) (ctx core : Nat) (st : CoreSt) : (s.setCoreSt ctx core st).saved = s.saved := rfl
theorem State.saved_of_wake_eq {s t : State} (h : s.wake = t.wake) : s.saved = t.saved := by
  change s.wake.saved = t.wake.saved
  rw [h]

/-- New names for what a context holds move none of its slots. -/
theorem State.rename_saved_slot (s : State) (ctx : Nat) (f : Nat → Nat) (key : Nat) :
    (AMap.get CoreCtx.fresh (s.rename ctx f).saved key).slot = (AMap.get CoreCtx.fresh s.saved key).slot := by
  unfold State.rename AMap.get
  rw [AMap.lookup_mapVals]
  cases s.saved.lookup key with
  | none => rfl
  | some l =>
    show (if savedCtx key = ctx then l.rename f else l).slot = l.slot
    split <;> rfl

/-- A save that ends names the slot that the descriptor gives once the cluster's written lines are home. -/
theorem State.endSave_saved_slot {s : State} {core ctx : Nat} (blocks : Nat) (hctx : (s.core core).ctx = some ctx)
    (hst : (s.core core).st = .saving) (hd : s.drained core = true) :
    (AMap.get CoreCtx.fresh (s.endSave core blocks).saved (savedKey ctx core)).slot =
      (((s.keepErrors core).xferPark core blocks).publishAll [core]).slotBase ctx core := by
  have goes : ¬((s.core core).st ≠ .saving ∨ (!s.drained core) = true) := by simp [hst, hd]
  unfold State.endSave
  simp only [hctx]
  rw [if_neg goes, State.rename_saved_slot]
  simp only [State.setCoreSt_saved, State.setCore_fields, AMap.get_put_same, CoreCtx.parked_slot]

theorem State.resumeAsked_of_none {s : State} {core : Nat} (h : (s.core core).asked = []) : s.resumeAsked core = s := by
  unfold State.resumeAsked
  exact if_pos (Or.inr h)

/-! ## A descriptor written through the cluster's cache -/

/-- The line of the descriptor at 0x6_0000 that holds SAVE0, written and not yet home: it moves the save slots to 0x20_0000. -/
def newSave0 : Line := { data := 0x200000, dirty := BitVec.allOnes 64, bad := false, heads := [], vias := [] }
/-- Context 5 is SAVING on core 0, with nothing to drain. Its descriptor has the save slots at 0x10_0000 in memory, and at 0x20_0000 in
the line that the core's cluster has written. -/
def slotMoved : State :=
  { State.reset with
    mem := [(0x60000, 5), (0x60042, 0x10)]
    caches := [(0, [(0x1801, newSave0)])]
    contexts := [(5, { desc := 0x60000, alive := true, ran := true, cores := [(0, .saving)], binds := [], redone := [], image := [] })]
    cores := [(0, { Core.reset with ctx := some 5, st := .saving })] }

theorem slotMoved_drained : slotMoved.drained 0 = true := by decide +kernel
theorem slotMoved_slotBase : slotMoved.slotBase 5 0 = 0x100000 := by decide +kernel
theorem slotMoved_publishes :
    (((slotMoved.keepErrors 0).xferPark 0 0).publishAll [0]).slotBase 5 0 = 0x200000 := by decide +kernel
theorem slotMoved_asked : ((slotMoved.endSave 0 0).core 0).asked = [] := by decide +kernel

/-- The save of `slotMoved` keeps the state with the slot at its new place. -/
theorem slotMoved_saved_slot :
    (AMap.get CoreCtx.fresh ((slotMoved.endSave 0 0).resumeAsked 0).saved (savedKey 5 0)).slot = 0x200000 := by
  rw [State.resumeAsked_of_none slotMoved_asked]
  exact (State.endSave_saved_slot 0 rfl rfl slotMoved_drained).trans slotMoved_publishes

/-- Refutes O45: it has the state saved with the slot that the descriptor names before the save. A save first sends the written lines of its
cluster home, and one of them may hold SAVE0 of the descriptor: system software that runs on the cluster has stored it there, and its
store is not home yet. The slot is then the one that the new descriptor names, as the state saved with it says. -/
theorem not_contextsOnCores : ¬ Obligations.ContextsOnCores := by
  intro h
  obtain ⟨-, -, switches, -⟩ := h slotMoved
  obtain ⟨-, -, saves, -⟩ := switches 0 5
  obtain ⟨-, ends⟩ := saves 0 rfl rfl rfl
  obtain ⟨t, hexec, -, -, -, hsaved, -⟩ := ends slotMoved_drained rfl
  have saved : ((slotMoved.endSave 0 0).resumeAsked 0).saved = t.saved := State.saved_of_wake_eq (Host.Outcome.next.inj hexec)
  have named : (AMap.get CoreCtx.fresh t.saved (savedKey 5 0)).slot = slotMoved.slotBase 5 0 := congrArg CoreCtx.slot hsaved
  rw [← saved, slotMoved_saved_slot, slotMoved_slotBase] at named
  exact absurd named (by decide)

end Sys2Proof.Machine
end
